-- ==== Sys2Proof/Word.lean ====
section
/-! DEFINITION. Word: the bit-vector types of the machine (00 R4, R5; 07 R179). -/
namespace Sys2Proof

/-- A 32-bit register value or instruction word. -/
abbrev Word := BitVec 32

/-- One byte of memory. -/
abbrev Byte := BitVec 8

/-- One bit for each of the up to 96 lanes of a warp (06 R164 `MASK`). -/
abbrev LaneMask := BitVec 96

end Sys2Proof
end

