-- ==== Sys2Proof/Machine/Sparse.lean ====
section
/-! DEFINITION. Sparse maps from Nat keys: lists in one canonical form (keys strictly rising, no entry equal to what an
unlisted key reads as), so that equal contents are equal data. Every table and memory of State is one. -/
namespace Sys2Proof.Machine

/-- A map from Nat keys; an unlisted key reads as a default that the accessors name. -/
abbrev Sparse (α : Type) := List (Nat × α)

/-- The value at key `k`; `d` where none is listed. -/
def sget {α : Type} (d : α) : Sparse α → Nat → α
  | [], _ => d
  | (k', v) :: t, k => if k = k' then v else if k < k' then d else sget d t k

/-- The map with key `k` holding `v`, in canonical form. -/
def sput {α : Type} [DecidableEq α] (d : α) : Sparse α → Nat → α → Sparse α
  | [], k, v => if v = d then [] else [(k, v)]
  | (k', v') :: t, k, v =>
    if k < k' then (if v = d then (k', v') :: t else (k, v) :: (k', v') :: t)
    else if k = k' then (if v = d then t else (k, v) :: t)
    else (k', v') :: sput d t k v

/-- Every key is above `lo` (when given), keys rise strictly, and no entry equals the default. -/
def swfFrom {α : Type} [DecidableEq α] (d : α) (lo : Option Nat) : Sparse α → Bool
  | [] => true
  | (k, v) :: t =>
    (match lo with
      | none => true
      | some l => decide (l < k)) && decide (v ≠ d) && swfFrom d (some k) t

/-- Canonical form. -/
def swf {α : Type} [DecidableEq α] (d : α) (m : Sparse α) : Bool := swfFrom d none m

/-- Changes the value at one key. -/
def supd {α : Type} [DecidableEq α] (d : α) (m : Sparse α) (k : Nat) (f : α → α) : Sparse α :=
  sput d m k (f (sget d m k))

/-- The memory of the slices: (physical address, byte) pairs; an unlisted byte reads as 0, which is what the wipe of
02 R66 leaves. -/
abbrev Memory := List Host.Cell

/-- One byte of a memory. -/
def memByte (m : Memory) (a : Nat) : Byte := sget 0#8 m a

/-- Writes one byte of a memory. -/
def memSet (m : Memory) (a : Nat) (b : Byte) : Memory := sput 0#8 m a b

/-- The canonical form of a memory. -/
def Memory.wf (m : Memory) : Bool := swf 0#8 m

/-- `n` bytes from address `a`, little-endian (00 R4). -/
def memRead (m : Memory) (a : Nat) : Nat → Nat
  | 0 => 0
  | n + 1 => (memByte m a).toNat + 256 * memRead m (a + 1) n

/-- Writes the low `n` bytes of `x` from address `a`, little-endian (00 R4). -/
def memWrite (m : Memory) (a : Nat) : Nat → Nat → Memory
  | 0, _ => m
  | n + 1, x => memWrite (memSet m a (BitVec.ofNat 8 (x % 256))) (a + 1) n (x / 256)

/-- Bits [hi:lo] of a number (00 R5). -/
def bitsN (x hi lo : Nat) : Nat := x / 2 ^ lo % 2 ^ (hi + 1 - lo)

/-- Bit n of a number. -/
def bitN (x n : Nat) : Bool := x / 2 ^ n % 2 = 1

/-- A Bool as a one-bit number. -/
def b2n (b : Bool) : Nat := if b then 1 else 0

/-- A field placed at bit `lo`. -/
def fieldN (x lo w : Nat) : Nat := (x % 2 ^ w) * 2 ^ lo

/-- An n-bit number read as signed (07 R199 `sext`). -/
def sextN (x n : Nat) : Int :=
  let y := x % 2 ^ n
  if y < 2 ^ (n - 1) then (y : Int) else (y : Int) - (2 ^ n : Nat)

/-- An exact integer narrowed to n bits. -/
def wrapN (x : Int) (n : Nat) : Nat := (x % (2 ^ n : Nat)).toNat

/-- Adds to a counter that stops at its maximum of `w` bits (02 R65, 03 R90). -/
def satAdd (x n w : Nat) : Nat := min (x + n) (2 ^ w - 1)

/-- The lanes of a mask, in ascending order. -/
def lanesOf (m : LaneMask) : List Nat := (List.range 96).filter (fun l => m.getLsbD l)

/-- The mask of one lane. -/
def laneBit (l : Nat) : LaneMask := BitVec.ofNat 96 (2 ^ l)

/-- The mask of a list of lanes. -/
def maskOf (ls : List Nat) : LaneMask := ls.foldl (fun m l => m ||| laneBit l) 0#96

/-- All lanes of a warp of width w. -/
def fullMask (w : Nat) : LaneMask := BitVec.ofNat 96 (2 ^ w - 1)

/-- The number of set bits below bit `n` of a number. -/
def popN (x : Nat) : Nat → Nat
  | 0 => 0
  | n + 1 => popN x n + x / 2 ^ n % 2

/-- The first element of a list that meets a test, with its place. -/
def findAt {α : Type} (f : α → Bool) : List α → Option (Nat × α)
  | [] => none
  | a :: t => if f a then some (0, a) else (findAt f t).map (fun x => (x.1 + 1, x.2))

/-- Replaces the element at a place of a list. -/
def setAt {α : Type} : List α → Nat → α → List α
  | [], _, _ => []
  | _ :: t, 0, b => b :: t
  | a :: t, n + 1, b => a :: setAt t n b

/-- Removes the element at a place of a list. -/
def dropAt {α : Type} : List α → Nat → List α
  | [], _ => []
  | _ :: t, 0 => t
  | a :: t, n + 1 => a :: dropAt t n

/-- Inserts into a list kept in order, after equal elements. -/
def insertBy {α : Type} (le : α → α → Bool) (a : α) : List α → List α
  | [] => [a]
  | b :: t => if le b a then b :: insertBy le a t else a :: b :: t

/-- A list put in order, equal elements keeping their order. -/
def sortBy {α : Type} (le : α → α → Bool) (l : List α) : List α :=
  l.foldl (fun acc a => insertBy le a acc) []

/-- The least element under a strict order, the first where several tie. -/
def leastBy {α : Type} (lt : α → α → Bool) : List α → Option α
  | [] => none
  | a :: t =>
    match leastBy lt t with
    | none => some a
    | some b => if lt b a then some b else some a

end Sys2Proof.Machine
end

