-- ==== Sys2Proof/Syntax.lean ====
section
/-! DEFINITION. Syntax: every row of spec/opcode_table.json as one constructor. Encoded instructions carry the
raw fields of their word (07 R189-R193); hardware events, which have no word, carry the unit they happen at. -/
namespace Sys2Proof

/-- One constructor per row of the opcode table; the docstring gives the rule that states the row's effect. -/
inductive Instr where
  /-- R232. Does nothing except advance the program counter. -/
  | nop
  /-- R224. Ends the active lanes of the path; the warp exits when no lane and no fragment remains. -/
  | exit
  /-- R225. Raises ILLEGAL_INSTRUCTION with cause TRAP and the given code when any lane is active. -/
  | trap (c : Nat)
  /-- R225. Parks the warp with cause BREAK and reports to the driver when the context's debug flag is set. -/
  | bkpt (t : Nat)
  /-- R229. Reads the selected special register into a v-register or s-register. -/
  | srd (d s : Nat)
  /-- R230. Writes the pending high word or the low word of %deadline, arming or disarming the timer. -/
  | swr (a s : Nat)
  /-- R231. Reads %clk, %cyc or %tb whole at one instant into a register pair or quad. -/
  | clk (d s : Nat)
  /-- R220. Makes the path unselectable for 4d clk and resets its age key. -/
  | yield (c : Nat)
  /-- R220. Marks the path spinning. -/
  | spin
  /-- R227. Sets the warp's phase hint used by the rail choice. -/
  | hint (h : Nat)
  /-- R228. Arms the warp's deadline timer relative to %clk, or disarms it for zero. -/
  | timer (a : Nat)
  /-- R226. Raises or lowers the warp's IC count that blocks discard pre-emption. -/
  | idem (e : Nat)
  /-- R221. Writes the path's mode register from an immediate image. -/
  | mode (m : Nat)
  /-- R221. Writes the path's mode register from bits [15:0] of an s-register. -/
  | modex (s : Nat)
  /-- R216. Branches by predicate on every lane of the path, diverging when lanes disagree. -/
  | bra (v p o : Nat)
  /-- R217. Slides the window by the frame, writes the link pair and jumps to a PC-relative target. -/
  | call (f o : Nat)
  /-- R218. Branches each lane to its own target address, splitting the path by target. -/
  | brx (a : Nat)
  /-- R218. Indirect call per lane with frame slide and link pair. -/
  | callx (a f : Nat)
  /-- R158. Checks and reads the link pair and slides the window back, splitting by return address. -/
  | ret
  /-- R167. Records the reconvergence address in the parent split and waits there. -/
  | join
  /-- R219. Waits until all but the n newest of the warp's Hod commands are complete, then continues. -/
  | await (a n : Nat)
  /-- R222. Reads a task control block and takes the atomic step that queues or waits the task, returning a status. -/
  | spawn (d a : Nat)
  /-- R223. Adds 1 to a Traverse word as a release write at .DV. -/
  | tsignal (a : Nat)
  /-- R223. Writes a value to a Traverse word as a release write at .DV. -/
  | tcond (v a : Nat)
  /-- R203. Writes a sign-extended 18-bit immediate. -/
  | movi (n d i : Nat)
  /-- R203. Replaces bits [31:18] of the destination with a 14-bit immediate. -/
  | movhi (d i : Nat)
  /-- R255. Typed element-wise addition. -/
  | add (n d a b : Nat)
  /-- R255. Typed element-wise subtraction. -/
  | sub (n d a b : Nat)
  /-- R255. Typed element-wise multiplication. -/
  | mul (n d a b : Nat)
  /-- R255. High half of the integer element product. -/
  | mulhi (n d a b : Nat)
  /-- R256. Typed element-wise minimum. -/
  | min (n d a b : Nat)
  /-- R256. Typed element-wise maximum. -/
  | max (n d a b : Nat)
  /-- R257. Typed absolute value, moving bits for floating types. -/
  | abs (n d a : Nat)
  /-- R257. Typed negation, moving bits for floating types. -/
  | neg (n d a : Nat)
  /-- R258. Multiplies each floating element by 2 to an integer power. -/
  | scale (n d a b : Nat)
  /-- R257. Gives a's bits with b's sign bit. -/
  | copysign (n d a b : Nat)
  /-- R259. Gives the exponent of each floating element as a value of the same format. -/
  | getexp (n d a : Nat)
  /-- R260. Typed comparison under the condition code, writing a predicate. -/
  | cmp (d a b c : Nat)
  /-- R261. Sets a predicate when every element's class is in the mask. -/
  | classOf (d a b : Nat)
  /-- R262. Fused multiply-add rounded once. -/
  | fma (n d a b : Nat)
  /-- R262. Fused multiply-subtract rounded once. -/
  | fms (n d a b : Nat)
  /-- R262. Fused negated multiply-add rounded once. -/
  | fnma (n d a b : Nat)
  /-- R262. Fused negated multiply-subtract rounded once. -/
  | fnms (n d a b : Nat)
  /-- R264. Approximate reciprocal. -/
  | rcp (n d a : Nat)
  /-- R264. Approximate reciprocal square root. -/
  | rsq (n d a : Nat)
  /-- R264. Square root, correctly rounded under f32. -/
  | sqrt (n d a : Nat)
  /-- R264. Approximate 2 to the power a. -/
  | ex2 (n d a : Nat)
  /-- R264. Approximate base-2 logarithm. -/
  | lg2 (n d a : Nat)
  /-- R265. Sine after reduction by the FP32 constant nearest 2 pi. -/
  | sin (n d a : Nat)
  /-- R265. Cosine after reduction by the FP32 constant nearest 2 pi. -/
  | cos (n d a : Nat)
  /-- R264. Approximate hyperbolic tangent. -/
  | tanh (n d a : Nat)
  /-- R266. Fractional part a minus floor(a). -/
  | frc (n d a : Nat)
  /-- R266. Rounds to an integral value downwards. -/
  | flr (n d a : Nat)
  /-- R266. Rounds to an integral value upwards. -/
  | ceil (n d a : Nat)
  /-- R266. Rounds to an integral value under RM. -/
  | rnd (n d a : Nat)
  /-- R266. Rounds to an integral value towards zero. -/
  | trunc (n d a : Nat)
  /-- R267. Converts elements from the source type in FN to the element type in force. -/
  | cvt (n d a b t : Nat)
  /-- R269. Packs the low halves of two operands. -/
  | pack2 (n d a b : Nat)
  /-- R269. Packs two bytes beneath the low half of d. -/
  | pack4 (n d a b : Nat)
  /-- R270. Widens the low half of a's elements. -/
  | unpacklo (n d a : Nat)
  /-- R270. Widens the high half of a's elements. -/
  | unpackhi (n d a : Nat)
  /-- R271. Sums two element products and the addend exactly and rounds once. -/
  | dot2 (n d a b : Nat)
  /-- R271. Sums four element products and the addend exactly and rounds once. -/
  | dot4 (n d a b : Nat)
  /-- R201. 32-bit wrapping addition. -/
  | addW (n d a b : Nat)
  /-- R201. 32-bit wrapping subtraction. -/
  | subW (n d a b : Nat)
  /-- R201. 32-bit wrapping multiplication. -/
  | mulW (n d a b : Nat)
  /-- R201. High word of the signed 64-bit product. -/
  | mulhiW (n d a b : Nat)
  /-- R201. High word of the unsigned 64-bit product. -/
  | mulhuW (n d a b : Nat)
  /-- R201. Signed minimum. -/
  | minW (n d a b : Nat)
  /-- R201. Signed maximum. -/
  | maxW (n d a b : Nat)
  /-- R201. Unsigned minimum. -/
  | minuW (n d a b : Nat)
  /-- R201. Unsigned maximum. -/
  | maxuW (n d a b : Nat)
  /-- R201. Adds b scaled by 2 to the power FN minus 9 to a. -/
  | lea (n d a b k : Nat)
  /-- R202. 32-bit wrapping multiply-add. -/
  | madW (n d a b : Nat)
  /-- R202. Adds a sign-extended 11-bit immediate. -/
  | addiW (n d a i : Nat)
  /-- R204. Bitwise AND. -/
  | and (n d a b : Nat)
  /-- R204. Bitwise OR. -/
  | or (n d a b : Nat)
  /-- R204. Bitwise exclusive OR. -/
  | xor (n d a b : Nat)
  /-- R204. a AND NOT b. -/
  | andn (n d a b : Nat)
  /-- R204. Logical shift left. -/
  | shl (n d a b : Nat)
  /-- R204. Logical shift right. -/
  | shr (n d a b : Nat)
  /-- R204. Arithmetic shift right. -/
  | shra (n d a b : Nat)
  /-- R204. Rotate left. -/
  | rol (n d a b : Nat)
  /-- R204. Population count. -/
  | popc (n d a : Nat)
  /-- R204. Count of leading zero bits. -/
  | clz (n d a : Nat)
  /-- R204. Bit reversal. -/
  | brev (n d a : Nat)
  /-- R205. Byte permute controlled by b. -/
  | prmt (n d a b : Nat)
  /-- R205. Bit-field extract controlled by b. -/
  | bfe (n d a b : Nat)
  /-- R204. Copies the source operand. -/
  | mov (n d a : Nat)
  /-- R206. AND with a sign-extended immediate. -/
  | andi (n d a i : Nat)
  /-- R206. OR with a sign-extended immediate. -/
  | ori (n d a i : Nat)
  /-- R206. XOR with a sign-extended immediate. -/
  | xori (n d a i : Nat)
  /-- R206. Shift left by an immediate count. -/
  | shli (n d a c : Nat)
  /-- R206. Logical shift right by an immediate count. -/
  | shri (n d a c : Nat)
  /-- R206. Arithmetic shift right by an immediate count. -/
  | shrai (n d a c : Nat)
  /-- R207. Inserts a bit field of a into d. -/
  | bfi (n d a b : Nat)
  /-- R208. Selects a or b per lane by a predicate. -/
  | sel (n d a b v p : Nat)
  /-- R209. 32-bit integer comparison under the condition code, writing a predicate. -/
  | cmpW (d a b c : Nat)
  /-- R210. Predicate AND. -/
  | pand (d a b : Nat)
  /-- R210. Predicate OR. -/
  | por (d a b : Nat)
  /-- R210. Predicate exclusive OR. -/
  | pxor (d a b : Nat)
  /-- R210. Predicate negation. -/
  | pnot (d a : Nat)
  /-- R210. Moves predicates p0-p7 into a register. -/
  | pmovs (n d : Nat)
  /-- R210. Moves masked bits of a value into predicates. -/
  | pmovp (a b : Nat)
  /-- R212. Gives every active lane a mask of lanes whose value is nonzero. -/
  | ballot (n d a k : Nat)
  /-- R212. Predicate true when any active lane's value is nonzero. -/
  | vany (d a : Nat)
  /-- R212. Predicate true when every active lane's value is nonzero. -/
  | vall (d a : Nat)
  /-- R213. Each lane receives the value of an indexed lane. -/
  | shflIdx (n d a b : Nat)
  /-- R213. Each lane receives the value of a lower lane. -/
  | shflUp (n d a b : Nat)
  /-- R213. Each lane receives the value of a higher lane. -/
  | shflDn (n d a b : Nat)
  /-- R213. Each lane receives the value of the lane at its number xor b. -/
  | shflXor (n d a b : Nat)
  /-- R212. Predicate true in the lowest active lane only. -/
  | elect (d : Nat)
  /-- R214. Every active lane receives lane k's value. -/
  | readlane (n d a k : Nat)
  /-- R214. Every active lane receives the lowest active lane's value. -/
  | bcast (n d a : Nat)
  /-- R212. Each lane receives a mask of lanes holding the same value. -/
  | match (n d a k : Nat)
  /-- R215. Sums over active lanes by a fixed pairwise tree. -/
  | wreduceAdd (n d a : Nat)
  /-- R215. Minimum over active lanes by a fixed tree. -/
  | wreduceMin (n d a : Nat)
  /-- R215. Maximum over active lanes by a fixed tree. -/
  | wreduceMax (n d a : Nat)
  /-- R276. Plain load from S-space or L-space with reserved fixed latency. -/
  | ld (d a o z : Nat)
  /-- R276. Plain store to S-space or L-space. -/
  | st (d a o z : Nat)
  /-- R276. Acquire load at the scope of SC. -/
  | ldaq (d a o z c : Nat)
  /-- R276. Release store at the scope of SC. -/
  | strl (d a o z c : Nat)
  /-- R282. Returning atomic lane operation selected by OP, device scope suffix. -/
  | atomDv (d a b o : Nat)
  /-- R282. Returning atomic lane operation selected by OP, team scope suffix. -/
  | atomTm (d a b o : Nat)
  /-- R282. Non-returning atomic reduction, device scope suffix. -/
  | redDv (a b o : Nat)
  /-- R282. Non-returning atomic reduction, team scope suffix. -/
  | redTm (a b o : Nat)
  /-- R298. Asks a queue whether a ticket is complete and waits until it is. -/
  | waitc (a : Nat)
  /-- R280. Imposes release and acquire holds at the scope in SUB. -/
  | fence (s : Nat)
  /-- R281. Writes an operand's poison bit to a predicate. -/
  | pchk (p q : Nat)
  /-- R129. Writes a fresh barrier object image with the expected count. -/
  | binit (q s : Nat)
  /-- R130. Adds a byte count to a barrier's INB. -/
  | announceIn (q s : Nat)
  /-- R130. Adds a byte count to a barrier's OUTB. -/
  | announceOut (q s : Nat)
  /-- R131. Records the path's arrival and, for the warp's last path, decrements PEND as a release step. -/
  | arrive (p q : Nat)
  /-- R135. Waits until the barrier's phase differs from g, as an acquire step. -/
  | bwait (p q s : Nat)
  /-- R135. Tests a barrier phase without waiting. -/
  | btest (p q s : Nat)
  /-- R138. Draws a semaphore ticket and waits for its grant. -/
  | semwaitDraw (p q : Nat)
  /-- R138. Waits for the grant of a given semaphore ticket. -/
  | semwait (q s : Nat)
  /-- R138. Adds k to a semaphore's SERVE as a release step. -/
  | sempost (q s : Nat)
  /-- R288. Reserves the next stage-ring slot or returns all ones. -/
  | rpushRsv (p q : Nat)
  /-- R288. Publishes a reserved stage-ring slot as a release step. -/
  | rpushPub (q s : Nat)
  /-- R288. Takes the next published slot, waiting until it is published. -/
  | rpopTake (p q : Nat)
  /-- R288. Frees a taken stage-ring slot as a release step. -/
  | rpopFree (q s : Nat)
  /-- R288. Returns the next published slot without taking it, or all ones. -/
  | rpeek (p q : Nat)
  /-- R295. Queues a Hod linear copy command. -/
  | hcopy (p q : Nat)
  /-- R295. Queues a Hod strided copy command. -/
  | hcopys (p q : Nat)
  /-- R295. Queues a Hod gather command. -/
  | hgather (p q : Nat)
  /-- R295. Queues a Hod scatter command. -/
  | hscatter (p q : Nat)
  /-- R85. Queues a Hod command that stages pages of a staging segment. -/
  | hstage (p q : Nat)
  /-- R86. Queues a Hod command that evicts pages, with write-back or discard. -/
  | hevict (p q : Nat)
  /-- R87. Queues a Hod pattern fill, making staging pages resident. -/
  | hfill (p q : Nat)
  /-- R330. Queues a Hod command that appends bytes to an Ashlar metadata queue. -/
  | hmeta (p q : Nat)
  /-- R299. Reads a Hod ticket's status word and byte count without waiting. -/
  | hquery (p q : Nat)
  /-- R297. Loads memory into lane registers through the Hod. -/
  | hldr (p q z : Nat)
  /-- R300. Queues a ring fabric reduction. -/
  | rring (p q : Nat)
  /-- R300. Queues a tree fabric reduction. -/
  | rtree (p q : Nat)
  /-- R306. Reads a reduction ticket's status, chunks posted and replays. -/
  | rstat (p q : Nat)
  /-- R310. Writes a tile control word at issue. -/
  | tctl (t q : Nat)
  /-- R326. Reads a tile control word, accumulator state word or AST, optionally clearing AST. -/
  | trdc (p k i : Nat)
  /-- R327. Queues an operation that zeroes a tile and resets its scales. -/
  | tzero (t : Nat)
  /-- R327. Queues an operation that sets every scale of a tile. -/
  | tscl (t q : Nat)
  /-- R318. Writes the gang register that sets the members of joint issue. -/
  | gang (q : Nat)
  /-- R333. Queues a load of a tensor window into a tile. -/
  | tld (t q s : Nat)
  /-- R333. Queues a store of a tile into a tensor window. -/
  | tst (t q s : Nat)
  /-- R329. Arrival at a joint dense matrix multiply-accumulate. -/
  | mma (d a p b : Nat)
  /-- R329. Arrival at a joint 2:4 sparse matrix multiply-accumulate. -/
  | mmas (k d a p b : Nat)
  /-- R335. Sets an accumulator's state word at issue and queues its zeroing. -/
  | azero (d q : Nat)
  /-- R334. Queues conversion of an accumulator into a tensor, by store or atomic add. -/
  | adrain (z d q s : Nat)
  /-- R335. Queues a read of an accumulator row into lane registers. -/
  | aread (p q d : Nat)
  /-- R335. Queues a write of lane values into an accumulator row. -/
  | awrite (p q d : Nat)
  /-- R344. Samples a texture with an explicit level of detail. -/
  | tex (p q s : Nat)
  /-- R346. Samples a texture with a quad-derived level of detail plus bias. -/
  | texb (p q s : Nat)
  /-- R348. Returns a texture level's size, level count and format. -/
  | texq (p q s : Nat)
  /-- R351. Fetches and interpolates a multilevel hash-grid encoding. -/
  | hgf (p q s : Nat)
  /-- R352. Scatters gradients by FP32 atomic adds. -/
  | hgsFast (p q s : Nat)
  /-- R352. Scatters gradients as 64-bit fixed-point atomic adds. -/
  | hgsExact (p q s : Nat)
  /-- R356. Walks each lane's ray through a BVH into its hit buffer. -/
  | trace (q s : Nat)
  /-- R358. Sorts the active lanes' rays by a view-coherent key. -/
  | rsort (p q s : Nat)
  /-- R357. Delivers hit-buffer contents after the warp's last TRACE. -/
  | hitget (p q : Nat)
  /-- R360. Writes vertex attributes in a mesh warp, or colour for a target in a pixel warp. -/
  | emitv (p q s : Nat)
  /-- R360. Writes a primitive's vertex indices and cull bit. -/
  | emitp (p s : Nat)
  /-- R360. Fixes the meshlet's vertex, primitive and attribute-group counts. -/
  | msetc (p q s : Nat)
  /-- R361. Ends the active pixel lanes without writing any target. -/
  | discard
  /-- R362. Sets the meshlet's minimum shading-rate level. -/
  | srate (q : Nat)
  /-- R429. Copies the head fault record to memory and returns its handle. -/
  | fqpop (p q : Nat)
  /-- R430. Reads per-lane detail of the work named by a handle. -/
  | finfo (p q s : Nat)
  /-- R431. Resumes parked work by retry or skip and frees the directory entry. -/
  | fresume (p q s : Nat)
  /-- R432. Ends parked work named by a handle and frees the directory entry. -/
  | fkill (p q : Nat)
  /-- R48. A memory beat's results or completion become visible L clk after the beat issued. -/
  | memoryWriteback (k : Nat)
  /-- R55. A warp held 64 clk on one instruction makes its attempt urgent. -/
  | attemptUrgent (k : Nat)
  /-- R224. An exited warp's registers and slot are released once its issued instructions reach write-back; the last warp releases the team footprint. -/
  | warpRelease (k : Nat)
  /-- R160. The transfer engine's spill or refill of register positions completes and the path may issue. -/
  | frameMoveDone (k m : Nat)
  /-- R140. A wake message for a watched word is delivered and the waiting path rechecks. -/
  | monitorWake (sl : Nat)
  /-- R140. An unregistered waiter rechecks 256 clk after its last failed check. -/
  | monitorRecheck (k m : Nat)
  /-- R228. The warp's deadline timer expires and the warp takes DEADLINE. -/
  | deadline (k : Nat)
  /-- R220. A yielding path becomes selectable again after 4d clk. -/
  | yieldExpiry (k m : Nat)
  /-- R298. A queue's answer to WAITC, HQUERY or RSTAT arrives at the path. -/
  | ticketAnswer (k m : Nat)
  /-- R428. The result of a FRAG instruction is delivered to its pending destination. -/
  | fragDelivery (k m : Nat)
  /-- R297. All lanes of an HLDR are written in one clk once the last read completes. -/
  | hldrDelivery (core m : Nat)
  /-- R341. A later segment of a long texture-unit instruction attempts its reservation. -/
  | textureSegmentAttempt (k m : Nat)
  /-- R356. The traversal unit finishes a warp's rays and fills the hit buffers. -/
  | traceComplete (k m : Nat)
  /-- R291. A Hod reads and checks a command record when the command becomes head of its queue. -/
  | hodRecordRead (core q : Nat)
  /-- R78. A free transfer slot starts the head command chosen by queue priority and round robin. -/
  | hodCommandStart (core : Nat)
  /-- R81. A Hod unit read of S, L, A, H or P space arrives in its buffer. -/
  | hodUnitRead (core t : Nat)
  /-- R81. A Hod unit is written to its destination and its buffer unit freed. -/
  | hodUnitWrite (core t : Nat)
  /-- R32. A cluster walker reads page-table levels to translate an A-space page. -/
  | pageWalk (core t : Nat)
  /-- R86. After 256 clk and the drain of reserved slots, eviction writes back or releases the page. -/
  | evictWaitEnd (core t : Nat)
  /-- R79. A Hod command finishes, completes its ticket in queue order and wakes waiters. -/
  | hodCommandComplete (core t : Nat)
  /-- R422. A repair staging completes and resumes or hands off its attached fragments. -/
  | repairComplete (core t : Nat)
  /-- R73. The controller starts a queued access when its bank is idle and unrefreshed. -/
  | lpddrAccessStart (q b : Nat)
  /-- R74. A refresh slot falls due and is appended to the sub-channel's list. -/
  | refreshSlotDue (q : Nat)
  /-- R75. The oldest postponed slot's bank is idle and its per-bank refresh starts. -/
  | perBankRefresh (q : Nat)
  /-- R75. Once every bank is idle the forced all-bank refresh runs and the debt clears. -/
  | allBankRefresh (q : Nat)
  /-- R74. Every 1 ms the controller reads the devices' refresh-rate indication. -/
  | refreshRatePoll (q r : Nat)
  /-- R71. The controller scrubs a burst in a clk when its bank is idle. -/
  | lpddrScrub (a : Nat)
  /-- R43. The slice scrubber reads a granule in an unreserved bank slot and rewrites corrections. -/
  | patrolScrub (a : Nat)
  /-- R38. A host read arrives through the SRAM aperture. -/
  | hostApertureRead (a n : Nat)
  /-- R38. A host write arrives through the SRAM aperture. -/
  | hostApertureWrite (a n x ps : Nat)
  /-- R6. A host write to a control-aperture register without behaviour of its own. -/
  | registerWrite (a x : Nat)
  /-- R402. A write of a queue's TICKETS changes its stride from the next decision on. -/
  | ticketsWrite (q x : Nat)
  /-- R365. Writing the SNS word steps the timebase by SNS plus SFRAC. -/
  | tbStep
  /-- R365. Writing INC changes the timebase rate from the next mesh clk. -/
  | tbIncWrite (x : Nat)
  /-- R365. A PPS rising edge captures the timebase into CAP. -/
  | ppsCapture
  /-- R365. Loss of lock to the 10 MHz input clears REFLK and is journalled. -/
  | refLockLoss
  /-- R394. The Z96 reads, checks, numbers and journals the next launch record of a queue. -/
  | launchAccept (q : Nat)
  /-- R403. Each mesh clk the distributor places one team, pair or task from strip work, resumes or the stride arbiter. -/
  | distributorDecision
  /-- R155. Scratchpad zeroing and register start state complete and the team's warps become resident. -/
  | teamStart (t : Nat)
  /-- R435. A launch with nothing placed, queued or running completes and is journalled. -/
  | launchComplete (l : Nat)
  /-- R410. A GRAPH launch is placed on a free Traverse walker. -/
  | graphPlace (l : Nat)
  /-- R412. A graph node completes and decrements its successors' PEND. -/
  | traverseNodeDone (tw m : Nat)
  /-- R413. A waiting COND node re-reads its condition word on a wake. -/
  | condRecheck (tw m : Nat)
  /-- R412. A WAITTIME node completes at its time. -/
  | waittimeExpiry (tw m : Nat)
  /-- R368. A pipeline's timing generator starts a frame and computes its length. -/
  | frameStart (pp : Nat)
  /-- R371. A mesh team's meshlet reaches the replicator, which transforms, culls and bins it. -/
  | meshletHandoff (t : Nat)
  /-- R409. The BIN node completes once FRAMEEND is accepted and the frame's mesh launches finish. -/
  | binNodeComplete (pp : Nat)
  /-- R374. A BIN node not done by its deadline ends Late and its frame's chains are skipped. -/
  | binNodeLate (pp : Nat)
  /-- R407. From R minus 4,096 clk the chain's clusters are reserved. -/
  | plumbReserve (ch : Nat)
  /-- R369. A strip chain is released at R or when its predecessor ends. -/
  | chainRelease (ch : Nat)
  /-- R385. A waiting chain node starts when its slot becomes FREE. -/
  | nodeSlotFree (ch : Nat)
  /-- R385. A chain node's work completes; its cost is recorded and the next node is checked. -/
  | chainNodeDone (ch m : Nat)
  /-- R385. %clk reaching F ends the chain Late at level 5. -/
  | chainLate (ch : Nat)
  /-- R377. Raster launches a pixel warp in key order when eight reorder entries are free. -/
  | pixelWarpLaunch (ch : Nat)
  /-- R377. The oldest ended reorder entry commits its fragments through depth test and blend. -/
  | fragmentCommit (k : Nat)
  /-- R381. The consumer takes an output slot at F_o, reading it or repeating the strip. -/
  | stripConsumerTake (pp st : Nat)
  /-- R389. A line is scanned or encoded at its time, replaced by the previous line if data is missing. -/
  | lineScan (pp : Nat)
  /-- R391. The AV1 encoder writes an OBU and then WOFF as a release. -/
  | obuWrite (pp x : Nat)
  /-- R321. A ready paired operation copies its B tile into the empty clip-in latch. -/
  | latchHold (core : Nat)
  /-- R321. The partner's ready paired operation joins or mismatches the held latch. -/
  | latchJoin (pr : Nat)
  /-- R322. A latch or unmatched gang arrival held 2^20 resident clk raises a gang fault. -/
  | rendezvousTimeout (pr : Nat)
  /-- R315. An Ashlar operation starts on the array or port when its hazards clear. -/
  | ashlarOpStart (ax : Nat)
  /-- R316. An Ashlar operation completes. -/
  | ashlarOpComplete (ax : Nat)
  /-- R335. An AREAD delivers its values once earlier operations have completed. -/
  | areadDelivery (k m : Nat)
  /-- R424. A fault takes a directory entry and writes its record to the fault queue or driver log. -/
  | faultRecordWrite (cx : Nat)
  /-- R425. A handler launch is accepted for a non-empty fault queue below HMAX. -/
  | handlerLaunchStart (cx : Nat)
  /-- R437. A team stops at boundaries, drains and writes its save areas, then is marked saved. -/
  | teamSave (t : Nat)
  /-- R442. A saved team is restored, its scratchpad copied if moved, before any warp issues. -/
  | teamResume (t core : Nat)
  /-- R445. An idem team is dropped at boundaries and returned to its launch's unplaced teams. -/
  | teamDiscard (t : Nat)
  /-- R29. After the old table drains, blocks no longer protected are zeroed and unmarked. -/
  | protectRelease (cx : Nat)
  /-- R23. A segment commit reports completion after switches, Hod drain and release. -/
  | segCommitDone (cx : Nat)
  /-- R33. A shootdown completes once transfers using older translations finish. -/
  | shootdownDone (cx : Nat)
  /-- R35. A P-space request arrives and is checked against the export table and translated. -/
  | peerRequest (dev a op x : Nat)
  /-- R301. A reduction chunk message arrives and is checked against the local record. -/
  | chunkMessage (core c mem : Nat)
  /-- R304. A chunk's final value is written and its semaphore posted at .FB. -/
  | chunkComplete (core c : Nat)
  /-- R473. A Hexost port fails retries or misses three heartbeats and routes fail over. -/
  | portDown (po : Nat)
  /-- R473. A retrained port is journalled up. -/
  | portUp (po : Nat)
  /-- R462. A DisplayPort hot-plug event is journalled. -/
  | dpHotplug (po x : Nat)
  /-- R453. Every 100 microseconds a cluster's sensors are sampled and judged. -/
  | sensorSample (cl se x : Nat)
  /-- R448. After 1 s without cause the forced low rail ends. -/
  | forceClear (cl : Nat)
  /-- R448. Under auto, 4,096 clk of memory or wait hints move the cluster to the low rail. -/
  | lowRailIdle (cl : Nat)
  /-- R447. A cluster stops issue, switches rail and clock within 16 ns, and resumes. -/
  | railSwitch (cl r : Nat)
  /-- R454. After 1 ms a margin step is judged and the rail lowered or held. -/
  | marginStep (cl e : Nat)
  /-- R466. Power-up or link reset enters BOOT, wipes and trains the link. -/
  | powerUp
  /-- R66. All slices and sub-channels finish their wipes and accesses are accepted again. -/
  | wipeComplete
  /-- R466. Writing FWGO in BOOT starts firmware verification. -/
  | fwgo
  /-- R465. Verification ends, entering ACTIVE or LOCKED with FWSTAT set. -/
  | fwVerifyDone
  /-- R463. Control command creating a context from a context record. -/
  | ctxCreate
  /-- R464. Control command destroying a context and dropping its work. -/
  | ctxDestroy
  /-- R23. Control command checking and installing a new segment table. -/
  | segCommit
  /-- R33. Control command invalidating A-space translations of a context. -/
  | shootdown
  /-- R34. Control command installing an H-window entry. -/
  | hwinSet
  /-- R35. Control command installing a P-space export entry. -/
  | exportSet
  /-- R472. Control command installing the Hexost route table. -/
  | routeSet
  /-- R77. Control command placing a command in a Hod's driver queue. -/
  | hodPlace
  /-- R379. Control command installing a strip-ring descriptor. -/
  | ringSet
  /-- R366. Control command installing a pipeline record. -/
  | pipeSet
  /-- R406. Control command admitting and enabling a strip pipeline. -/
  | pipeEnable
  /-- R366. Control command disabling a strip pipeline. -/
  | pipeDisable
  /-- R426. Control command resuming work named by a handle, as FRESUME. -/
  | resume
  /-- R426. Control command ending work named by a handle, as FKILL. -/
  | kill
  /-- R446. Control command saving every team on a core set and restoring named teams there. -/
  | pswap
  /-- R454. Control command starting an undervolt margin search of a rail. -/
  | margin
  /-- R466. Control command moving the device to another life-cycle state with a wipe. -/
  | lifecycle
  /-- R462. Control command training a DisplayPort link. -/
  | dpTrain
  /-- R462. Control command performing a DisplayPort AUX transfer. -/
  | auxXfer
  /-- R468. Control command writing a signed attestation report. -/
  | attest
  /-- R300. A reduction engine at a Hexost stop starts the head command of a core's reduction queue, reading and checking its record and group table before any exchange. -/
  | reductionCommandStart (core : Nat)
  /-- R365. With REFEN set, the mesh clock locks to the 10 MHz input and REFLK becomes 1. -/
  | refLockGained
  /-- R305. A member of a fabric reduction stops answering and every surviving member ends the reduction with status 17. -/
  | memberStopsAnswering (core rk : Nat)
deriving DecidableEq, Repr

end Sys2Proof
end

