-- ==== Sys2Proof/Machine/Types.lean ====
section
/-! DEFINITION. Types of the state the execution chapters give the machine: registers, paths, warps, teams, launches,
contexts and the memory of the slices. Plain data throughout. -/
namespace Sys2Proof.Machine

/-- A 32-bit register value with its poison bit (04 R113). -/
structure Val where
  bits : Word := 0#32
  psn : Bool := false
deriving DecidableEq, Repr

/-- A `%tb` snapshot of a path (08 R229, 14 R363): seconds, nanoseconds, fraction. -/
structure TbSnap where
  sec : Nat := 0
  ns : Nat := 0
  frac : Nat := 0
deriving DecidableEq, Repr

/-- One lane's fault: lane, code (16 R418), first failing address, ARITH flags (16 R423 `VA`, `XF`; R430). -/
structure LaneFault where
  lane : Nat
  code : Nat
  va : Nat := 0
  xf : Nat := 0
deriving DecidableEq, Repr

/-- What a path waits for: `ST` of 06 R164, with what the wait needs to end. -/
inductive Wait where
  /-- Ready (`ST` 0). -/
  | none
  /-- Waiting at its JOIN (`ST` 1). -/
  | join
  /-- On a Cairn monitor (`ST` 2); when the monitor was full, `poll` is its slice and the clk of the next recheck (04 R118). -/
  | monitor (poll : Option (Nat × Nat))
  /-- At an AWAIT (`ST` 2; 08 R219): the count and the continuation. -/
  | await (n : Nat) (cont : Word)
  /-- A WAITC has asked a queue about a ticket (`ST` 2; 11 R298): the ticket, where the path goes on, when the answer is due. -/
  | asking (t : Nat) (npc : Word) (due : Nat)
  /-- On a Hod or reduction ticket (`ST` 2; 11 R298); `poll` is the clk of the next recheck when not registered. -/
  | ticket (t : Nat) (npc : Word) (poll : Option Nat)
  /-- Held for a frame move until its last unit is written back (`ST` 3; 06 R160): the clk, once that unit has reserved. -/
  | frame (till : Option Nat)
  /-- Not selectable after a YIELD until the clk given (08 R220). -/
  | yield (till : Nat)
deriving DecidableEq, Repr

/-- `KIND` of a belay entry (06 R164). -/
inductive NodeKind where
  | free | path | split | frag
deriving DecidableEq, Repr

/-- An instruction of a path between its issue and what follows from the access it made (05 R126; 08 R222; 12 R332; 13 R339): the clk
of its issue, the image that the access found and its poison, the address it named, for a SPAWN the physical address of the word
that its step is to change, and for an Ashlar record the operation that holds its place in the queue. -/
structure HalfIssue where
  instr : Instr := .nop
  at_ : Nat
  img : Nat := 0
  psn : Bool := false
  va : Nat := 0
  pb : Nat := 0
  op : Nat := 0
  /-- What TEXQ read of its lanes: lane, value, poison. -/
  vals : List (Nat × List Nat) := []
deriving DecidableEq, Repr

/-- A belay entry or root record (06 R164), and the path state beside it (08 R229, R230; 16 R421). Index 64 stands for the
root record of the warp. -/
structure Node where
  kind : NodeKind := .free
  slot : Nat := 0
  parent : Nat := 64
  mode : BitVec 16 := 0#16
  wb : Nat := 0
  fs : Bool := false
  wait : Wait := .none
  spn : Bool := false
  jv : Bool := false
  pc : Word := 0#32
  spc : Nat := 0
  spTgt : Word := 0#32
  fcode : Nat := 0
  tkv : Bool := false
  tkt : Word := 0#32
  mask : LaneMask := 0#96
  fragId : Nat := 0
  fmask : LaneMask := 0#96
  tb : TbSnap := {}
  swr : Word := 0xffffffff#32
  /-- The clk since which the path has waited to issue (06 R171). -/
  since : Nat := 0
  /-- Selections of the warp since a spinning path last issued (06 R171). -/
  spSel : Nat := 0
  /-- No later memory, synchronisation or engine instruction of the path issues before this clk (11 R279). -/
  hold : Nat := 0
  /-- The path issues nothing before this clk (05 R126). -/
  stop : Nat := 0
  /-- The clk after the path's last FENCE: no such instruction issues while a texture-unit instruction or TRACE issued before it is
  incomplete (11 R279). -/
  fence : Nat := 0
  /-- No such instruction issues while a host write that reached its stop before this clk has yet to take effect (04 R122). -/
  acq : Nat := 0
  step : Option HalfIssue := none
  /-- The lane faults a fragment was made for (16 R430). -/
  detail : List LaneFault := []
deriving DecidableEq, Repr

/-- The pending side that a serial record holds (06 R170). -/
structure Side where
  pc : Word
  mask : LaneMask
  mode : BitVec 16
  wb : Nat
deriving DecidableEq, Repr

/-- A group of serial records (06 R170): its pending sides, innermost record first; the join address and waiting mask that
its innermost record holds; the mode and window base at the divergence. -/
structure SerialGrp where
  owner : Nat
  sides : List Side
  jpc : Option Word := none
  waiting : LaneMask := 0#96
  mode : BitVec 16
  wb : Nat
  /-- `%fragid` and `%faultmask` of the path at the divergence (16 R421). -/
  fragId : Nat := 0
  fmask : LaneMask := 0#96
deriving DecidableEq, Repr

/-- An arrival record (05 R131). -/
structure ArriveRec where
  addr : Nat
  mask : LaneMask
  gen : Nat
deriving DecidableEq, Repr

/-- What a pending register waits for (11 R297, R299, R306; 12 R335; 16 R428). -/
inductive Delivery where
  /-- HQUERY of a ticket. -/
  | query (t : Nat)
  /-- RSTAT of a ticket. -/
  | rstat (t : Nat)
  /-- A FRAG result formed at issue: the same for every lane, or one per lane. -/
  | frag (vals : List Val)
  /-- HLDR: filled by the Hod command of a sequence number. -/
  | hldr (seq : Nat)
  /-- AREAD: queue position and accumulator. -/
  | aread (opId : Nat)
  /-- HITGET while the warp's TRACE is incomplete: item k of the hit buffers (13 R357). -/
  | trace (k : Nat)
  /-- A texture-unit instruction with segments still to reserve, or results to come (13 R340, R341): its job. -/
  | tex (at_ : Nat)
deriving DecidableEq, Repr

/-- Registers of a path awaiting a delivery: first code, count, lanes, and the window base they were named under. -/
structure Pend where
  nid : Nat
  dst : Nat
  num : Nat
  mask : LaneMask
  wb : Nat
  due : Nat
  del : Delivery
deriving DecidableEq, Repr

/-- The hit buffer of a lane (13 R357). -/
structure Hit where
  t : Word := 0#32
  prim : Word := 0#32
  u : Word := 0#32
  v : Word := 0#32
  status : Word := 0#32
deriving DecidableEq, Repr

/-- One atomic step, or one check, on an object, from its issue to its bank slot (05 R126): the instruction, or none for the arrival
that an exit completes (05 R132); the path, the clk of its issue and its active lanes; the object's address and physical address;
the operand that goes with it; the write-back clk. -/
structure StepJob where
  instr : Option Instr
  nid : Nat
  at_ : Nat
  act : LaneMask
  va : Nat
  pa : Nat
  x : Nat
  back : Nat
deriving DecidableEq, Repr

/-- What an access in flight does at its bank slot (02 R46, R48; 04 R98; 05 R126, R143; 13 R352). -/
inductive AccOp where
  /-- A read; plain reads take part in the race rule (02 R44). -/
  | load (plain : Bool)
  | store
  /-- An atomic lane operation of 05 R143. -/
  | atomic (op : Nat)
  /-- The 64-bit addition of HGS.EXACT (13 R352). -/
  | addQ
  /-- A step on an object (05 R126). -/
  | step (j : StepJob)
deriving DecidableEq, Repr

/-- One lane's part of an access: address, bytes, data (of a store, or of an atomic with its compare value), and once served what
it found and its poison. `tag` is the tap of a texture access (13 R340). -/
structure AccPart where
  lane : Nat
  pa : Nat
  n : Nat
  x : Nat := 0
  cmp : Nat := 0
  tag : Nat := 0
  got : Nat := 0
  psn : Bool := false
deriving DecidableEq, Repr

/-- One bank access (02 R46): its beat, its bank word and bank slot, and the lanes that share it. -/
structure BankAcc where
  beat : Nat
  gran : Nat
  slot : Nat
  parts : List AccPart
  served : Bool := false
deriving DecidableEq, Repr

/-- Where the results of an instruction in flight go: nowhere, `num` registers from a stack position of the lanes, `num`
s-registers, a path between the parts of the instruction that it issued in a clk, a texture-unit job, the walk of a lane's ray, or a Hod's buffer. -/
inductive FlightDst where
  | none
  | lanes (pos num : Nat)
  | uni (i num : Nat)
  | half (nid at_ : Nat)
  | tex (at_ : Nat)
  | ray (lane : Nat)
  /-- A unit of a Hod's transfer (03 R81). -/
  | hod (id : Nat)
  /-- What an operation of an Ashlar context moves (12 R316). -/
  | ash (ax id : Nat)
deriving DecidableEq, Repr

/-- A memory instruction between its issue and its write-back (02 R46-R48): the issuing warp's slot and agent, what it does, its
accesses in order, and the write-back clk of each beat that is still to come. -/
structure Flight where
  key : Nat
  agent : Nat
  op : AccOp
  dst : FlightDst
  lanes : LaneMask
  accs : List BankAcc
  backs : List (Nat × Nat)
deriving DecidableEq, Repr

/-- A bank slot reserved and not yet passed (02 R51, R65): bank word, clk, whether the slice's own core asked for it, the
warp, where it is a warp's, and the clk of the reservation (R52). -/
structure BankSlot where
  gran : Nat
  slot : Nat
  own : Bool
  key : Option Nat
  at_ : Nat
deriving DecidableEq, Repr

/-- What waits for the traffic of a core transfer engine or an edge stop (02 R56; 06 R155, R160): a path's frame move, a team, or
nothing. -/
inductive MoveFor where
  | frame (key nid : Nat)
  | team (tk : Nat)
  | none
deriving DecidableEq, Repr

/-- Traffic that a requester has yet to reserve (02 R54, R56): the core, or the edge stop, it enters by, the 256-byte units in order, each by its bank
words, and what waits for it. -/
structure Move where
  core : Nat
  units : List (List Nat)
  what : MoveFor := .none
deriving DecidableEq, Repr

/-- Life of a warp in its slot (06 R173). -/
inductive WarpStatus where
  | placed | resident | parked | exited
deriving DecidableEq, Repr

/-- An exact rational: numerator and positive denominator, not reduced. -/
structure Q where
  num : Int
  den : Nat := 1
deriving DecidableEq, Repr

/-- A rational, an infinity or NaN. -/
inductive XR where
  | nan
  | inf (neg : Bool)
  | q (x : Q)
deriving DecidableEq, Repr

/-- The best hit so far (13 R356): distance, primitive, u, v. -/
structure Best where
  t : XR := .inf false
  prim : Nat := 0xffffffff
  u : XR := .q ⟨0, 1⟩
  v : XR := .q ⟨0, 1⟩
deriving DecidableEq, Repr

/-- One lane's walk (13 R356): its ray block, the nodes still to visit, the best hit so far, the nodes visited, the code it ended
with, and the clk in which the node it has asked for is there. -/
structure RayWalk where
  lane : Nat
  words : List Nat
  stack : List Nat
  best : Best := {}
  visits : Nat := 0
  code : Option Nat := none
  due : Option Nat := none
deriving DecidableEq, Repr

/-- A traversal in progress for a warp (13 R356): the issuing path, the root's address, the walks of its lanes, the clk of its issue, and
the clk before which no node is read. -/
structure TraceJob where
  nid : Nat
  root : Nat
  rays : List RayWalk
  at_ : Nat := 0
  after : Nat := 0
deriving DecidableEq, Repr

/-- One access of a texture-unit instruction (13 R340): lane, the key that orders and groups passes, physical address,
bytes, which feature of its entry, and an HGS contribution. -/
structure TexAcc where
  lane : Nat
  key : Nat
  pa : Nat
  n : Nat
  fx : Nat := 0
  val : Nat := 0
deriving DecidableEq, Repr

/-- A texture-unit instruction from its fetch step to its results (13 R339-R341): 0 TEX and TEXB, 1 HGF, 2 HGS.FAST,
3 HGS.EXACT, 4 TEXQ; its descriptor, the words each lane's results follow from, and the accesses whose segments are still to reserve.
`after` is the last bank slot of the segment before, `done` the write-back clk once the last segment has reserved, `at_` the clk of
the issue, which names the job among those of its warp, `sent` that of the fetch step. -/
structure TexJob where
  nid : Nat
  op : Nat
  dst : Nat
  wb : Nat
  desc : Nat
  lanes : List (Nat × List Nat)
  left : List TexAcc
  after : Nat := 0
  done : Nat := 0
  at_ : Nat := 0
  sent : Nat := 0
deriving DecidableEq, Repr

/-- A meshlet under construction (13 R360, R362): counts, attribute groups, level, vertex words by (vertex × 5 + group) × 4
+ component, primitive words (culled where unlisted). -/
structure Mesh where
  set : Bool := false
  nv : Nat := 0
  np : Nat := 0
  g : Nat := 0
  srate : Nat := 0
  verts : Sparse Nat := []
  prims : Sparse Nat := []
deriving DecidableEq, Repr

/-- A result not readable yet (07 R195): register, latch or predicate, its lanes, and the clk from which it is. -/
structure Busy where
  reg : Nat
  lanes : LaneMask
  till : Nat
deriving DecidableEq, Repr

/-- A warp of a team in its slot: 06 R148-R164, 02 R64, 05 R131, 08 R219-R230, 09 R247, R248, 16 R421. -/
structure Warp where
  ctx : Nat
  launch : Nat
  team : Nat
  teamId : Nat
  warpId : Nat
  nwarps : Nat
  width : Nat
  depth : Nat
  frame : Nat
  half : Nat
  status : WarpStatus := .resident
  handler : Bool := false
  strip : Bool := false
  view : Nat := 0
  stripIx : Nat := 0
  srate : Nat := 0
  tcb : Option Nat := none
  taskDepth : Nat := 0
  seed : Nat := 0
  root : Node
  sb : Nat := 0
  rbase : Nat := 0
  v : Sparse Val := []
  s : Sparse Val := []
  p : Sparse LaneMask := []
  y : Sparse Val := []
  /-- Validity of y1 to y4: bit i - 1 for yi. -/
  yv : Nat := 0
  /-- The path whose instruction was the warp's last (07 R188). -/
  lastPath : Nat := 64
  /-- The path chosen at a selection whose instruction has not issued: it stays chosen (06 R171). -/
  chosen : Option Nat := none
  /-- Serial groups, innermost first (06 R170). -/
  serial : List SerialGrp := []
  arrive : List ArriveRec := []
  /-- Objects at which an exit has completed the warp's arrival, until the arrival may be performed as a release (05 R132). -/
  finals : List Nat := []
  lsum : Nat := 0
  hold : Nat := 0
  nmem : Nat := 0
  lmax : Nat := 0
  nurg : Nat := 0
  oc : Nat := 0
  ocp : Nat := 0
  /-- Resumes on another sub-core queue (08 R219). -/
  epoch : Nat := 0
  ic : Nat := 0
  hint : Nat := 3
  axf : Nat := 0
  fseq : Nat := 0
  deadline : Nat := 0xffffffffffffffff
  dlHit : Bool := false
  cyc : Nat := 0
  /-- Completion counts by lane (09 R247). -/
  cnt : List Nat := []
  hits : Sparse Hit := []
  pend : List Pend := []
  trace : Option TraceJob := none
  /-- Results not readable yet (07 R195). -/
  busy : List Busy := []
  /-- Write-back times of issued memory instructions (02 R48). -/
  inflight : List Nat := []
  /-- Last bank slot of the warp's plain writes (04 R102). -/
  lastPlain : Nat := 0
  /-- The clk since which its attempt has been held on one instruction, whether it is urgent, and the resources it then waits for
  (02 R55). -/
  heldAt : Option Nat := none
  urgent : Bool := false
  want : List Nat := []
  /-- Age key of the group scheduler (15 R415). -/
  age : Nat := 0
  /-- The fault the warp is parked for: code, cause, argument, faulting path, lanes (16 R418, R423). -/
  park : Option (Nat × Nat × Nat × Nat × LaneMask) := none
  /-- The lane faults behind a FRAG_EXHAUSTED park (16 R430, R434). -/
  detail : List LaneFault := []
  /-- Texture-unit instructions with segments to reserve (13 R341). -/
  tex : List TexJob := []
  /-- Stage of the warp (13 R359): 0 neither, 1 mesh, 2 pixel. -/
  stageKind : Nat := 0
  /-- Colours emitted by a pixel warp: (lane × 4 + target) × 4 + channel, and which are emitted: lane × 4 + target. -/
  colour : Sparse Nat := []
  emitted : Sparse Bool := []
  /-- Lanes that DISCARD has ended. -/
  killedPix : LaneMask := 0#96
  /-- While saved: the slot it left, which it holds for its own context (16 R440). -/
  leftKey : Nat := 0
deriving DecidableEq, Repr

/-- What a handle names (16 R427): a fragment, a warp or a team, by team, warp and fragment identity. -/
inductive Work where
  | frag (team warp fragId : Nat)
  | warp (team warp : Nat)
  | gang (team : Nat)
deriving DecidableEq, Repr

/-- Where a team stands (06 R173); a team that Plumb has released and that is not placed yet is waiting. -/
inductive TeamStatus where
  | waiting | placed | started | saved | ended
deriving DecidableEq, Repr

/-- A team or task from its placement to its end (06 R148-R156, R174; 15 R403). -/
structure Team where
  ctx : Nat
  launch : Nat
  teamId : Nat
  status : TeamStatus := .placed
  kpc : Nat
  width : Nat
  depth : Nat
  frame : Nat
  scratch : Nat
  nw : Nat
  pair : Bool
  ash : Bool
  idem : Bool
  energy : Nat := 0
  strip : Bool := false
  handler : Bool := false
  tcb : Option Nat := none
  taskDepth : Nat := 0
  args : List Nat := []
  s4 : Nat := 0
  s5 : Nat := 0
  queue : Nat := 0
  core : Nat := 0
  /-- Sub-core and slot of each warp, halves in order: keys of `State.warps`. -/
  keys : List Nat := []
  base0 : Nat := 0
  base1 : Nat := 0
  /-- Spill areas: core, offset in its slice, bytes (06 R157). -/
  spills : List (Nat × Nat × Nat) := []
  /-- A resume in progress (16 R442): the core and scratchpads it left. -/
  restoring : Bool := false
  oldCore : Nat := 0
  old0 : Nat := 0
  old1 : Nat := 0
  /-- Cores a partition swap restores it onto (16 R446), as a mask. -/
  swapTo : Option Nat := none
  /-- Image of the task's control block. -/
  image : Nat := 0
  /-- Strip-chain teams: clusters they may use (15 R403), `%deadline`, and `%view`, `%strip`, `%srate`. -/
  rsv : Option Nat := none
  deadlineAt : Option Nat := none
  view : Nat := 0
  stripIx : Nat := 0
  srate : Nat := 0
  /-- Ashlar context held on each core, 0 or 1. -/
  ash0 : Nat := 0
  ash1 : Nat := 0
  wdl : Nat := 0
  left : Nat := 0
  order : Nat := 0
  clkBound : Nat := 0
  stage : Nat := 0
  pipe : Nat := 0
  chain : Nat := 0
  node : Nat := 0
  /-- Parked at gang level: cause (16 R418 code 32). -/
  gangPark : Option Nat := none
  /-- Pending save (1) or discard (2) at the next boundaries (16 R419). -/
  preempt : Nat := 0
  /-- The clk before which its end may not be observed: 17 after the last plain write of its ended warps (04 R109). -/
  gapAt : Nat := 0
  /-- The clk by which its transfer-engine traffic has reached write-back (06 R155; 16 R441). -/
  moved : Nat := 0
  /-- Work of the team awaiting a handler (16 R435). -/
  awaiting : Nat := 0
  /-- What handles and commands ask of the team while it is saved (16 R433, R442): work, kill, mode. -/
  changes : List (Work × Bool × Nat) := []
  /-- The meshlet a mesh team builds (13 R360), and whether it has been handed over (14 R371). -/
  mesh : Mesh := {}
  handed : Bool := false
  /-- The core transfer engines have been given what its start, save or resume moves (06 R155; 16 R437, R442). -/
  asked : Bool := false
  /-- Of an ended team: 1 once its footprint is released, 2 once its end is observed; only Ashlar contexts and a meshlet keep it then
  (06 R156; 04 R109; 12 R323). -/
  gone : Nat := 0
deriving DecidableEq, Repr

/-- A launch from acceptance to completion (15 R394, R395, R410; 16 R435). -/
structure Launch where
  queue : Nat
  ctx : Nat
  pos : Nat
  recAddr : Nat
  /-- The 512-bit record. -/
  image : Nat
  kind : Nat
  nextTeam : Nat := 0
  /-- Teams and tasks placed or running. -/
  live : Nat := 0
  /-- Teams discarded and to be placed again, ascending (16 R445). -/
  again : List Nat := []
  failed : Bool := false
  handler : Bool := false
  strip : Bool := false
  s5 : Nat := 0
  /-- Walker that runs a GRAPH launch. -/
  walker : Option Nat := none
  /-- Placed by a graph node (a walker) or by a strip chain (8 + pipeline) and not by a queue: no journal record. -/
  parent : Option Nat := none
  /-- Taken by Plumb (15 R409): the pipeline. -/
  plumb : Option Nat := none
  /-- Source in the journal (18 R469). -/
  src : Nat := 0
  /-- Strip work: clusters its teams may use (15 R403), their `%deadline` (14 R370), `%strip` and `%srate`. -/
  rsv : Option Nat := none
  deadlineAt : Option Nat := none
  stripIx : Nat := 0
  srate : Nat := 0
  done : Bool := false
deriving DecidableEq, Repr

/-- The registers of a hardware queue (15 R393) and its place in the stride order. -/
structure HwQueue where
  rbase : Nat := 0
  rlog2 : Nat := 0
  ctx : Nat := 0
  en : Bool := false
  tickets : Nat := 1
  /-- The clk of the last write of `TICKETS`, and the value before it, which decisions of that clk still use (15 R402). -/
  ticketsWas : Option (Nat × Nat) := none
  tail : Nat := 0
  head : Nat := 0
  pass : Nat := 0
  placed : Nat := 0
  skips : Nat := 0
  /-- Consecutive decisions in which its head item fitted nowhere, and which item that is (15 R401); whether it was backlogged before. -/
  starve : Nat := 0
  starveOf : Nat × Nat × Nat := (3, 0, 0)
  back : Bool := false
  /-- The clk in which the entry at its head comes, while control stop 20 reads it (15 R394). -/
  readDue : Option Nat := none
deriving DecidableEq, Repr

/-- A directory entry of a context (16 R424, R427); serial 0 is free. -/
structure DirEntry where
  serial : Nat := 0
  work : Work := .gang 0
deriving DecidableEq, Repr

/-- A fault on its way to a record (16 R424): the record's image but for HANDLE and SEQ, and what it names. -/
structure FaultItem where
  image : Nat
  work : Work
  key : Nat
  toDriver : Bool
  handle : Nat := 0
  /-- Write-back time of the memory instructions the warp had issued (16 R424). -/
  after : Nat := 0
deriving DecidableEq, Repr

/-- A context (01 R18) with its fault-handling items (16 R424-R427) and save areas (18 R463). -/
structure Context where
  live : Bool := false
  /-- Segment table images by entry, 128 bits each (01 R20, R21). -/
  seg : Sparse Nat := []
  /-- Residency bits by index (01 R25). -/
  resid : Sparse Bool := []
  ptroot : Nat := 0
  hwin : Sparse Nat := []
  group : Nat := 0
  sv : Bool := false
  av : Bool := false
  dbg : Bool := false
  saveoff : Nat := 0
  asaveoff : Nat := 0
  wsaveoff : Nat := 0
  /-- Context 0, whose S-space is physical (18 R460). -/
  phys : Bool := false
  ploff : Nat := 0
  plblk : Nat := 0
  fqbase : Nat := 0
  fqlog2 : Nat := 0
  fqhead : Nat := 0
  fqtail : Nat := 0
  hrec : Nat := 0
  hmax : Nat := 0
  hqueue : Nat := 0
  hdead : Bool := false
  hrun : Nat := 0
  dir : Sparse DirEntry := []
  serial : Nat := 0
  fseq : Nat := 0
  pending : List FaultItem := []
  /-- A commit in progress (01 R23, R29): the Hod commands it waits for by core, queue and sequence, and the blocks to
  release. -/
  commit : Option (List (Nat × Nat × Nat) × List Nat) := none
  commitReleased : Bool := false
  /-- The Ashlar operations that had started at the switch: context and number (01 R23, R29). -/
  commitOps : List (Nat × Nat) := []
  /-- The clk of its switch, the table before it (01 R23), and the clk by which every access then in flight has passed its bank slot. -/
  commitAt : Nat := 0
  segOld : Sparse Nat := []
  commitTill : Nat := 0
  /-- A shootdown is in progress (01 R33). -/
  shoot : Bool := false
deriving DecidableEq, Repr

/-- A slice's counter block (02 R65). `IDLE` is 64 slots per clk, less the slots `used` and `idleRef`. -/
structure SliceCtr where
  ce : Nat := 0
  ue : Nat := 0
  ueaddr : Nat := 0
  uev : Bool := false
  racep : Nat := 0
  poisr : Nat := 0
  prot : Nat := 0
  scrub : Nat := 0
  locacc : Nat := 0
  meshacc : Nat := 0
  used : Nat := 0
  idleRef : Int := 0
deriving DecidableEq, Repr

/-- A slice's monitor counter block (05 R142); MNOW is the number of entries held. -/
structure MonCtr where
  mreg : Nat := 0
  mwake : Nat := 0
  mrefused : Nat := 0
  mpoll : Nat := 0
  mhigh : Nat := 0
deriving DecidableEq, Repr

/-- Who waits on a bank word (05 R139): a path, or a Traverse node (15 R413). -/
inductive Waiter where
  | path (ctx key nid : Nat)
  | node (walker node : Nat)
deriving DecidableEq, Repr

/-- A Cairn entry (05 R139): the bank word (granule number of the device), the waiter and the kind of wait. -/
structure CairnEntry where
  word : Nat
  waiter : Waiter
  kind : Nat
deriving DecidableEq, Repr

/-- A plain store's place in time, kept for the race rule (02 R44): granule, agent, bank slot. -/
structure PlainStore where
  gran : Nat
  agent : Nat
  slot : Nat
deriving DecidableEq, Repr

/-- The SRAM of the device: bytes, granule poison (02 R41), latent storage errors (R42), protection map (01 R29), counters
(R65, 05 R142), monitors (05 R139), wakes on their way (05 R140), and page-operation flags (03 R84). -/
structure Sram where
  bytes : Memory := []
  psn : Sparse Bool := []
  ceLat : Sparse Bool := []
  ueLat : Sparse Bool := []
  prot : Sparse Bool := []
  ctr : Sparse SliceCtr := []
  mon : Sparse MonCtr := []
  cairn : Sparse (List CairnEntry) := []
  wakes : Sparse (List CairnEntry) := []
  plain : List PlainStore := []
  flags : Sparse (List (Nat × Nat)) := []
  scrubQ : List Nat := []
  /-- Granules the patrol scrubber of a slice has read since the wipe (02 R43). -/
  patrol : Sparse Nat := []
deriving DecidableEq, Repr

/-- The timebase (14 R363, R364). -/
structure Timebase where
  sec : Nat := 0
  ns : Nat := 0
  frac : Nat := 0
  acc : Nat := 0
  inc : Nat := 0xf3cf3cf4
  capSec : Nat := 0
  capNs : Nat := 0
  capFrac : Nat := 0
  capv : Bool := false
  reflk : Bool := false
  refen : Bool := false
  ppsen : Bool := false
  sns : Nat := 0
  sfrac : Nat := 0
deriving DecidableEq, Repr

/-- The instruction being issued: the warp's key, the path's node, its address, its literal word. -/
structure Issue where
  key : Nat
  nid : Nat
  lit : Word
deriving DecidableEq, Repr

/-- A host write between its two moments (04 R122): the clk in which it reached its stop, and the last bank slot reserved for it. -/
structure HostWrite where
  reach : Nat
  slot : Nat
deriving DecidableEq, Repr

/-- A host read whose answer is still to come (04 R121): the clk of it, the offset of a read of the control aperture, and of the SRAM
aperture its units: the flight that reads it, and its place in the answer. -/
structure HostRead where
  due : Nat
  ctl : Option Nat := none
  units : List (Nat × Nat × Nat) := []
deriving DecidableEq, Repr

/-- A word of storage with SEC-DED in a core (17 R454): a register's cell of a warp by stack position and lane, the half-row of a context's
tiles that holds it, or a word of its accumulators. -/
inductive CoreWord where
  | reg (key pos lane : Nat)
  | tile (ax half : Nat)
  | acc (ax k : Nat)
deriving DecidableEq, Repr

/-- One action of the agenda (log 1): which agent acts next. -/
inductive Act where
  /-- The warp of a slot issues its next instruction. -/
  | issue (key : Nat)
  /-- A storage upset in a bank word: of one bit, or of two (02 R41, R42). -/
  | upset (gran : Nat) (double : Bool)
  /-- A storage upset in a burst of LPDDR 6 (03 R70). -/
  | upsetBurst (burst : Nat) (double : Bool)
  /-- A storage upset in a word of a register file, a tile register or an accumulator: of one bit, or of two (17 R454). -/
  | upsetWord (w : CoreWord) (double : Bool)
  /-- A hardware event takes place. -/
  | event (i : Instr)
  /-- `n` mesh clk pass. -/
  | tick (n : Nat)
deriving DecidableEq, Repr

end Sys2Proof.Machine
end

