-- ==== Sys2Proof/Machine/Flags.lean ====
section
/-! DEFINITION. Number formats, rounding and the five arithmetic flags (09 R233-R249). Floating values are exact dyadic
numbers until `roundFp` narrows them. -/
namespace Sys2Proof.Machine

/-- Flag bits of `AXF` and `XF` in the order of R313 and R423: IV, DZ, OF, UF, NX (log 12). -/
def flIV : Nat := 16
/-- DZ of R248. -/
def flDZ : Nat := 8
/-- OF of R248. -/
def flOF : Nat := 4
/-- UF of R248. -/
def flUF : Nat := 2
/-- NX of R248. -/
def flNX : Nat := 1

/-- A floating format (R236): exponent bits, mantissa bits, bias, largest finite encoding, and how it treats specials:
0 infinities and NaNs as IEEE, 1 E4M3, 2 every encoding finite. -/
structure Fmt where
  e : Nat
  m : Nat
  bias : Nat
  maxEnc : Nat
  spec : Nat
deriving DecidableEq, Repr

/-- FP32 (R236). -/
def fp32 : Fmt := ⟨8, 23, 127, 0x7f7fffff, 0⟩
/-- FP16 (R236). -/
def fp16 : Fmt := ⟨5, 10, 15, 0x7bff, 0⟩
/-- BF16 (R236). -/
def bf16 : Fmt := ⟨8, 7, 127, 0x7f7f, 0⟩
/-- E4M3 (R236). -/
def fE4M3 : Fmt := ⟨4, 3, 7, 0x7e, 1⟩
/-- E5M2 (R236). -/
def fE5M2 : Fmt := ⟨5, 2, 15, 0x7b, 0⟩
/-- E2M3 (R236). -/
def fE2M3 : Fmt := ⟨2, 3, 1, 0x1f, 2⟩
/-- E3M2 (R236). -/
def fE3M2 : Fmt := ⟨3, 2, 3, 0x1f, 2⟩
/-- E2M1 (R236). -/
def fE2M1 : Fmt := ⟨2, 1, 1, 0x7, 2⟩

/-- E4M3 or E5M2: the formats of R245. -/
def Fmt.narrow (f : Fmt) : Bool := f == fE4M3 || f == fE5M2

/-- Width of an encoding in bits. -/
def Fmt.width (f : Fmt) : Nat := 1 + f.e + f.m

/-- Exponent of the spacing of the smallest values: 1 - bias - m. -/
def Fmt.qmin (f : Fmt) : Int := 1 - (f.bias : Int) - f.m

/-- The sign bit's weight. -/
def Fmt.sgn (f : Fmt) (neg : Bool) : Nat := if neg then 2 ^ (f.e + f.m) else 0

/-- A decoded floating value: NaN, an infinity, or the exact number ± m × 2^e (m = 0 is a signed zero). -/
inductive FV where
  | nan
  | inf (neg : Bool)
  | fin (neg : Bool) (m : Nat) (e : Int)
deriving DecidableEq, Repr

/-- The mode fields that number rules read (07 R185). -/
structure NMode where
  rm : Nat := 0
  fi : Bool := false
  fo : Bool := false
  sat : Bool := false
  nsat : Bool := false
  axt : Bool := false
deriving DecidableEq, Repr

/-- The number fields of a mode register (07 R185). -/
def nmode (m : BitVec 16) : NMode :=
  let x := m.toNat
  { rm := bitsN x 10 8, fi := bitN x 11, fo := bitN x 12, sat := bitN x 13, nsat := bitN x 14, axt := bitN x 15 }

/-- The element type of a mode register (07 R185 `ET`). -/
def etOf (m : BitVec 16) : Nat := bitsN m.toNat 7 4

/-- Rounding to nearest even, subnormals kept: the mode of the units that ignore the mode register (05 R144, 09 R251). -/
def plainMode : NMode := {}

/-- An encoding read under R236. -/
def Fmt.decode (f : Fmt) (x : Nat) : FV :=
  let neg := bitN x (f.e + f.m)
  let E := x / 2 ^ f.m % 2 ^ f.e
  let M := x % 2 ^ f.m
  if f.spec = 0 && E == 2 ^ f.e - 1 then (if M = 0 then .inf neg else .nan)
  else if f.spec = 1 && E == 15 && M == 7 then .nan
  else if E = 0 then .fin neg M f.qmin
  else .fin neg (2 ^ f.m + M) (f.qmin + (E - 1 : Nat))

/-- Whether an encoding is a nonzero subnormal. -/
def Fmt.subnormal (f : Fmt) (x : Nat) : Bool := x / 2 ^ f.m % 2 ^ f.e == 0 && x % 2 ^ f.m != 0

/-- An operand read under R236 and flushed under `FI` (R244). -/
def Fmt.read (f : Fmt) (fi : Bool) (x : Nat) : FV :=
  match f.decode x with
  | .fin neg m e => if fi && f.subnormal x then .fin neg 0 e else .fin neg m e
  | y => y

/-- The canonical NaN (R238). -/
def Fmt.canon (f : Fmt) : Nat :=
  if f = fp32 then 0x7fc00000 else if f = fp16 then 0x7e00 else if f = bf16 then 0x7fc0
  else if f = fE4M3 then 0x7f else if f = fE5M2 then 0x7e else 0

/-- `nan_out` (07 R199): the encoding and the flags it raises. A format without NaN takes +0 and IV (log 13). -/
def nanOut (f : Fmt) (md : NMode) : Nat × Nat :=
  if f.narrow then (if md.nsat then (0, flIV) else (f.canon, 0))
  else if f.spec = 2 then (0, flIV) else (f.canon, 0)

/-- `inf_out` (07 R199, R243, R245): the encoding of an infinite result and the flags it raises. -/
def infOut (f : Fmt) (md : NMode) (neg : Bool) : Nat × Nat :=
  if f.narrow then
    if md.nsat then (f.sgn neg + f.maxEnc, flOF)
    else if f = fE4M3 then (0x7f, flOF) else (f.sgn neg + 0x7c, 0)
  else if f.spec = 2 then (f.sgn neg + f.maxEnc, 0)
  else if md.sat then (f.sgn neg + f.maxEnc, 0)
  else (f.sgn neg + (2 ^ f.e - 1) * 2 ^ f.m, 0)

/-- `overflow_out` (07 R199, R243). -/
def overflowOut (f : Fmt) (md : NMode) (neg : Bool) : Nat × Nat :=
  let toInf := match md.rm with
    | 1 => false
    | 2 => neg
    | 3 => !neg
    | _ => true
  if toInf then
    let r := infOut f md neg
    (r.1, r.2 ||| flOF ||| flNX)
  else (f.sgn neg + f.maxEnc, flOF ||| flNX)

/-- The integer nearest m × 2^-k under a mode (R242), k > 0, and whether it is inexact. `u` is the stochastic draw. -/
def roundInt (rm : Nat) (neg : Bool) (u m k : Nat) : Nat × Bool :=
  let far := k > Nat.log2 m + 20
  let q := if far then 0 else m / 2 ^ k
  let r := if far then m else m % 2 ^ k
  let inexact := r != 0
  let half : Ordering := if far then .lt else compare (2 * r) (2 ^ k)
  let up : Bool := match rm with
    | 1 => false
    | 2 => neg && inexact
    | 3 => !neg && inexact
    | 4 => if inexact then half != .lt else false
    | 5 => if far then inexact && u == 0 else decide (r * 2 ^ 16 > u * 2 ^ k)
    | _ => if inexact then (match half with
        | .lt => false
        | .gt => true
        | .eq => q % 2 == 1) else false
  (if up then q + 1 else q, inexact)

/-- `round_fp` (R241): the encoding in `f` of an exact value, with the flags raised. -/
def roundFp (f : Fmt) (md : NMode) (u : Nat) (x : FV) : Nat × Nat :=
  match x with
  | .nan => nanOut f md
  | .inf neg => infOut f md neg
  | .fin neg m e =>
    if m = 0 then (f.sgn neg, 0) else
    let ex : Int := e + Nat.log2 m
    let emin : Int := 1 - (f.bias : Int)
    if ex > 2 * (f.bias : Int) + 4 then overflowOut f md neg else
    let qe : Int := max ex emin - f.m
    let (n, inexact) :=
      if e ≥ qe then (m * 2 ^ (e - qe).toNat, false) else roundInt md.rm neg u m (qe - e).toNat
    let enc := n + (qe - f.qmin).toNat * 2 ^ f.m
    if enc > f.maxEnc then overflowOut f md neg else
    let tiny := decide (ex < emin)
    let fl := (if inexact then flNX else 0) ||| (if tiny && inexact then flUF else 0)
    if md.fo && 0 < n && enc < 2 ^ f.m then (f.sgn neg, fl ||| flUF ||| flNX)
    else (f.sgn neg + enc, fl)

/-- The exact value negated. -/
def FV.neg : FV → FV
  | .nan => .nan
  | .inf s => .inf (!s)
  | .fin s m e => .fin (!s) m e

/-- Whether a value is NaN. -/
def FV.isNan : FV → Bool
  | .nan => true
  | _ => false

/-- Whether a value is a zero. -/
def FV.isZero : FV → Bool
  | .fin _ 0 _ => true
  | _ => false

/-- A signed integer and exponent for an exact value. -/
def signedM (neg : Bool) (m : Nat) : Int := if neg then -(m : Int) else m

/-- The exact sum of two finite values; the sign of an exact zero is that of R241 under rounding mode `rm`. -/
def addFin (rm : Nat) (s1 : Bool) (m1 : Nat) (e1 : Int) (s2 : Bool) (m2 : Nat) (e2 : Int) : FV :=
  if m1 = 0 && m2 = 0 then (if s1 = s2 then .fin s1 0 0 else .fin (rm == 2) 0 0)
  else if m1 = 0 then .fin s2 m2 e2
  else if m2 = 0 then .fin s1 m1 e1
  else
    let e := min e1 e2
    let a : Int := signedM s1 (m1 * 2 ^ (e1 - e).toNat) + signedM s2 (m2 * 2 ^ (e2 - e).toNat)
    if a = 0 then .fin (rm == 2) 0 0 else .fin (decide (a < 0)) a.natAbs e

/-- The exact sum, with IV for infinities of opposite sign (R248, R255). -/
def addFV (rm : Nat) (a b : FV) : FV × Nat :=
  match a, b with
  | .nan, _ => (.nan, 0)
  | _, .nan => (.nan, 0)
  | .inf s1, .inf s2 => if s1 = s2 then (.inf s1, 0) else (.nan, flIV)
  | .inf s1, _ => (.inf s1, 0)
  | _, .inf s2 => (.inf s2, 0)
  | .fin s1 m1 e1, .fin s2 m2 e2 => (addFin rm s1 m1 e1 s2 m2 e2, 0)

/-- The exact product, with IV for 0 × ∞ (R248, R255). -/
def mulFV (a b : FV) : FV × Nat :=
  match a, b with
  | .nan, _ => (.nan, 0)
  | _, .nan => (.nan, 0)
  | .inf s1, .inf s2 => (.inf (s1 != s2), 0)
  | .inf s1, .fin s2 m _ => if m = 0 then (.nan, flIV) else (.inf (s1 != s2), 0)
  | .fin s1 m _, .inf s2 => if m = 0 then (.nan, flIV) else (.inf (s1 != s2), 0)
  | .fin s1 m1 e1, .fin s2 m2 e2 => (.fin (s1 != s2) (m1 * m2) (e1 + e2), 0)

/-- The order of two values that are not NaN, with -0 equal to +0. -/
def cmpFV (a b : FV) : Ordering :=
  match a, b with
  | .inf s1, .inf s2 => if s1 = s2 then .eq else if s1 then .lt else .gt
  | .inf s1, _ => if s1 then .lt else .gt
  | _, .inf s2 => if s2 then .gt else .lt
  | .fin s1 m1 e1, .fin s2 m2 e2 =>
    let e := min e1 e2
    compare (signedM s1 (m1 * 2 ^ (e1 - e).toNat)) (signedM s2 (m2 * 2 ^ (e2 - e).toNat))
  | _, _ => .eq

/-- The order of R256 and R144: -0 below +0. -/
def cmpZ (a b : FV) : Ordering :=
  match a, b with
  | .fin s1 0 _, .fin s2 0 _ => if s1 = s2 then .eq else if s1 then .lt else .gt
  | _, _ => cmpFV a b

/-- An integer as an exact value. -/
def ofIntFV (x : Int) : FV := .fin (decide (x < 0)) x.natAbs 0

/-- Rounding of an exact value to an integer under a mode; NaN and infinities excluded. -/
def roundToInt (rm : Nat) (u : Nat) (neg : Bool) (m : Nat) (e : Int) : Int × Bool :=
  if e ≥ 0 then (signedM neg (m * 2 ^ e.toNat), false)
  else
    let r := roundInt rm neg u m (-e).toNat
    (signedM neg r.1, r.2)

/-- Conversion of a floating value to an integer of `b` bits (R249). -/
def toIntFV (rm u b : Nat) (signed : Bool) (x : FV) : Nat × Nat :=
  let lo : Int := if signed then -(2 ^ (b - 1) : Nat) else 0
  let hi : Int := if signed then (2 ^ (b - 1) : Nat) - 1 else (2 ^ b : Nat) - 1
  match x with
  | .nan => (0, flIV)
  | .inf neg => (wrapN (if neg then lo else hi) b, flIV)
  | .fin neg m e =>
    if m ≠ 0 ∧ e + Nat.log2 m > 70 then (wrapN (if neg then lo else hi) b, flIV) else
    let r := roundToInt rm u neg m e
    if r.1 < lo then (wrapN lo b, flIV)
    else if r.1 > hi then (wrapN hi b, flIV)
    else (wrapN r.1 b, if r.2 then flNX else 0)

/-- `sat` or reduction of an exact integer element of `b` bits (R235). -/
def narrowInt (b : Nat) (signed sat : Bool) (x : Int) : Nat :=
  if sat then
    let lo : Int := if signed then -(2 ^ (b - 1) : Nat) else 0
    let hi : Int := if signed then (2 ^ (b - 1) : Nat) - 1 else (2 ^ b : Nat) - 1
    wrapN (max lo (min x hi)) b
  else wrapN x b

/-- An element type (07 R185): number of elements, width, and float format or signedness. -/
structure ETy where
  n : Nat
  b : Nat
  fmt : Option Fmt
  signed : Bool
deriving DecidableEq, Repr

/-- The element types by code (07 R185). -/
def ety (c : Nat) : ETy :=
  match c with
  | 0 => ⟨1, 32, none, true⟩
  | 1 => ⟨1, 32, none, false⟩
  | 2 => ⟨1, 32, some fp32, true⟩
  | 3 => ⟨2, 16, some fp16, true⟩
  | 4 => ⟨2, 16, some bf16, true⟩
  | 5 => ⟨2, 16, none, true⟩
  | 6 => ⟨2, 16, none, false⟩
  | 7 => ⟨4, 8, none, true⟩
  | 8 => ⟨4, 8, none, false⟩
  | 9 => ⟨4, 8, some fE4M3, true⟩
  | _ => ⟨4, 8, some fE5M2, true⟩

/-- Element i of a packed word (R234). -/
def elemN (x : Nat) (t : ETy) (i : Nat) : Nat := x / 2 ^ (t.b * i) % 2 ^ t.b

/-- The packed word of elements, element 0 least significant (R234). -/
def packN (t : ETy) : List Nat → Nat
  | [] => 0
  | x :: r => x % 2 ^ t.b + 2 ^ t.b * packN t r

/-- The value of an integer element (R233). -/
def intElem (t : ETy) (x : Nat) : Int := if t.signed then sextN x t.b else (x : Int)

/-- `mix` of R246, modulo 2^64. -/
def mix64 (z : Nat) : Nat :=
  let z1 := ((z ^^^ (z >>> 30)) * 0xbf58476d1ce4e5b9) % 2 ^ 64
  let z2 := ((z1 ^^^ (z1 >>> 27)) * 0x94d049bb133111eb) % 2 ^ 64
  z2 ^^^ (z2 >>> 31)

/-- The draw of R246. -/
def srDraw (seed team warp lane count : Nat) : Nat :=
  let key := (team % 2 ^ 19) * 2 ^ 45 + (warp % 64) * 2 ^ 39 + (lane % 128) * 2 ^ 32 + count % 2 ^ 32
  mix64 (mix64 ((seed ^^^ 0x9e3779b97f4a7c15) % 2 ^ 64) ^^^ key)

/-- The draw of element i of a result (R246). -/
def drawElem (draw i : Nat) : Nat := draw / 2 ^ (16 * i) % 2 ^ 16

/-- Rounding mode of an instruction that does not list `rsr` (07 R186). -/
def noRsr (md : NMode) : NMode := if md.rm = 5 then { md with rm := 0 } else md

/-- Integer square root by binary digits: the largest r with r^2 ≤ x, given that r < 2^k. -/
def isqrt (x : Nat) : Nat → Nat → Nat
  | 0, r => r
  | k + 1, r =>
    let t := r + 2 ^ k
    if t * t ≤ x then isqrt x k t else isqrt x k r

/-- FP32 addition of 05 R144: nearest even, subnormals kept, canonical NaN. -/
def fadd32 (a b : Nat) : Nat :=
  (roundFp fp32 plainMode 0 (addFV 0 (fp32.decode a) (fp32.decode b)).1).1

/-- Addition of a 16-bit format under the rules of 05 R144. -/
def fadd16 (f : Fmt) (a b : Nat) : Nat :=
  (roundFp f plainMode 0 (addFV 0 (f.decode a) (f.decode b)).1).1

/-- FMIN32 (mx = false) and FMAX32 of 05 R144. -/
def fminmax32 (mx : Bool) (a b : Nat) : Nat :=
  let x := fp32.decode a
  let y := fp32.decode b
  if x.isNan && y.isNan then 0x7fc00000
  else if x.isNan then b else if y.isNan then a
  else if mx then (if cmpZ x y == .lt then b else a) else (if cmpZ y x == .lt then b else a)

end Sys2Proof.Machine
end

