-- ==== Sys2Proof/Config.lean ====
section
/-! DEFINITION. Config: what the spec leaves open. Each constant is opaque: nothing can be proved about its value, so a
statement true of the model is true whatever the value is (assumption log 3). -/
namespace Sys2Proof

/-- A free 32-bit value, drawn with the counter `State.fresh` (log 3). -/
opaque Config.freeWord : Nat → BitVec 32

/-- A free truth value, drawn with the counter `State.fresh` (log 3). -/
opaque Config.freeBit : Nat → Bool

/-- A free number, drawn with the counter `State.fresh`; the user narrows it to the bound the spec gives (log 3). -/
opaque Config.freeNat : Nat → Nat

/-- Which of the values within the bound of 10 R264 an approximated f32 function returns: a function of the function code,
the operand bits, FI and FO alone (10 R263; log 7). -/
opaque Config.approxPick : Nat → BitVec 32 → Bool → Bool → Nat

/-- Whether the part carries 512 GiB of LPDDR 6 (00 R1, 01 R30; log 8). -/
opaque Config.has512 : Bool

/-- The check bits of a slice's SEC-DED code over the 258 bits that it covers: `DATA`, `PSN` and the reserved bit (02 R41; log 127). -/
opaque Config.checkBits : Nat → Nat

/-- A cluster's calibration constant (17 R453; log 3), in milliamperes for each unit of `CREC`: a fraction, whose denominator is one more than
the second number. -/
opaque Config.calibration : Nat → Nat × Nat

/-- The 64-bit device serial number (18 R459; log 9). -/
opaque Config.serial : BitVec 64

/-- The private identity key, derived from the die (18 R468; log 9). -/
opaque Config.identityKey : Nat

/-- The digest of the firmware signing key held in the boot ROM, its byte 0 lowest (18 R465; log 9). -/
opaque Config.keyDigest : Nat

/-- The bytes an AV1 encoder writes (14 R391; log 11). -/
opaque Config.encoderByte : Nat → BitVec 8

end Sys2Proof
end

