-- ==== Sys2Proof/Machine/EngineTypes.lean ====
section
/-! DEFINITION. Types of the copy engines, asset memory and fabric reductions (03, 11 R287-R306, 01 R30-R35). -/
namespace Sys2Proof.Machine

/-- A Hod command from its queuing to its completion (11 R291). -/
structure HodCmd where
  /-- `SUB` of 11 R290 (0 to 7 and 9); repairs are stagings (03 R89). -/
  op : Nat
  ctx : Nat
  /-- Team and warp that issued it; none for the driver and for repairs. -/
  team : Option Nat := none
  warp : Nat := 0
  /-- Resumes of the warp on another sub-core queue before it issued the command (08 R219). -/
  epoch : Nat := 0
  recAddr : Nat := 0
  /-- The record's address is physical (18 R460). -/
  recPhys : Bool := false
  seq : Nat := 0
  strip : Bool := false
  /-- The clk before which it may not begin, and the clk of its issue (04 R107). -/
  ready : Nat := 0
  issued : Nat := 0
  /-- The issuing team's scratchpad (01 R16): size, bases, whether it is a pair's; it stays the command's (03 R83). -/
  pad : Option (Nat × Nat × Nat × Bool) := none
  /-- The 512-bit record once read, and the status the reading already decided (0: none). -/
  image : Option Nat := none
  early : Nat := 0
  /-- The clk in which the record that is being read comes, and whether the issuing team has Ashlar contexts (11 R291, R296; 03 R83). -/
  asked : Option Nat := none
  ash : Bool := false
  /-- HLDR: destination, window base, size code, and each lane's DVA. -/
  dst : Nat := 0
  wb : Nat := 0
  sz : Nat := 2
  lanes : List (Nat × Nat) := []
  /-- Repair: the S-space page number. -/
  page : Nat := 0
  /-- Driver queue: `SRC`, `POS` and `LAUNCH` of its HODDONE record (18 R469). -/
  jsrc : Nat := 64
  jpos : Nat := 0
  jlaunch : Nat := 0
  /-- COPY node that placed it: walker (or 8 + pipeline) and node. -/
  node : Option (Nat × Nat) := none
deriving DecidableEq, Repr

/-- Where a unit of a Hod's buffer stands (03 R81). -/
inductive UnitStage where
  /-- Its access is queued at LPDDR 6. -/
  | asked
  /-- Its last burst is ready at the stop from a clk on, and waits for the return path. -/
  | ready (at_ : Nat)
  /-- It reaches the buffer in a clk. -/
  | due (at_ : Nat)
  /-- It is in the buffer. -/
  | held
deriving DecidableEq, Repr

/-- One unit in a Hod's buffer (03 R76): destination, length, bytes, a poison bit per byte; its data status, its number, the space it
comes from, the clk of its read's attempt, the distance of its stop, and where it stands (03 R81). -/
structure BufUnit where
  dst : Nat
  len : Nat
  data : Nat
  psn : Nat
  st : Nat := 0
  id : Nat := 0
  space : Nat := 0
  t : Nat := 0
  h : Nat := 0
  stage : UnitStage := .held
deriving DecidableEq, Repr

/-- A page walk (01 R32; 03 R81): for the source or the destination of a transfer, the page, the level whose entry is being read (0
before it begins) and its table, the next-table addresses read on the way, and the read: where it stands, data and data status. -/
structure Walk where
  dest : Bool
  page : Nat
  level : Nat := 0
  table : Nat := 0
  got : List (Nat × Nat) := []
  stage : UnitStage := .held
  data : Nat := 0
  st : Nat := 0
  /-- A shootdown came while it ran, so that nothing of it is kept (01 R33). -/
  old : Bool := false
deriving DecidableEq, Repr

/-- Where a transfer stands. -/
inductive XferPhase where
  /-- The page `elem` of a staging, eviction or fill is to begin (03 R84). -/
  | begin
  /-- Units move. -/
  | moving
  /-- The wait of 03 R86, step 3. -/
  | evict
  /-- Nothing is left to move. -/
  | ended
deriving DecidableEq, Repr

/-- A transfer slot at work (03 R76). `elem` and `off` are the next piece to read; `wait` is a clk that the next page or the
completion may not precede. -/
structure Xfer where
  q : Nat
  cmd : HodCmd
  phase : XferPhase := .moving
  elem : Nat := 0
  off : Nat := 0
  wait : Nat := 0
  buf : List BufUnit := []
  status : Nat := 0
  bytes : Nat := 0
  /-- A failure stopped the reading (03 R82). -/
  stop : Bool := false
  /-- Barrier objects named, translated at the start (05 R133), and the bytes decremented so far. -/
  dbar : Option Nat := none
  sbar : Option Nat := none
  inDec : Nat := 0
  outDec : Nat := 0
  /-- Decrements of `INB` not yet due: clk and bytes. -/
  decq : List (Nat × Nat) := []
  /-- The page flag of the page at work (03 R84), the flag kept until the ticket completes, and since when the transfer has waited for
  one. -/
  flag : Option (Nat × Nat × Nat) := none
  kept : Option (Nat × Nat × Nat) := none
  since : Option Nat := none
  /-- The A-space pages translated for the source and the destination: page and level-4 entry. -/
  spg : Option (Nat × Nat) := none
  dpg : Option (Nat × Nat) := none
  /-- The walk awaited, and the clk of the attempt that waits for it (03 R81). -/
  walk : Option Walk := none
  tried : Option Nat := none
  /-- Whether it has translated an A-space page, and did so before a shootdown still in progress (01 R33). -/
  xl : Bool := false
  xlOld : Bool := false
  /-- Number of the next unit. -/
  nextId : Nat := 0
  /-- Index of the present element of a gather or scatter; while it is being read, the number and the clk of its read; and whether it came
  poisoned, so that the element is skipped (11 R295). -/
  idx : Option Nat := none
  idxDue : Option (Nat × Nat) := none
  skip : Bool := false
  /-- HLDR values gathered so far. -/
  got : List (Nat × List Val) := []
deriving DecidableEq, Repr

/-- A translation held by a Hod (01 R32): context, A-space page, level-4 entry. -/
structure TcEntry where
  ctx : Nat
  page : Nat
  pte : Nat
deriving DecidableEq, Repr

/-- A logged completion (11 R299): sequence number, status, bytes. -/
structure HodLog where
  seq : Nat
  status : Nat
  bytes : Nat
deriving DecidableEq, Repr

/-- A Hod command queue (03 R77; 11 R292, R299): waiting commands, next sequence number, completion count, log, and done
commands of earlier sequence awaiting their turn. -/
structure HodQueue where
  cmds : List HodCmd := []
  nseq : Nat := 0
  cseq : Nat := 0
  log : List HodLog := []
deriving DecidableEq, Repr

/-- A Hod's counter block (03 R90). -/
structure HodCtr where
  bytes : Nat := 0
  rdlat : Nat := 0
  nrd : Nat := 0
  rdmax : Nat := 0
  rfstall : Nat := 0
  bkstall : Nat := 0
  mstall : Nat := 0
  walks : Nat := 0
  tcmiss : Nat := 0
  qfull : Nat := 0
  staged : Nat := 0
  evicted : Nat := 0
  derr : Nat := 0
  ncmd : Nat := 0
deriving DecidableEq, Repr

/-- A Hod (03 R76, R77): queues 0 to 15 sub-core, 16 driver, 17 repair; four transfer slots; translation cache, most
recently used first; round-robin pointer (R78); the clk after its last reservation attempt (R76). -/
structure Hod where
  qs : Sparse HodQueue := []
  slots : Sparse (Option Xfer) := []
  tc : List TcEntry := []
  rr : Nat := 0
  tried : Nat := 0
  ctr : HodCtr := {}
deriving DecidableEq, Repr

/-- A fragment that automatic repair will resume (16 R422): its team, warp and identity, its core, context, the pages still
awaited; its record and the write-back clk of what its warp had issued, both as the fault found them (R423, R424), and the lowest code with
which a request has failed. -/
structure AutoFrag where
  team : Nat
  warp : Nat
  fragId : Nat
  core : Nat
  ctx : Nat
  pages : List Nat
  img : Nat
  after : Nat
  st : Nat := 0
deriving DecidableEq, Repr

/-- A directory-cache entry of a walker (01 R32): context, level, index prefix, next table. -/
structure DirCache where
  ctx : Nat
  level : Nat
  idx : Nat
  next : Nat
deriving DecidableEq, Repr

/-- For whom an access to LPDDR 6 is made (03 R68): a unit that a transfer reads, a walk for a transfer, a unit that a core's Hod writes, or
another unit of the device. -/
inductive LpWho where
  | unit (core slot id : Nat)
  | walk (core slot : Nat)
  | write (core : Nat)
  | other
deriving DecidableEq, Repr

/-- An access at a bank of LPDDR 6 (03 R73): for whom, address, length, the clk in which the controller accepts it. -/
structure LpAcc where
  who : LpWho
  pa : Nat
  len : Nat
  at_ : Nat
  write : Bool := false
deriving DecidableEq, Repr

/-- A write on its way to a controller, which takes effect in the clk in which the controller accepts it (03 R73; 04 R95). -/
structure LpWrite where
  pa : Nat
  len : Nat
  data : Nat
  psn : Nat
  at_ : Nat
deriving DecidableEq, Repr

/-- A postponed refresh slot (03 R75): its bank, the clk it fell due, and whether it is already counted in `REFPP`. -/
structure RefSlot where
  bank : Nat
  due : Nat
  counted : Bool := false
deriving DecidableEq, Repr

/-- A sub-channel's counters (03 R91), refresh list (R74, R75) and queued accesses. -/
structure SubCh where
  ce : Nat := 0
  ue : Nat := 0
  ueaddr : Nat := 0
  uev : Bool := false
  refpb : Nat := 0
  refpp : Nat := 0
  refab : Nat := 0
  debtMax : Nat := 0
  list : List RefSlot := []
  /-- Index of the next slot to fall due, and the rate in force. -/
  nslot : Nat := 0
  twice : Bool := false
  forced : Bool := false
  /-- The clk in which an all-bank refresh was forced. -/
  forcedAt : Nat := 0
  /-- By bank: the clk it is busy to, and its latest refresh with those that a queued access has met, latest first: from and to which
  clk. -/
  busy : Sparse Nat := []
  refIv : Sparse (List (Nat × Nat)) := []
  accq : Sparse (List LpAcc) := []
  /-- To when the data pins are taken, in quarters of a clk (03 R72). -/
  pins : Nat := 0
  /-- Bursts scrubbed since the wipe (03 R71), and the clk of the next rate reading (03 R74). -/
  scrubbed : Nat := 0
  pollAt : Nat := 0
deriving DecidableEq, Repr

/-- The LPDDR 6 memory (03 R67-R70): bytes, burst poison, latent errors, sub-channels. -/
structure Lpddr where
  bytes : Memory := []
  psn : Sparse Bool := []
  ceLat : Sparse Bool := []
  ueLat : Sparse Bool := []
  sub : Sparse SubCh := []
  /-- Writes on their way to their controllers. -/
  inbox : List LpWrite := []
  /-- The clk of the end of the last wipe, from which refresh slots count (03 R74, R93). -/
  epoch : Nat := 0
deriving DecidableEq, Repr

/-- A fabric reduction command (11 R300-R305). -/
structure FabCmd where
  tree : Bool
  ctx : Nat
  team : Option Nat := none
  recAddr : Nat
  seq : Nat
  warp : Nat := 0
  ready : Nat := 0
  issued : Nat := 0
  image : Option Nat := none
  early : Nat := 0
  nmemb : Nat := 0
  rank : Nat := 0
  gen : Nat := 0
  members : List Nat := []
  started : Bool := false
  /-- Chunks posted, replays, and contributions received by chunk and rank: poison and data. -/
  posted : List Nat := []
  replays : Nat := 0
  recv : List (Nat × Nat × Nat × Nat) := []
  /-- Chunks whose result is written, with the clk from which they may be posted (04 R108). -/
  wrote : List (Nat × Nat) := []
  /-- The status with which it ends once the chunks written are posted (11 R305). -/
  fin : Nat := 0
  pad : Option (Nat × Nat × Nat × Bool) := none
  status : Nat := 0
  done : Bool := false
deriving DecidableEq, Repr

/-- A core's reduction queue (11 R300, R306): a log entry holds sequence number, status, chunks posted and replays. -/
structure FabQueue where
  cmds : List FabCmd := []
  nseq : Nat := 0
  cseq : Nat := 0
  log : List (Nat × Nat × Nat × Nat) := []
deriving DecidableEq, Repr

/-- What an Ashlar operation does (12 R325). -/
inductive AshKind where
  | tzero | tscl | tld | tst | mma | mmas | azero | adrain | aread | awrite
deriving DecidableEq, Repr

/-- A piece of a window that the port of an Ashlar moves (12 R316, R333, R334): the run of bytes it belongs to and its offset there, its address
and length, and of a write its data with a poison bit per byte. -/
structure PortPiece where
  run : Nat
  off : Nat
  va : Nat
  n : Nat
  x : Nat := 0
  psn : Nat := 0
deriving DecidableEq, Repr

/-- An operation in a context's queue with what it captured at entry (12 R314, R332). -/
structure AshOp where
  id : Nat
  kind : AshKind
  /-- Tile or accumulator it is about, A tile, B tile, metadata queue. -/
  t : Nat := 0
  a : Nat := 0
  b : Nat := 0
  mq : Nat := 0
  pair : Bool := false
  z : Bool := false
  /-- TSCL's scale, or the row and column base of AREAD and AWRITE, or the window position. -/
  arg : Nat := 0
  /-- Control words of the tiles and the state word of the accumulator. -/
  ta : Nat := 0
  tb : Nat := 0
  aw : Nat := 0
  image : Nat := 0
  vals : List (Nat × Val) := []
  /-- Issuing warp of an AREAD, or of an operation whose record is being read. -/
  warp : Nat := 0
  /-- The clk before which it may not start, and the warps that have forked it, each with the clk of its issue (04 R107; 12 R337). -/
  ready : Nat := 0
  forks : List (Nat × Nat) := []
  /-- The clk of its entry and the sub-core that issued it (12 R314). -/
  entered : Nat := 0
  sub : Nat := 0
  /-- The record of a TLD, TST or ADRAIN is still being read: the operation only holds its place (12 R314, R332). -/
  held : Bool := false
  /-- The array operation just before it has completed (12 R315). -/
  prevDone : Bool := false
  started : Bool := false
  /-- Unit busy to, and completion, once started. -/
  busy : Nat := 0
  till : Nat := 0
  /-- Core for translation; of TLD, TST and ADRAIN the pieces still to move, the bytes moved and what is due in `AST` at completion. -/
  core : Nat := 0
  todo : List PortPiece := []
  moved : Nat := 0
  ast : Nat := 0
  /-- AREAD: the values read. -/
  got : List (Nat × Val) := []
deriving DecidableEq, Repr

/-- An unmatched arrival (12 R318): the warp, the instruction's operands, and the clk of residency for which it is held (R322). -/
structure Arrival where
  warp : Nat
  op : AshOp
  held : Nat := 0
deriving DecidableEq, Repr

/-- A B operand in the clip-in latch (12 R321). -/
structure LatchImg where
  word : Nat := 0
  rows : Memory := []
  psn : Sparse Bool := []
  scales : Sparse Nat := []
  epsn : Bool := false
deriving DecidableEq, Repr

/-- One Ashlar context (12 R307). -/
structure AshCtx where
  team : Option Nat := none
  half : Nat := 0
  /-- Warps of the half, and those of them that have exited. -/
  n : Nat := 0
  gone : Nat := 0
  tiles : Memory := []
  /-- Poison of half-rows: tile × 128 + row × 2 + half. -/
  tpsn : Sparse Bool := []
  tc : Sparse Nat := []
  /-- Scales, 0x7f where unlisted: tile × 256 + byte. -/
  scales : Sparse Nat := []
  epsn : Sparse Bool := []
  /-- Accumulators: d × 4,096 + row × 64 + column. -/
  acc : Sparse Val := []
  aw : Sparse Nat := []
  mq : Sparse (List Nat) := []
  gmask : Nat := 0
  ast : Nat := 0
  ops : List AshOp := []
  nextId : Nat := 0
  arrivals : List Arrival := []
  /-- While saved: the hold on the latch, its operation, B operand and residency count (12 R323, R324). -/
  latch : Option (Nat × LatchImg × Nat) := none
  /-- While saved: the context of a core whose save area holds it (12 R324). -/
  savedAt : Nat := 0
deriving DecidableEq, Repr

/-- The clip-in latch of a core pair (12 R321). -/
inductive Latch where
  | empty
  /-- Held by Ashlar context `ax` for its operation `id`; clk of residency counted. -/
  | held (ax id : Nat) (img : LatchImg) (count : Nat)
  /-- Joined: the operations of half 0 and half 1, their B images, and whether each has started. -/
  | joined (ax0 id0 ax1 id1 : Nat) (img0 img1 : LatchImg) (st0 st1 : Bool)
deriving DecidableEq, Repr

/-- A record of the journal or of the driver fault log that is made and not yet complete (18 R470): its image, whether it is written
at all (R458 `JEN`), and the steps of its writing that are done. -/
structure LogRec where
  image : Nat
  on : Bool
  step : Nat := 0
deriving DecidableEq, Repr

/-- The pointer block (18 R458). -/
structure PtrBlock where
  /-- The command at the head has been read and is in progress (18 R460). -/
  begun : Bool := false
  cqbase : Nat := 0
  cqlog2 : Nat := 0
  cqtail : Nat := 0
  cqhead : Nat := 0
  jbase : Nat := 0
  jlog2 : Nat := 0
  jwseq : Nat := 0
  flbase : Nat := 0
  fllog2 : Nat := 0
  flwseq : Nat := 0
  jen : Bool := false
  /-- Journal records not yet complete, oldest first, and the clk from which the next step may come (18 R470); the same of the fault
  log. -/
  jq : List LogRec := []
  jAt : Nat := 0
  fq : List LogRec := []
  fAt : Nat := 0
deriving DecidableEq, Repr

/-- Life cycle and firmware (18 R459, R465-R468): `LCS`, `FWSTAT`, `FWVER`, kept token counter, firmware window. -/
structure Life where
  lcs : Nat := 0
  fwstat : Nat := 0
  fwver : Nat := 0
  token : Nat := 0
  window : Memory := []
  /-- A wipe is in progress (02 R66, 03 R93): nothing reaches SRAM. -/
  wiping : Bool := true
  /-- The clk in which the last wipe began. -/
  wipeAt : Nat := 0
  /-- Context 0 has been created since the last wipe (18 R463). -/
  ctx0 : Bool := false
  /-- The signing key and the signed bytes of the accepted image, as numbers. -/
  key : Nat := 0
  digest : Nat := 0
deriving DecidableEq, Repr

/-- A Hexost port (18 R472, R473) and the device's fabric identity. -/
structure Fabric where
  devid : Nat := 0
  /-- Route entries by device id (18 R472). -/
  routes : Sparse Nat := []
  /-- Export entries (01 R35). -/
  exports : Sparse Nat := []
  down : Sparse Bool := []
deriving DecidableEq, Repr

/-- A cluster's sensor (17 R453): the latest reading and the value in force, in thousandths of a degree or of an ampere;
`since` is the clk since which its readings have been plausible. -/
structure Sensor where
  last : Option Int := none
  value : Int := 0
  suspect : Bool := false
  since : Nat := 0
deriving DecidableEq, Repr

/-- A cluster's power block (17 R449) with its current record (R450), sensors and rail conditions (R448). -/
structure Cluster where
  pairt : Nat := 393216
  clim : Nat := 0x1fffff
  heavy : Nat := 128
  budget : Nat := 18000
  sres : Nat := 0
  commit : Nat := 0
  scommit : Nat := 0
  railm : Nat := 0
  rail : Nat := 0
  flow : Bool := false
  tlow : Bool := false
  swit : Nat := 0
  throt : Nat := 0
  /-- Charges of the last 64 clk: clk and amount. -/
  recent : List (Nat × Nat) := []
  sensors : Sparse Sensor := []
  /-- The clk since which suspect sensors, and since which the temperature, have not forced the low rail; to which issue pauses for a rail
  change (R447); and since which every resident warp has carried `HINT memory` or `HINT wait` (R448). -/
  calm : Nat := 0
  calmT : Nat := 0
  pause : Nat := 0
  lowSince : Nat := 0
deriving DecidableEq, Repr

/-- A margin search (17 R454): rail, mV below nominal at the present step, last safe step, the clk the step began, the
command's ring position, and whether the search is over and the rail held. -/
structure Margin where
  rail : Nat
  mv : Nat := 0
  safe : Nat := 0
  since : Nat := 0
  pos : Nat := 0
  isOver : Bool := false
deriving DecidableEq, Repr

end Sys2Proof.Machine
end

