-- ==== Sys2Proof/Machine/SchedTypes.lean ====
section
/-! DEFINITION. Types of queued tasks, Traverse graphs and strip pipelines (06 R174-R177; 14 R363-R392; 15 R410-R413). -/
namespace Sys2Proof.Machine

/-- A spawned task that is queued, or that waits for its predecessors (06 R174-R177): the launch of its own spawner, the
address and image of its block, its depth, and whether its spawner was strip-class (15 R405). -/
structure TaskItem where
  launch : Nat
  ctx : Nat
  addr : Nat
  image : Nat
  depth : Nat
  strip : Bool
deriving DecidableEq, Repr

/-- Work that Plumb has released (15 R403 step 1): the next teams of a launch, or one team. -/
inductive StripItem where
  | launch (l : Nat)
  | team (t : Nat)
deriving DecidableEq, Repr

/-- A node of a running graph (15 R410, R412): its record as read when it became ready, `PEND`, `NSTATE`, a WHILE's count,
the clk it became ready, and what its work has come to. -/
structure GNode where
  image : Nat := 0
  pend : Nat := 0
  st : Nat := 0
  count : Nat := 0
  start : Nat := 0
  /-- The launch a KERNEL node placed. -/
  launch : Option Nat := none
  /-- A COPY node's command is in the Hod's queue. -/
  queued : Bool := false
  /-- 0 work not over; 1 every successor; 2 `SUCC0` alone; 3 `SUCC1` alone. -/
  choice : Nat := 0
  /-- The clk of a waiting COND's next recheck, when its monitor was full (04 R118). -/
  poll : Option Nat := none
deriving DecidableEq, Repr

/-- A Traverse walker at work (15 R410, R412). -/
structure Walker where
  launch : Nat
  ctx : Nat
  base : Nat
  n : Nat
  failed : Bool := false
  nodes : Sparse GNode := []
deriving DecidableEq, Repr

/-- A binned primitive of a view (14 R372, R373): its key, `SRATE`, pixel record, strips met, and at each vertex x, y, z, w
after the view transform and then its attributes, as FP32 words. -/
structure PrimItem where
  draw : Nat
  mesh : Nat
  prim : Nat
  view : Nat
  srate : Nat
  pix : Nat
  verts : List (List Nat)
deriving DecidableEq, Repr

/-- Where a frame's BIN node stands. -/
inductive BinState where
  | running | done | late
deriving DecidableEq, Repr

/-- A frame's BIN node (14 R370-R374; 15 R409): its deadline, its MESH launches in acceptance order, its FRAMEEND launches and
the launches accepted before the first, its items in key order, and the bytes of its half that are taken. -/
structure Bin where
  frame : Nat
  dl : Nat
  st : BinState := .running
  launches : List Nat := []
  fes : List Nat := []
  before : List Nat := []
  items : List PrimItem := []
  used : Nat := 0
deriving DecidableEq, Repr

/-- Where a strip chain stands (14 R385). -/
inductive ChainState where
  | pending | waiting | running
deriving DecidableEq, Repr

/-- A strip chain (14 R369, R384-R388): its frame and index, limit and release time, whether it reserves its clusters
(15 R407), level, present node and the clk it started. `item` and `cell` are the raster node's cursor: primitive (or view)
and warp within it; `queued` says that a COPY node's command is at its Hod; `launches` are the launches the node placed, by
record address; `scaled` says that an UPSCALE node has written its strip, and `wrote` is the clk of the last write to the node's
slots (14 R381). -/
structure Chain where
  frame : Nat
  ix : Nat
  f : Nat
  r : Nat
  res : Bool := false
  st : ChainState := .pending
  level : Nat := 0
  node : Nat := 0
  start : Nat := 0
  item : Nat := 0
  cell : Nat := 0
  queued : Bool := false
  launches : List (Nat × Nat) := []
  scaled : Bool := false
  wrote : Nat := 0
deriving DecidableEq, Repr

/-- A reorder-buffer allocation of eight entries (14 R376, R377): the pixel warp's team, its chain, view, level and draw,
each lane's start registers, the covered lanes with their blocks, its primitive, and after its end what it emitted. -/
structure RobEntry where
  team : Nat
  frame : Nat
  chain : Nat
  view : Nat
  level : Nat
  draw : Nat
  mesh : Nat
  prim : Nat
  regs : List (Nat × List Nat)
  blocks : List (Nat × Nat × Nat)
  verts : List (List Nat) := []
  done : Bool := false
  colour : Sparse Nat := []
  emitted : Sparse Bool := []
  killed : LaneMask := 0#96
deriving DecidableEq, Repr

/-- The state of a strip-ring slot (14 R380, R381): its status record, and the pipeline, frame and chain that write it. -/
structure RingSlot where
  nanc : Nat := 0
  ovfc : Nat := 0
  frame : Nat := 0
  strip : Nat := 0
  level : Nat := 0
  st : Nat := 0
  owner : Option (Nat × Nat × Nat) := none
deriving DecidableEq, Repr

/-- The counters of a pipeline (14 R392). -/
structure PipeCtr where
  frames : Nat := 0
  late : Nat := 0
  rep : Nat := 0
  skipped : Nat := 0
  dropm : Nat := 0
  slotw : Nat := 0
  underrun : Nat := 0
  ebfull : Nat := 0
deriving DecidableEq, Repr

/-- An AV1 encoder's place in its stream (14 R391): bytes written (`WOFF` without its modulus), the frame being coded, its
next OBU, whether it is a key frame, frames since the last key frame, and while an OBU's bytes are written but not yet `WOFF`, the
clk of their writes. -/
structure Encoder where
  woff : Nat := 0
  frame : Nat := 0
  obu : Nat := 0
  key : Bool := true
  since : Nat := 0
  wrote : Option Nat := none
deriving DecidableEq, Repr

/-- A strip pipeline (14 R366-R392). -/
structure Pipe where
  /-- The 1,024-bit record installed, and the installing context. -/
  image : Nat := 0
  ctx : Nat := 0
  set : Bool := false
  en : Bool := false
  ctr : PipeCtr := {}
  /-- Records of the chain template, and the union of their `RSV` masks. -/
  nodes : List Nat := []
  rsv : Nat := 0
  /-- First frame, the latest frame started, its start, line length, VTOT of it and of the next. -/
  n0 : Nat := 0
  cur : Option Nat := none
  fs : Nat := 0
  lclk : Nat := 0
  nextFs : Nat := 0
  vt : Nat := 0
  bins : List Bin := []
  chains : List Chain := []
  /-- Launches held for frames ahead (15 R409), in acceptance order. -/
  held : List Nat := []
  /-- Reorder buffer, oldest first. -/
  rob : List RobEntry := []
  /-- History by chain (14 R388): C_0 to C_7, the final level, and whether a chain of the index has ended since enabling. -/
  hist : Sparse (List Nat) := []
  lev : Sparse Nat := []
  seen : Sparse Bool := []
  /-- The consumer's next strip: frame × strips + strip; its next line: frame × lines + line. -/
  take : Nat := 0
  line : Nat := 0
  /-- The lines read ahead of their scan, from the next line on; none of a line that is not read (14 R389). -/
  ahead : List (Option Nat) := []
  /-- The line sent last, as bytes of the ring's format, and the strips repeated: frame × strips + strip. -/
  lineOut : Nat := 0
  reps : List Nat := []
  enc : Encoder := {}
deriving DecidableEq, Repr

/-- A DisplayPort output (14 R390; 18 R462): the rate and lanes that trained, and its hot-plug level. -/
structure DpOut where
  trained : Bool := false
  rate : Nat := 0
  lanes : Nat := 0
  plugged : Bool := false
  /-- The line sent last, as bytes of the ring's format. -/
  sent : Nat := 0
deriving DecidableEq, Repr

/-- The round robin of acceptance and the clk from which the next may start (15 R394), the clk of the next decision (R403),
and the pass after the last placement (R400). -/
structure Arbiter where
  lastQ : Nat := 63
  accAt : Nat := 0
  decAt : Nat := 0
  vlast : Nat := 0
deriving DecidableEq, Repr

end Sys2Proof.Machine
end

