-- ==== Sys2Proof/Machine/State.lean ====
section
/-! DEFINITION. State: everything the spec gives the machine, as plain data, and its value right after reset. INVENTORY.md
lists every field with its rule and reset value. -/
namespace Sys2Proof.Machine

/-- Why the machine stops with a fault of the model. The faults of the hardware (16 R418) are next states. -/
inductive Fault where
  /-- `exec` of an encoded instruction in a state in which no path is issuing (`State.cur` names none). Raised by every
  encoded instruction's meaning; safe: `step` never does this. -/
  | noIssuer
deriving DecidableEq, Repr

/-- Why the model gives an instruction no meaning. -/
inductive Refusal where
  /-- The instruction has no meaning in the model yet. Raised by `exec` alone; safe. -/
  | notModelled (mnemonic : String)
deriving DecidableEq, Repr

/-- The whole machine. -/
structure State where
  /-- Which agents act next, in order (log 1): the model's own field. -/
  agenda : List Act := []
  /-- The issue in progress, whose instruction `exec` runs: the model's own field. -/
  cur : Option Issue := none
  /-- Counter of free values drawn (log 3): the model's own field. -/
  fresh : Nat := 0
  /-- `%clk`, mesh clk since reset (02 R45). -/
  clk : Nat := 0
  tbase : Timebase := {}
  mem : Sram := {}
  /-- Memory instructions in flight, in the order of their issue (02 R48). -/
  flights : List Flight := []
  /-- Bank slots reserved and not yet passed, and every resource's calendar: clk × 2^15 + resource (02 R51). -/
  slotsHeld : List BankSlot := []
  cal : Sparse Nat := []
  /-- Traffic still to be reserved by core transfer engines and edge stops, by requester (02 R54, R56). -/
  traffic : Sparse (List Move) := []
  /-- Host writes that have reached a Renore stop and have yet to take effect, the clk from which a control write may take effect, and
  the control writes that wait for it, oldest first (04 R122). -/
  hostQ : List HostWrite := []
  hostGap : Nat := 0
  ctlQ : List Instr := []
  /-- Host reads still to be answered, the number of the next unit they read, and by Renore stop the last bank slot of a host write (04 R121). -/
  hostRds : List HostRead := []
  hostSeq : Nat := 0
  hostSlot : Sparse Nat := []
  ctxs : Sparse Context := []
  /-- Warps by slot: core × 128 + sub-core × 8 + slot; keys from 24,576 hold saved warps (16 R437). -/
  warps : Sparse (Option Warp) := []
  /-- Belay entries: (slot key / 8) × 64 + index (06 R164). -/
  belay : Sparse Node := []
  /-- Sub-cores whose last issued instruction was heavy (15 R416): core × 16 + sub-core. -/
  heavy : Sparse Bool := []
  /-- The clk from which a sub-core's issue slot is free (06 R150): core × 16 + sub-core. -/
  slotTill : Sparse Nat := []
  /-- By sub-core, the clk after that of its last attempt to reserve (02 R53), and after the last one counted in `THROT` (17 R452). -/
  tried : Sparse Nat := []
  throtTill : Sparse Nat := []
  teams : Sparse (Option Team) := []
  launches : Sparse (Option Launch) := []
  /-- Next team number of the model, and the order of placements. -/
  teamSeq : Nat := 0
  /-- The launch counter (15 R394). -/
  launchCtr : Nat := 0
  queues : Sparse HwQueue := []
  /-- Acceptance and the distributor (15 R394, R400, R403). -/
  arb : Arbiter := {}
  /-- Tasks queued, in the order of the steps that queued them, and tasks waiting (06 R174, R177; 15 R399). -/
  taskQ : List TaskItem := []
  waitTasks : List TaskItem := []
  /-- Work of strip-chain nodes and of BIN nodes in release order, and saved background teams, oldest save first
  (15 R403). -/
  chainQ : List StripItem := []
  binQ : List StripItem := []
  savedQ : List Nat := []
  /-- A partition swap in progress: its cores as a mask, and the teams it restores (16 R446). -/
  swap : Option (Nat × List Nat) := none
  walkers : Sparse (Option Walker) := []
  pipes : Sparse Pipe := []
  /-- Strip-ring descriptors, and slots by ring × 16 + slot (14 R379-R381). -/
  rings : Sparse Nat := []
  slots : Sparse RingSlot := []
  dps : Sparse DpOut := []
  /-- By AV1 encoder: the clk in which it finished its last OBU (00 R2; 14 R391). -/
  encAt : Sparse Nat := []
  /-- What the last host read through an aperture returned, and its poison (01 R38, 18 R456). -/
  hostData : Nat := 0
  hostPsn : Bool := false
  /-- The last host access received an error completion (01 R38; 02 R66). -/
  hostErr : Bool := false
  /-- What the last request of a peer was answered (01 R35): status, and the data of a read with its poison. -/
  peerStat : Nat := 0
  peerData : Nat := 0
  peerPsn : Bool := false
  hods : Sparse Hod := []
  autoFrags : List AutoFrag := []
  /-- Staging requests that found a core's repair queue full (03 R89): core, context, page, and whether for strip-class work. -/
  stageWait : List (Nat × Nat × Nat × Bool) := []
  /-- COPY nodes whose commands have completed and whose completion Traverse or the chain has yet to take: walker (or 8 +
  pipeline), node, status (15 R412). -/
  copyDone : List (Nat × Nat × Nat) := []
  lp : Lpddr := {}
  dirCaches : Sparse (List DirCache) := []
  fabs : Sparse FabQueue := []
  /-- Ashlar contexts: core × 2 + context (12 R307). -/
  ashs : Sparse AshCtx := []
  /-- The context that did not start its unit's previous operation starts next (12 R316): core × 2 + unit. -/
  ashTurn : Sparse Nat := []
  /-- Whether the Ashlar port of a core, and not its Hod, attempts in the next clk in which both could (12 R316). -/
  portNext : Sparse Bool := []
  /-- Clip-in latches by core pair, named by the lower core of the pair (12 R321). -/
  latches : Sparse Latch := []
  ptr : PtrBlock := {}
  life : Life := {}
  fab : Fabric := {}
  /-- Power blocks by cluster (17 R449). -/
  clusters : Sparse Cluster := []
  /-- Margin searches by rail (17 R454). -/
  margins : Sparse (Option Margin) := []
deriving DecidableEq, Repr

/-- The machine right after reset: every field at the value the spec states, or that a log entry names. -/
def State.reset : State := {}

end Sys2Proof.Machine
end

