-- ==== Sys2Proof/Machine/Ops.lean ====
section
/-! DEFINITION. The named operations over registers, memory and paths that every meaning is written from: accessors,
translation (01 R16, R24), granules and poison (02 R42), race detection (02 R44), latency (02 R46), the path tree
(06 R163-R170), taking a fault (16 R418-R427) and exits (05 R132, 06 R169, R177). -/
namespace Sys2Proof.Machine

/-! ### Places -/

/-- Core of a slot key. -/
def coreOf (key : Nat) : Nat := key / 128
/-- Sub-core of a slot key. -/
def subOf (key : Nat) : Nat := key / 8 % 16
/-- Warp slot of a slot key. -/
def slotOf (key : Nat) : Nat := key % 8
/-- Whether the key names a real slot; higher keys hold saved warps. -/
def liveKey (key : Nat) : Bool := key < 24576
/-- Hop count between two cores (02 R39). -/
def hops (a b : Nat) : Nat :=
  let dx := max (a % 16) (b % 16) - min (a % 16) (b % 16)
  let dy := max (a / 16) (b / 16) - min (a / 16) (b / 16)
  dx + dy
/-- Cluster of a core (02 R39). -/
def clusterOf (core : Nat) : Nat := core % 16 / 2 + 8 * (core / 16 / 2)
/-- Partner core of a pair (02 R39). -/
def partner (core : Nat) : Nat := core ^^^ 16

/-! ### Accessors -/

/-- The warp in a slot. -/
def State.warp (s : State) (key : Nat) : Option Warp := sget none s.warps key
/-- Puts a warp into a slot, or empties it. -/
def State.setWarp (s : State) (key : Nat) (w : Option Warp) : State := { s with warps := sput none s.warps key w }
/-- A team by number. -/
def State.team (s : State) (t : Nat) : Option Team := sget none s.teams t
/-- Replaces a team. -/
def State.setTeam (s : State) (t : Nat) (x : Option Team) : State := { s with teams := sput none s.teams t x }
/-- A context. -/
def State.ctx (s : State) (c : Nat) : Context := sget {} s.ctxs c
/-- Replaces a context. -/
def State.setCtx (s : State) (c : Nat) (x : Context) : State := { s with ctxs := sput {} s.ctxs c x }
/-- A launch by identity. -/
def State.launch (s : State) (l : Nat) : Option Launch := sget none s.launches l
/-- Replaces a launch. -/
def State.setLaunch (s : State) (l : Nat) (x : Option Launch) : State := { s with launches := sput none s.launches l x }
/-- A core's Hod. -/
def State.hod (s : State) (c : Nat) : Hod := sget {} s.hods c
/-- Replaces a core's Hod. -/
def State.setHod (s : State) (c : Nat) (h : Hod) : State := { s with hods := sput {} s.hods c h }
/-- A cluster's power block. -/
def State.cluster (s : State) (cl : Nat) : Cluster := sget {} s.clusters cl
/-- Changes a cluster's power block. -/
def State.updCluster (s : State) (cl : Nat) (f : Cluster → Cluster) : State := { s with clusters := supd {} s.clusters cl f }
/-- Number of no path. -/
def noPath : Nat := 127
/-- Place of a belay entry in `State.belay`. -/
def belayKey (key nid : Nat) : Nat := key / 8 * 64 + nid
/-- A node of a warp's tree: 64 is the root record, others are belay entries of the sub-core. -/
def State.node (s : State) (key nid : Nat) : Node :=
  if nid = 64 then (match s.warp key with
    | some w => w.root
    | none => {})
  else sget {} s.belay (belayKey key nid)
/-- A warp with another root record. -/
def Warp.withRoot (w : Warp) (n : Node) : Warp := { w with root := n }
/-- Replaces a node. -/
def State.setNode (s : State) (key nid : Nat) (n : Node) : State :=
  if nid = 64 then (match s.warp key with
    | some w => s.setWarp key (some (w.withRoot n))
    | none => s)
  else { s with belay := sput {} s.belay (belayKey key nid) n }
/-- Changes the warp in a slot. -/
def State.updWarp (s : State) (key : Nat) (f : Warp → Warp) : State :=
  match s.warp key with
  | some w => s.setWarp key (some (f w))
  | none => s
/-- Changes a node. -/
def State.updNode (s : State) (key nid : Nat) (f : Node → Node) : State := s.setNode key nid (f (s.node key nid))
/-- Changes the SRAM. -/
def State.setMem (s : State) (m : Sram) : State := { s with mem := m }

/-- Lane register value at a stack position (06 R157). -/
def Warp.vAt (w : Warp) (pos lane : Nat) : Val := sget {} w.v (pos * 128 + lane)
/-- Writes a lane register at a stack position. -/
def Warp.setVAt (w : Warp) (pos lane : Nat) (x : Val) : Warp := { w with v := sput {} w.v (pos * 128 + lane) x }
/-- Uniform register (06 R161). -/
def Warp.sAt (w : Warp) (i : Nat) : Val := sget {} w.s i
/-- Writes a uniform register. -/
def Warp.setS (w : Warp) (i : Nat) (x : Val) : Warp := { w with s := sput {} w.s i x }
/-- Predicate mask; p7 is true in every lane (07 R183). -/
def Warp.pAt (w : Warp) (i : Nat) : LaneMask := if i = 7 then BitVec.allOnes 96 else sget 0#96 w.p i
/-- Writes predicate bits of the lanes of `m`. -/
def Warp.setP (w : Warp) (i : Nat) (m val : LaneMask) : Warp :=
  { w with p := sput 0#96 w.p i ((sget 0#96 w.p i &&& ~~~m) ||| (val &&& m)) }
/-- Latch y(i+1) of a lane (07 R187). -/
def Warp.yAt (w : Warp) (i lane : Nat) : Val := sget {} w.y (i * 128 + lane)
/-- Writes latch y(i+1) of a lane. -/
def Warp.setY (w : Warp) (i lane : Nat) (x : Val) : Warp := { w with y := sput {} w.y (i * 128 + lane) x }

/-! ### Slices, granules and poison -/

/-- A slice's counters. -/
def Sram.ctrOf (m : Sram) (slice : Nat) : SliceCtr := sget {} m.ctr slice
/-- Changes a slice's counters. -/
def Sram.updCtr (m : Sram) (slice : Nat) (f : SliceCtr → SliceCtr) : Sram := { m with ctr := supd {} m.ctr slice f }
/-- A slice's monitor counters. -/
def Sram.monOf (m : Sram) (slice : Nat) : MonCtr := sget {} m.mon slice
/-- Granule number of a physical address. -/
def granOf (pa : Nat) : Nat := pa / 32
/-- Slice of a granule. -/
def granSlice (g : Nat) : Nat := g / 2 ^ 19
/-- Whether a granule holds `PSN`. -/
def Sram.poisoned (m : Sram) (g : Nat) : Bool := sget false m.psn g
/-- Sets or clears a granule's `PSN`. -/
def Sram.setPsn (m : Sram) (g : Nat) (b : Bool) : Sram := { m with psn := sput false m.psn g b }

/-- The 268 bits of a granule as stored, while no storage error is in it (02 R41): `CHK` high, the reserved bit 0, `PSN`, `CHK` low, `DATA`. The
check bits are those of the code over the other 258 bits, so that no field of their own holds them (log 127). -/
def Sram.row (m : Sram) (g : Nat) : Nat :=
  let data := memRead m.bytes (32 * g) 32
  let chk := Config.checkBits (data + fieldN (b2n (m.poisoned g)) 256 1)
  fieldN (chk / 2 ^ 9 % 2) 267 1 + fieldN (b2n (m.poisoned g)) 265 1 + fieldN (chk % 2 ^ 9) 256 9 + data

/-- What the check of a bank read does to the granule and its counters (02 R42): a corrected error is counted at each read until
the scrubber, or a write, has rewritten the granule; an uncorrectable one leaves `PSN`. -/
def Sram.check (m : Sram) (g : Nat) : Sram :=
  let sl := granSlice g
  let m1 := if sget false m.ceLat g then
      { m.updCtr sl (fun c => { c with ce := satAdd c.ce 1 32 }) with
        scrubQ := if m.scrubQ.contains g then m.scrubQ else m.scrubQ ++ [g] }
    else m
  if sget false m1.ueLat g then
    let m2 := m1.updCtr sl (fun c => { c with ue := satAdd c.ue 1 32, ueaddr := g % 2 ^ 19, uev := true })
    { m2 with ueLat := sput false m2.ueLat g false, psn := sput false m2.psn g true }
  else m1

/-- A bank read of a granule: whether it delivers poison, and what it leaves (02 R42). -/
def Sram.readGran (m : Sram) (g : Nat) : Bool × Sram :=
  let fresh := sget false m.ueLat g
  let m1 := m.check g
  if m1.poisoned g then
    (true, if fresh then m1 else m1.updCtr (granSlice g) (fun c => { c with poisr := satAdd c.poisr 1 32 }))
  else (false, m1)

/-- A write to a bank word wakes every waiter registered on it (04 R117, 05 R140). -/
def Sram.wakeWord (m : Sram) (g : Nat) : Sram :=
  let sl := granSlice g
  let es := sget [] m.cairn sl
  let hit := es.filter (fun e => e.word == g)
  if hit.isEmpty then m else
  { m with
    cairn := sput [] m.cairn sl (es.filter (fun e => e.word != g))
    wakes := supd [] m.wakes sl (fun l => l ++ hit)
    mon := supd {} m.mon sl (fun c => { c with mwake := satAdd c.mwake hit.length 64 }) }

/-- A granule written with a valid code (02 R42): no corrected error is left in it. -/
def Sram.rewritten (m : Sram) (g : Nat) : Sram :=
  { m with ceLat := sput false m.ceLat g false, scrubQ := m.scrubQ.filter (· != g) }

/-- A storage upset in a granule (02 R41): one bit of it, or two at once; a second one makes an error uncorrectable. -/
def Sram.upset (m : Sram) (g : Nat) (double : Bool) : Sram :=
  if double || sget false m.ceLat g then { m with ueLat := sput false m.ueLat g true, ceLat := sput false m.ceLat g false }
  else if sget false m.ueLat g then m
  else { m with ceLat := sput false m.ceLat g true }

/-- A write of `n` bytes inside one granule, with the poison its data carries (02 R42), waking waiters. -/
def Sram.write (m : Sram) (pa n x : Nat) (psn : Bool) : Sram :=
  let g := granOf pa
  let m1 := (if n = 32 then { m with ueLat := sput false m.ueLat g false } else m.check g).rewritten g
  let m2 := { m1 with bytes := memWrite m1.bytes pa n x }
  let m3 := if n = 32 then m2.setPsn g psn else if psn then m2.setPsn g true else m2
  m3.wakeWord g

/-- A read of `n` bytes at `pa`, possibly over several granules: value, poison, and the SRAM after it. -/
def Sram.readSpan (m : Sram) (pa n : Nat) : Nat × Bool × Sram :=
  let g0 := granOf pa
  let gs := (List.range (granOf (pa + n - 1) + 1 - g0)).map (· + g0)
  let r := gs.foldl (fun (acc : Bool × Sram) g => let x := acc.2.readGran g; (acc.1 || x.1, x.2)) (false, m)
  (memRead m.bytes pa n, r.1, r.2)

/-- A write of a span, granule by granule. -/
def Sram.writeSpan (m : Sram) (pa : Nat) : Nat → Nat → Nat → Bool → Sram
  | 0, _, _, _ => m
  | fuel + 1, n, x, psn =>
    if n = 0 then m else
    let k := min n (32 - pa % 32)
    (m.write pa k (x % 2 ^ (8 * k)) psn).writeSpan (pa + k) fuel (n - k) (x / 2 ^ (8 * k)) psn

/-- Agent number of a warp (02 R44; 04 R94): it stays the same agent across a save and a resume on another core. -/
def warpAgent (w : Warp) : Nat := 4 * (w.team * 64 + w.warpId)
/-- Agent number of an engine thread. -/
def engineAgent (n : Nat) : Nat := 4 * n + 1
/-- The device's own records as one agent, and each Renore stop (02 R44). -/
def deviceAgent : Nat := 2
/-- Agent number of a Renore stop (02 R44). -/
def hostAgent (stop : Nat) : Nat := 4 * stop + 3

/-! ### Translation -/

/-- Permission bits of an access class (01 R24): X 8, AT 4, W 2, R 1. -/
def needR : Nat := 1
/-- W. -/
def needW : Nat := 2
/-- R, W and AT. -/
def needRWAT : Nat := 7
/-- W and AT. -/
def needWAT : Nat := 6
/-- X. -/
def needX : Nat := 8

/-- `KIND` of a segment entry (01 R20). -/
def segKind (e : Nat) : Nat := bitsN e 127 124
/-- Permission bits of a segment entry. -/
def segPerm (e : Nat) : Nat := bitsN e 123 120
/-- Whether the entry is a staging entry (01 R21). -/
def segStaging (e : Nat) : Bool := segKind e == 3
/-- Virtual base address of an entry. -/
def segBase (e : Nat) : Nat := if segStaging e then bitsN e 115 100 * 65536 else bitsN e 119 96 * 256
/-- Size of an entry in bytes. -/
def segSize (e : Nat) : Nat := if segStaging e then (bitsN e 99 84 + 1) * 65536 else (bitsN e 95 72 + 1) * 256
/-- Number of backing slices. -/
def segN (e : Nat) : Nat := 2 ^ (if segStaging e then bitsN e 118 116 else bitsN e 63 61)
/-- First backing slice. -/
def segSlice (e : Nat) : Nat := if segStaging e then bitsN e 83 76 else bitsN e 71 64
/-- Backing offset in every backing slice, in bytes. -/
def segOff (e : Nat) : Nat := if segStaging e then bitsN e 75 68 * 65536 else bitsN e 60 45 * 256
/-- `AUTO` of a staging entry. -/
def segAuto (e : Nat) : Bool := segStaging e && bitN e 119
/-- `RBASE` of a staging entry. -/
def segRbase (e : Nat) : Nat := bitsN e 67 54
/-- `APAGE` of a staging entry. -/
def segApage (e : Nat) : Nat := bitsN e 31 0
/-- Whether the entry's range holds an address. -/
def segHolds (e va : Nat) : Bool := segKind e != 0 && decide (segBase e ≤ va ∧ va < segBase e + segSize e)
/-- Physical address of an address the entry holds (01 R24). -/
def segPa (e va : Nat) : Nat :=
  let delta := va - segBase e
  let g := delta / 256
  (segSlice e + g % segN e) * 2 ^ 24 + segOff e + g / segN e * 256 + delta % 256

/-- The valid entry whose range holds an address. -/
def Context.seg? (c : Context) (va : Nat) : Option Nat := (c.seg.find? (fun e => segHolds e.2 va)).map (·.2)

/-- S-space translation after the alignment test (01 R24): the physical address or the lane fault's code. The S-space of
context 0 is physical (18 R460). -/
def Context.xlateS (c : Context) (va need : Nat) : Except Nat Nat :=
  if c.phys then (if va / 2 ^ 24 < 192 then .ok va else .error 2) else
  match c.seg? va with
  | none => .error 2
  | some e =>
    if need &&& segPerm e ≠ need then .error 4
    else if segStaging e && !sget false c.resid (segRbase e + (va - segBase e) / 65536) then .error 1
    else .ok (segPa e va)

/-- L-space translation over a scratchpad of a size with two bases, of a pair or not (01 R16). -/
def padXlate (size base0 base1 : Nat) (pair : Bool) (core o need : Nat) : Except Nat Nat :=
  let mine := if pair && bitN core 4 then base1 else base0
  let other := if pair && bitN core 4 then base0 else base1
  if needX &&& need ≠ 0 then .error 4
  else if o < 0x800000 ∧ o < size then .ok (core * 2 ^ 24 + mine + o)
  else if o ≥ 0x800000 ∧ o - 0x800000 < size ∧ pair then
    .ok (partner core * 2 ^ 24 + other + (o - 0x800000))
  else .error 2

/-- L-space translation for a team on a core (01 R16). -/
def Team.xlateL (t : Team) (core o need : Nat) : Except Nat Nat := padXlate t.scratch t.base0 t.base1 t.pair core o need

/-- A team's scratchpad, as a forked command keeps it (03 R83). -/
def Team.pad (t : Team) : Nat × Nat × Nat × Bool := (t.scratch, t.base0, t.base1, t.pair)

/-- Which space an address lies in (01 R12): 0 S, 1 L, 2 A, 3 H, 4 P, 5 none. -/
def spaceOf (va : Nat) : Nat :=
  if va < 2 ^ 32 then 0
  else if va < 2 ^ 32 + 2 ^ 24 then 1
  else if bitsN va 63 48 = 1 then 2
  else if bitsN va 63 48 = 2 then 3
  else if bitsN va 63 48 = 3 then 4
  else 5

/-- An address of a warp that sees S-space as context `c` has it: alignment, then the segment or the scratchpad (01 R13, R14, R16,
R24). -/
def State.xlateIn (s : State) (c : Context) (w : Warp) (core va size need : Nat) : Except Nat Nat :=
  if va % size ≠ 0 then .error 3
  else match spaceOf va with
    | 0 => c.xlateS va need
    | 1 => (match s.team w.team with
      | some t => t.xlateL core (va - 2 ^ 32) need
      | none => .error 2)
    | _ => .error 2

/-- `translate` of 07 R199 for a lane access of a warp. Codes are those of 16 R418. -/
def State.translate (s : State) (key va size need : Nat) : Except Nat Nat :=
  match s.warp key with
  | none => .error 2
  | some w => s.xlateIn (s.ctx w.ctx) w (coreOf key) va size need

/-- The context as an instruction sees it that issued at a clk: one issued before the switch of a commit in progress keeps the table
before it (01 R23). -/
def Context.asOf (c : Context) (at_ : Nat) : Context :=
  if c.commit.isSome && decide (at_ < c.commitAt) then { c with seg := c.segOld } else c

/-- `translate` for a part of an instruction that issued at a clk (01 R23). -/
def State.translateAt (s : State) (at_ key va size need : Nat) : Except Nat Nat :=
  match s.warp key with
  | none => .error 2
  | some w => s.xlateIn ((s.ctx w.ctx).asOf at_) w (coreOf key) va size need

/-! ### Traps -/

/-- How an instruction fails to complete. -/
inductive Trap where
  /-- A warp-level fault: code, cause, argument (16 R418). -/
  | warp (code cause arg : Nat)
  /-- One lane code on every active lane, at an address. -/
  | all (code va : Nat)
  /-- A trap met after the instruction's reads have left the state `s`. -/
  | sunk (s : State) (t : Trap)
deriving DecidableEq, Repr

/-- ILLEGAL_INSTRUCTION, cause decode. -/
def trapInstr : Trap := .warp 16 0 0
/-- ILLEGAL_OPERAND. -/
def trapOpnd : Trap := .warp 17 0 0
/-- BARRIER_OVERRUN with a cause (05 R128). -/
def trapBarrier (cause : Nat) : Trap := .warp 20 cause 0

/-- A trap met once an instruction's reads have taken effect: they stand (02 R42, R44, R64). -/
def sunkTrap {α : Type} (s : State) (t : Trap) : Except Trap α := .error (.sunk s t)

/-- Goes on when a test holds, else traps. -/
def need (b : Bool) (t : Trap) : Except Trap Unit := if b then .ok () else .error t

/-! ### Fault records -/

/-- A fault record's image but for `HANDLE` and `SEQ` (16 R423). -/
def faultImage (s : State) (key nid : Nat) (w : Warp) (rkind code cause arg va xf hst fragId : Nat) (lm : LaneMask) : Nat :=
  let n := s.node key nid
  fieldN va 448 64 + fieldN lm.toNat 352 96 + fieldN (n.pc.toNat / 4) 322 30 + fieldN rkind 320 2
    + fieldN code 314 6 + fieldN cause 310 4 + fieldN arg 304 6 + fieldN xf 299 5 + fieldN hst 294 5
    + fieldN w.ctx 289 5 + fieldN (b2n w.tcb.isSome) 288 1 + fieldN (coreOf key) 280 8 + fieldN (subOf key) 276 4
    + fieldN (slotOf key) 273 3 + fieldN (b2n w.strip) 272 1 + fieldN fragId 256 16 + fieldN w.launch 224 32
    + fieldN w.teamId 200 24 + fieldN (if rkind = 2 then 0 else w.warpId) 194 6
    + fieldN ((w.tcb.getD 0) / 64) 168 26 + fieldN s.clk 64 64

/-- The clk by which what a warp has issued has reached its write-back (16 R424). -/
def Warp.issuedTill (w : Warp) : Nat := w.inflight.foldl max 0

/-- A fault starts on its way to the context's handler or the driver (16 R424, R426), once a clk has come. -/
def State.queueFaultFrom (s : State) (after key : Nat) (w : Warp) (code cause : Nat) (img : Nat) (work : Work) : State :=
  let c := s.ctx w.ctx
  let drv := (code == 16 && cause == 2) || w.handler || c.hrec == 0 || c.hdead
  let s1 := s.setCtx w.ctx { c with pending := c.pending ++ [⟨img, work, key, drv, 0, after⟩] }
  match s1.team w.team with
  | some t => s1.setTeam w.team (some { t with awaiting := t.awaiting + 1 })
  | none => s1

/-- A fault that strikes now starts on its way (16 R424). -/
def State.queueFault (s : State) (key : Nat) (w : Warp) (code cause : Nat) (img : Nat) (work : Work) : State :=
  s.queueFaultFrom w.issuedTill key w code cause img work

/-- The warp parks for a warp-level fault (16 R418): every path stays where it is. -/
def State.parkWarp (s : State) (key nid code cause arg : Nat) (lm : LaneMask) (va : Nat) (xf : Nat := 0) : State :=
  match s.warp key with
  | none => s
  | some w =>
    let w1 := { w with status := .parked, park := some (code, cause, arg, nid, lm), heldAt := none, urgent := false, want := [] }
    let s1 := s.setWarp key (some w1)
    s1.queueFault key w1 code cause (faultImage s1 key nid w1 1 code cause arg va xf 0 0 lm) (.warp w.team w.warpId)

/-! ### Automatic repair requests -/

/-- One staging request per context and page at a core's Hod (03 R89); with its repair queue full, it waits for an entry. -/
def State.requestStaging (s : State) (core ctx page : Nat) (strip : Bool) : State :=
  let h := s.hod core
  let q := sget {} h.qs 17
  let inSlot := h.slots.any (fun x => match x.2 with
    | some t => t.q == 17 && t.cmd.ctx == ctx && t.cmd.page == page
    | none => false)
  if inSlot || q.cmds.any (fun c => c.ctx == ctx && c.page == page) then s
  else if q.cmds.length ≥ 16 then
    { s with stageWait := if s.stageWait.any (fun x => x.1 == core && x.2.1 == ctx && x.2.2.1 == page) then s.stageWait
        else s.stageWait ++ [(core, ctx, page, strip)] }
  else
    let cmd : HodCmd := { op := 4, ctx := ctx, page := page, strip := strip, seq := q.nseq }
    let q1 : HodQueue := { q with cmds := q.cmds ++ [cmd], nseq := (q.nseq + 1) % 2 ^ 18 }
    s.setHod core { h with qs := sput {} h.qs 17 q1 }

/-- An entry of a core's repair queue has freed: the pages that wait are requested, the oldest first (03 R89). -/
def State.refillRepairs (s : State) (core : Nat) : State :=
  (s.stageWait.filter (fun x => x.1 == core)).foldl (fun st x => st.requestStaging core x.2.1 x.2.2.1 x.2.2.2)
    { s with stageWait := s.stageWait.filter (fun x => x.1 != core) }

/-- The page of a RESIDENCY fault on a segment with `AUTO` = 1. -/
def Context.autoPage (c : Context) (f : LaneFault) : Option Nat :=
  if f.code ≠ 1 then none else
  match c.seg? f.va with
  | some e => if segAuto e then some (f.va / 65536) else none
  | none => none

/-! ### The belay table -/

/-- The belay entries a warp holds. -/
def State.entries (s : State) (key : Nat) : List Nat :=
  (List.range 64).filter (fun i =>
    let n := s.node key i
    n.kind != .free && n.slot == slotOf key)

/-- Children of a split. -/
def State.children (s : State) (key nid : Nat) : List Nat :=
  (s.entries key).filter (fun i => (s.node key i).parent == nid)

/-- The lowest free entries of the sub-core. DESIGN CHOICE (log 52): the manual does not say which free entries a divergence takes. -/
def State.freeEntries (s : State) (key k : Nat) : List Nat :=
  ((List.range 64).filter (fun i => (s.node key i).kind == .free)).take k

/-- Whether `k` more entries may be taken (06 R166). DESIGN CHOICE (log 112): a warp counts as resident while it is in a slot, whatever its
state. -/
def State.mayTake (s : State) (key k : Nat) : Bool :=
  let slots := (List.range 8).map (fun i => key / 8 * 8 + i)
  let held := slots.map (fun sl => if (s.warp sl).isSome then (s.entries sl).length else 0)
  let resident := (slots.filter (fun sl => (s.warp sl).isSome)).length
  let h := (s.entries key).length
  let pool := 64 - 2 * resident
  let used := (held.map (fun x => x - 2)).foldl (· + ·) 0
  (decide (h + k ≤ 2) || decide ((h + k - 2) - (h - 2) + used ≤ pool)) && decide ((s.freeEntries key k).length = k)

/-- Next fragment identity (16 R421). -/
def nextFrag (x : Nat) : Nat := if (x + 1) % 65536 = 0 then 1 else (x + 1) % 65536

/-! ### Taking a fault -/

/-- Paths that go on anew start with all latches invalid: if one of them issued last, the warp's latches are (07 R188). -/
def Warp.dropY (w : Warp) (ids : List Nat) : Warp := { w with yv := if ids.contains w.lastPath then 0 else w.yv }

/-- Sends a new fragment to automatic repair (16 R422) or to a handler (R424). -/
def State.routeFragment (s : State) (key nid : Nat) (w : Warp) (fs : List LaneFault) (fid : Nat) : State :=
  let c := s.ctx w.ctx
  let pages := (fs.filterMap c.autoPage).eraseDups
  let s1 := pages.foldl (fun st p => st.requestStaging (coreOf key) w.ctx p w.strip) s
  let code := fs.foldl (fun m f => min m f.code) 63
  let first := (leastBy (fun a b => decide (a.lane < b.lane)) fs).getD ⟨0, 0, 0, 0⟩
  let img (cause : Nat) : Nat := faultImage s1 key nid w 0 code cause 0 first.va (fs.foldl (fun m f => m ||| f.xf) 0) 0 fid (maskOf (fs.map (·.lane)))
  if fs.all (fun f => (c.autoPage f).isSome) then
    { s1 with autoFrags := s1.autoFrags ++ [⟨w.team, w.warpId, fid, coreOf key, w.ctx, pages, img 1, w.issuedTill, 0⟩] }
  else s1.queueFault key w code 0 (img 0) (.frag w.team w.warpId fid)

/-- Lane faults strike lanes of a path at its present instruction (06 R165, 16 R420): a fragment is parted off, or the whole
path parks as one, or the warp parks with FRAG_EXHAUSTED. `npc` is where the continuing path goes on. -/
def State.takeLaneFaults (s : State) (key nid : Nat) (act : LaneMask) (fs : List LaneFault) (npc : Word) : State :=
  match s.warp key with
  | none => s
  | some w =>
    let n := s.node key nid
    let fm := maskOf (fs.map (·.lane))
    let code := fs.foldl (fun m f => min m f.code) 63
    let fid := nextFrag w.fseq
    let frag (n0 : Node) (m : LaneMask) : Node :=
      { n0 with kind := .frag, wait := .none, fcode := code, mask := m, fragId := fid, fmask := fm, detail := fs
                spn := false, spc := 0, tkv := false, step := none }
    if fm = act then
      let w1 := { w with fseq := fid }.dropY [nid]
      let s1 := (s.setWarp key (some w1)).setNode key nid (frag n n.mask)
      s1.routeFragment key nid w1 fs fid
    else if s.mayTake key 2 then
      match s.freeEntries key 2 with
      | [a, b] =>
        let w1 := { w with fseq := fid }.dropY [nid]
        let child := { n with parent := nid, slot := slotOf key }
        let s1 := (s.setWarp key (some w1)).setNode key nid
          { n with kind := .split, fs := true, jv := false, wait := .none }
        let s2 := s1.setNode key a { child with mask := n.mask &&& ~~~fm, pc := npc, wait := .none, since := s.clk }
        let s3 := s2.setNode key b (frag child fm)
        s3.routeFragment key b w1 fs fid
      | _ => s
    else
      let c := s.ctx w.ctx
      let pages := (fs.filterMap c.autoPage).eraseDups
      let s1 := pages.foldl (fun st p => st.requestStaging (coreOf key) w.ctx p w.strip) s
      let va := ((leastBy (fun a b => decide (a.lane < b.lane)) fs).getD ⟨0, 0, 0, 0⟩).va
      ((s1.updWarp key (fun w => { w with detail := fs })).updNode key nid (fun n => { n with step := none })).parkWarp key nid 19 code 0 fm va (fs.foldl (fun m f => m ||| f.xf) 0)

/-- Every lane of a warp that has not exited. -/
def State.liveLanes (s : State) (key : Nat) : LaneMask :=
  match s.warp key with
  | some w => w.root.mask ||| ((s.entries key).foldl (fun m i => m ||| (s.node key i).mask) 0#96)
      ||| w.serial.foldl (fun m r => m ||| r.waiting ||| r.sides.foldl (fun a d => a ||| d.mask) 0#96) 0#96
  | none => 0#96

/-- TAKING A FAULT: the one operation by which an instruction of a path ends in a fault (16 R418-R424). -/
def State.takeTrap (s : State) (key nid : Nat) (act : LaneMask) : Trap → State
  | .warp code cause arg => s.parkWarp key nid code cause arg (s.liveLanes key) 0
  | .all code va =>
    if act = 0#96 then s
    else s.takeLaneFaults key nid act ((lanesOf act).map (fun l => ⟨l, code, va, 0⟩)) (s.node key nid).pc
  | .sunk s1 t => s1.takeTrap key nid act t

/-! ### The register window -/

/-- The paths and fragments of a warp. -/
def State.leaves (s : State) (key : Nat) : List Nat :=
  (64 :: s.entries key).filter (fun i => let k := (s.node key i).kind; k == .path || k == .frag)

/-- Serial records a warp holds (06 R170). -/
def Warp.nser (w : Warp) : Nat := w.serial.foldl (fun a g => a + g.sides.length) 0

/-- Window bases that must stay in the resident range beside a path's own: those of the warp's other paths and fragments
(06 R157, R159). -/
def State.otherWindows (s : State) (key nid : Nat) : List Nat :=
  ((s.leaves key).filter (· != nid)).map (fun i => (s.node key i).wb)

/-- Bytes of spill area taken by `sb` spilled positions and `n` serial records, against `f` declared (06 R170; log 17). -/
def spillFits (width f sb n : Nat) : Bool := decide (4 * width * sb + 64 * (n - 4) ≤ 4 * width * f)

/-- Positions that become resident on an upward move hold free values (06 R159; log 18). -/
def State.freshRows (s : State) (key lo n : Nat) : State :=
  match s.warp key with
  | none => s
  | some w =>
    let cells := (List.range n).flatMap (fun k => (List.range w.width).map (fun l => (lo + k, l)))
    let w1 := cells.foldl (fun (a : Warp × Nat) x =>
      (a.1.setVAt x.1 x.2 ⟨Config.freeWord a.2, Config.freeBit a.2⟩, a.2 + 1)) (w, s.fresh)
    { s.setWarp key (some w1.1) with fresh := w1.2 }

/-- SPILL_EXHAUSTED with its cause (16 R418): 0 SPREAD, 1 AREA. -/
def trapSpill (cause : Nat) : Trap := .warp 18 cause 0

/-- A path waits for a frame move of `k` positions from `pos` on (06 R160): the core's transfer engine, requester 408 + core, carries them in
256-byte units between the register file and the warp's spill area. DESIGN CHOICE (log 110): position p begins 4wp bytes into the area. -/
def State.frameMove (s : State) (key nid pos k : Nat) : State :=
  match s.warp key with
  | none => s
  | some w =>
    let core := coreOf key
    let area := match s.team w.team with
      | some t => t.spills.getD w.warpId (core, 0, 0)
      | none => (core, 0, 0)
    let g0 := granOf (area.1 * 2 ^ 24 + area.2.1 + 4 * w.width * pos)
    let units := (List.range (4 * w.width * k / 256)).map (fun i => (List.range 8).map (fun b => g0 + 8 * i + b))
    let m : Move := ⟨core, units, .frame key nid⟩
    { s.updNode key nid (fun p => { p with wait := .frame none }) with
      traffic := supd [] s.traffic (408 + core) (fun l => l ++ [m]) }

/-- `make_resident` of 06 R159. A move holds the path (R160). -/
def State.makeResident (s : State) (key nid x : Nat) : Except Trap State :=
  match s.warp key with
  | none => .ok s
  | some w =>
    let lo := if x < w.sb then x - x % 8 else max w.sb (x + 64 - w.depth)
    if lo = w.sb then .ok s
    else
      let others := s.otherWindows key nid
      if others.any (fun b => decide (b < lo ∨ lo + w.depth < b + 64)) then .error (trapSpill 0)
      else if lo > w.sb then
        let up := lo + (8 - lo % 8) % 8
        if decide (up > w.frame) || !spillFits w.width w.frame up w.nser then .error (trapSpill 1)
        else
          let s1 := s.updWarp key (fun w => { w with sb := up })
          let s2 := s1.freshRows key (w.sb + w.depth) (up - w.sb)
          .ok (s2.frameMove key nid w.sb (up - w.sb))
      else
        let s1 := s.updWarp key (fun w => { w with
          sb := lo, v := w.v.filter (fun e => decide (e.1 / 128 < lo + w.depth)) })
        .ok (s1.frameMove key nid lo (w.sb - lo))

/-- A path that goes on under another window base keeps its window resident (06 R157). DESIGN CHOICE (log 111): where a move that this needs
finds no room, the warp takes SPILL_EXHAUSTED. -/
def State.windowBack (s : State) (key nid : Nat) : State :=
  match s.makeResident key nid (s.node key nid).wb with
  | .ok s1 => s1
  | .error t => s.takeTrap key nid 0#96 t

/-! ### Reconvergence -/

/-- The next side of a serial group goes on, or the group merges (06 R170); `fuel` bounds nested groups. -/
def State.nextSide (s : State) (key nid : Nat) : Nat → State
  | 0 => s
  | fuel + 1 =>
    match s.warp key with
    | none => s
    | some w =>
      match findAt (fun r => r.owner == nid) w.serial with
      | none => s
      | some (i, r) =>
        let n := s.node key nid
        match r.sides with
        | sd :: rest =>
          let s1 := (s.setWarp key (some ({ w with serial := setAt w.serial i { r with sides := rest } }.dropY [nid]))).setNode
            key nid { n with kind := .path, pc := sd.pc, mask := sd.mask, mode := sd.mode, wb := sd.wb, wait := .none, spn := false
                             spc := 0, since := s.clk, fragId := r.fragId, fmask := r.fmask, fcode := 0, detail := [] }
          if sd.mask = 0#96 then s1.nextSide key nid fuel else s1.windowBack key nid
        | [] =>
          let s1 := s.setWarp key (some ({ w with serial := dropAt w.serial i }.dropY [nid]))
          if r.waiting = 0#96 then (s1.setNode key nid { n with kind := .path, mask := 0#96, wait := .none }).nextSide key nid fuel
          else (s1.setNode key nid { n with kind := .path, fcode := 0, detail := [], mask := r.waiting, mode := r.mode, wb := r.wb, wait := .none
                                            pc := (r.jpc.getD n.pc) + 4#32, fragId := 0, fmask := 0#96
                                            spn := false, spc := 0, since := s.clk }).windowBack key nid

/-- JOIN at the path's present instruction (06 R167, R170). `none` is ILLEGAL_INSTRUCTION; otherwise the path waits, or
continues where no split stands above it. Merging of splits is `settle`. -/
def State.joinPath (s : State) (key nid : Nat) : Option State :=
  match s.warp key with
  | none => some s
  | some w =>
    let n := s.node key nid
    match findAt (fun r => r.owner == nid) w.serial with
    | some (i, r) =>
      if (r.jpc.isSome && r.jpc != some n.pc) || r.wb != n.wb then none
      else
        let r1 : SerialGrp := { r with jpc := some n.pc, waiting := r.waiting ||| n.mask }
        let s1 := s.setWarp key (some { w with serial := setAt w.serial i r1 })
        some ((s1.setNode key nid { n with mask := 0#96 }).nextSide key nid 64)
    | none =>
      if nid = 64 then some (s.setNode key nid { n with pc := n.pc + 4#32 })
      else
        let p := s.node key n.parent
        if (p.jv && p.pc != n.pc) || p.wb != n.wb then none
        else
          let s1 := s.setNode key n.parent { p with jv := true, pc := n.pc }
          some (s1.setNode key nid { n with wait := .join })

/-- An instruction in flight whose path has changed its belay entry. -/
def Flight.rename (f : Flight) (ren : Nat → Nat) : Flight :=
  { f with
    op := (match f.op with
      | .step j => .step { j with nid := ren j.nid }
      | o => o)
    dst := (match f.dst with
      | .half i t => .half (ren i) t
      | d => d) }

/-- What a path that gives up its belay entry `c` to entry `nid` still awaits goes on under the entry it takes over: steps and reads on
their way (05 R126), monitor entries and wakes (05 R139, R140), deliveries (11 R297-R299, R306), texture segments and a ray trace
(06 R169; log 84). -/
def State.renamePath (s : State) (key c nid : Nat) : State :=
  let ent (e : CairnEntry) : CairnEntry := match e.waiter with
    | .path x k i => if k = key ∧ i = c then { e with waiter := .path x k nid } else e
    | .node _ _ => e
  let m := { s.mem with cairn := s.mem.cairn.map (fun x => (x.1, x.2.map ent)), wakes := s.mem.wakes.map (fun x => (x.1, x.2.map ent)) }
  let ren (i : Nat) : Nat := if i = c then nid else i
  let mv (x : Move) : Move := if x.what = .frame key c then { x with what := .frame key nid } else x
  ({ s with mem := m, traffic := s.traffic.map (fun x => (x.1, x.2.map mv)), flights := s.flights.map (fun f => if f.key = key then f.rename ren else f) } : State).updWarp key (fun w => { w with
    pend := w.pend.map (fun p => { p with nid := ren p.nid }), tex := w.tex.map (fun j => { j with nid := ren j.nid }),
    trace := w.trace.map (fun t => { t with nid := ren t.nid }),
    serial := w.serial.map (fun r => { r with owner := ren r.owner }), chosen := w.chosen.map ren })

/-- Paths without lanes go: what they have begun belongs to no path (06 R169). -/
def Warp.orphan (w : Warp) (ids : List Nat) : Warp :=
  let ren (i : Nat) : Nat := if ids.contains i then noPath else i
  { w with pend := w.pend.map (fun p => { p with nid := ren p.nid }), tex := w.tex.map (fun j => { j with nid := ren j.nid }),
           trace := w.trace.map (fun t => { t with nid := ren t.nid }) }

/-- One merge, collapse or removal at a split (06 R168, R169); none where nothing can be done there. The flag says that the
merged path must execute its JOIN afresh. DESIGN CHOICE (log 84): a split whose one child left waits at its JOIN merges, and a
collapse takes the child's wait over with the rest. The holds on later accesses pass to the path that goes on (04 R101 rule 6). -/
def State.settleAt (s : State) (key nid : Nat) : Option (State × Bool) :=
  let n := s.node key nid
  if n.kind != .split then none else
  let cs := s.children key nid
  let dead := cs.filter (fun c => let m := s.node key c; m.kind != .split && m.mask == 0#96)
  if !dead.isEmpty then some ((dead.foldl (fun st c => st.setNode key c {}) s).updWarp key (·.orphan dead), false)
  else if cs.isEmpty then
    some ((s.setNode key nid { n with kind := .path, mask := 0#96, wait := .none, jv := false }).nextSide key nid 64, false)
  else if cs.all (fun c => (s.node key c).kind == .path && (s.node key c).wait == .join) then
    let m := cs.foldl (fun acc c => acc ||| (s.node key c).mask) 0#96
    let s1 := cs.foldl (fun st c => (st.setNode key c {}).renamePath key c nid) s
    let late (f : Node → Nat) : Nat := cs.foldl (fun h c => max h (f (s.node key c))) (f n)
    let n1 : Node := { n with kind := .path, mask := m, wait := .none, jv := false, fragId := 0, fmask := 0#96, fs := false
                              spn := false, spc := 0, since := s.clk, pc := if n.fs then n.pc else n.pc + 4#32
                              hold := late (·.hold), stop := late (·.stop), acq := late (·.acq), fence := late (·.fence) }
    some ((s1.setNode key nid n1).updWarp key (·.dropY (nid :: cs)), n.fs)
  else match cs with
    | [c] =>
      let m := s.node key c
      if m.kind != .path then none
      else
        let n1 := { m with kind := .path, parent := n.parent, slot := n.slot, fragId := 0, fmask := 0#96 }
        let s1 := (s.setNode key c {}).setNode key nid n1
        some ((s1.renamePath key c nid).updWarp key (·.dropY [nid, c]), false)
    | _ => none

/-- Merges and collapses until none is left (06 R168, R169). A JOIN executed afresh that faults parks the warp. -/
def State.settle (s : State) (key : Nat) : Nat → State
  | 0 => s
  | fuel + 1 =>
    match (64 :: List.range 64).findSome? (fun i =>
        if i = 64 ∨ (s.node key i).slot = slotOf key then (s.settleAt key i).map (fun r => (i, r)) else none) with
    | none => s
    | some (i, s1, again) =>
      if again then
        match s1.joinPath key i with
        | some s2 => s2.settle key fuel
        | none => s1.takeTrap key i (s1.node key i).mask trapInstr
      else s1.settle key fuel

/-! ### Barrier steps (shared with the Hod and with exits) -/

/-- Fields of a barrier object image (05 R127). -/
structure Bar where
  outb : Nat
  inb : Nat
  armed : Bool
  txerr : Bool
  ovr : Bool
  expect : Nat
  pend : Nat
  gen : Nat
  resv : Bool
deriving DecidableEq, Repr

/-- The object read from its 128-bit image. -/
def Bar.ofImage (x : Nat) : Bar :=
  ⟨bitsN x 95 64, bitsN x 63 32, bitN x 30, bitN x 29, bitN x 28, bitsN x 27 16, bitsN x 15 4, bitsN x 3 0,
    bitN x 31 || bitsN x 127 96 != 0⟩

/-- The 128-bit image. -/
def Bar.image (o : Bar) : Nat :=
  fieldN o.outb 64 32 + fieldN o.inb 32 32 + fieldN (b2n o.armed) 30 1 + fieldN (b2n o.txerr) 29 1
    + fieldN (b2n o.ovr) 28 1 + fieldN o.expect 16 12 + fieldN o.pend 4 12 + fieldN o.gen 0 4

/-- Malformed objects (05 R128). -/
def Bar.malformed (o : Bar) : Bool := !o.armed || o.expect == 0 || o.resv

/-- Step kinds of 05 R130. -/
inductive BarStep where
  | arriveFinal
  | announceIn (n : Nat)
  | announceOut (n : Nat)
  | decIn (n : Nat) (err : Bool)
  | decOut (n : Nat) (err : Bool)
deriving DecidableEq, Repr

/-- Saturating addition of an announcement: the counter and whether it saturated. -/
def barAdd (c n : Nat) : Nat × Bool := if c + n > 2 ^ 32 - 1 then (2 ^ 32 - 1, true) else (c + n, false)
/-- Saturating decrement. -/
def barSub (c n : Nat) : Nat × Bool := if n > c then (0, true) else (c - n, false)

/-- The step of 05 R130, with the completion test at its end. -/
def Bar.step (o : Bar) (k : BarStep) : Bar :=
  let o1 := match k with
    | .arriveFinal => if o.pend = 0 then { o with ovr := true } else { o with pend := o.pend - 1 }
    | .announceIn n => let r := barAdd o.inb n; { o with inb := r.1, ovr := o.ovr || r.2 }
    | .announceOut n => let r := barAdd o.outb n; { o with outb := r.1, ovr := o.ovr || r.2 }
    | .decIn n e => let r := barSub o.inb n; { o with inb := r.1, ovr := o.ovr || r.2, txerr := o.txerr || e }
    | .decOut n e => let r := barSub o.outb n; { o with outb := r.1, ovr := o.ovr || r.2, txerr := o.txerr || e }
  if o1.pend = 0 ∧ o1.inb = 0 ∧ o1.outb = 0 then { o1 with gen := (o1.gen + 1) % 16, pend := o1.expect } else o1

/-- Stores an object image after an atomic step: an unchanged image wakes nothing (05 R140). -/
def Sram.storeAtomic (m : Sram) (pa n old new : Nat) : Sram :=
  if old = new then m else m.write pa n new false

/-- A barrier step at a physical address: the SRAM after it and the object found; none where the object is malformed or
poisoned (05 R128, R146). DESIGN CHOICE (log 85): of a Hod's decrement and of an exit's arrival nothing then comes. -/
def Sram.barStep (m : Sram) (pa : Nat) (k : BarStep) : Option (Bar × Sram) :=
  let r := m.readSpan pa 16
  let o := Bar.ofImage r.1
  if r.2.1 || o.malformed then none else some (o, r.2.2.storeAtomic pa 16 r.1 (o.step k).image)

/-! ### Exits -/

/-- Frees a path's Cairn entries (05 R141); `nid` none frees every path of the slot. -/
def Sram.dropWaiter (m : Sram) (key : Nat) (nid : Option Nat) : Sram :=
  { m with cairn := m.cairn.map (fun e => (e.1, e.2.filter (fun c => match c.waiter with
      | .path _ k i => !(k == key && (nid.isNone || nid == some i))
      | _ => true))) |>.filter (fun e => !e.2.isEmpty) }

/-- The waits of a warp's paths end and its monitor entries go: at a save the waiting instructions are reissued at the resume
(05 R141; 08 R219), an instruction between its two issues among them (log 86); at a deadline (`dead`) the waits end, and a drawn ticket
with them (05 R136; 11 R286). -/
def State.endWaits (s : State) (key : Nat) (dead : Bool) : State :=
  let s1 := s.setMem (s.mem.dropWaiter key none)
  (64 :: s1.entries key).foldl (fun st i => st.updNode key i (fun n =>
    let n := if dead then n else { n with step := none }
    let free : Node := { n with wait := .none, tkv := if dead then false else n.tkv }
    match n.wait with
    | .monitor _ => free
    | .await _ _ => free
    | .asking _ _ _ => free
    | .ticket _ _ _ => free
    | _ => n)) s1

/-- The clk before which a release of the warp may not issue (11 R279; 04 R102), its slot being 4 clk or more after issue. -/
def Warp.releaseAt (w : Warp) : Nat :=
  max (w.inflight.foldl max 0) (w.lastPlain + 13)

/-- Whether every texture-unit instruction and TRACE of the warp issued before a clk is complete (04 R102). -/
def Warp.jobsDone (w : Warp) (clk : Nat) : Bool :=
  w.tex.all (fun j => decide (clk ≤ j.at_)) && w.trace.all (fun j => decide (clk ≤ j.at_))

/-- Whether every memory instruction of the warp issued before a clk is complete, but for what `Warp.releaseAt` covers (04 R102, R107):
those of the texture unit, TRACE, and those between their two issues. -/
def State.jobsDone (s : State) (key clk : Nat) : Bool :=
  (match s.warp key with
  | some w => w.jobsDone clk
  | none => true)
  && (64 :: s.entries key).all (fun i => match (s.node key i).step with
    | some x => decide (clk ≤ x.at_)
    | none => true)

/-- Whether a release of the warp may issue now (11 R279; 04 R102). -/
def State.released (s : State) (key : Nat) : Bool :=
  match s.warp key with
  | some w => decide (w.releaseAt ≤ s.clk) && s.jobsDone key s.clk
  | none => true

/-- Arrivals that an exit completes (05 R132): records whose mask covers every lane left perform ARRIVE_FINAL, as releases, which
`State.doFinals` sends on their way. -/
def State.exitArrivals (s : State) (key : Nat) : State :=
  match s.warp key with
  | none => s
  | some w =>
    let left := s.liveLanes key
    let full := w.arrive.filter (fun r => left &&& ~~~r.mask == 0#96)
    (s.setWarp key (some { w with arrive := w.arrive.filter (fun r => left &&& ~~~r.mask != 0#96)
                                  finals := w.finals ++ full.map (·.addr) }))

/-- An address of context `c` as an engine reaches it in S-space. -/
def State.ctxPa (s : State) (c va need : Nat) : Option Nat :=
  match (s.ctx c).xlateS va need with
  | .ok pa => some pa
  | .error _ => none

/-- Writes `STATE` of a task control block in one atomic step (06 R177, 16 R435). -/
def State.setTaskState (s : State) (ctx tcb st : Nat) : State :=
  match s.ctxPa ctx (tcb + 32) needR with
  | none => s
  | some pa =>
    let r := s.mem.readSpan pa 16
    let new := r.1 - fieldN (bitsN r.1 57 55) 55 3 + fieldN st 55 3
    s.setMem (r.2.2.storeAtomic pa 16 r.1 new)

/-- A completed task decrements one successor's `DEPS` (06 R177): the state, and whether the successor was skipped. A
successor that becomes QUEUED enters the queue of its own spawner's launch (R174). -/
def State.decDeps (s : State) (ctx addr : Nat) : State × Bool :=
  match s.ctxPa ctx (addr + 32) needRWAT with
  | none => (s, true)
  | some pa =>
    let r := s.mem.readSpan pa 16
    let s0 := s.setMem r.2.2
    if r.2.1 then (s0, true) else
    let o := r.1
    let deps := bitsN o 73 58
    let stt := bitsN o 57 55
    if deps = 0 then (s0.setMem (s0.mem.storeAtomic pa 16 o (o - fieldN (bitsN o 51 51) 51 1 + fieldN 1 51 1)), false)
    else
      let queued := deps == 1 && stt == 1
      let o1 := o - fieldN deps 58 16 + fieldN (deps - 1) 58 16
      let o2 := if queued then o1 - fieldN stt 55 3 + fieldN 2 55 3 else o1
      let s1 := s0.setMem (s0.mem.storeAtomic pa 16 o o2)
      if queued then
        match s1.waitTasks.find? (fun x => x.ctx == ctx && x.addr == addr) with
        | some x => ({ s1 with taskQ := s1.taskQ ++ [x], waitTasks := s1.waitTasks.filter (· != x) }, false)
        | none => (s1, false)
      else (s1, false)

/-- A task's warp has exited (06 R177): DONE, then the successors in order; a skipped one marks the launch failed. DESIGN CHOICE (log 124):
of a block that reads poisoned no successor is known, and the launch has failed. -/
def State.taskDone (s : State) (launch ctx tcb : Nat) : State :=
  let s1 := s.setTaskState ctx tcb 4
  match s1.ctxPa ctx tcb needR with
  | none => s1
  | some pa =>
    let r := s1.mem.readSpan pa 64
    let img := r.1
    let fails (st : State) : State := match st.launch launch with
      | some l => st.setLaunch launch (some { l with failed := true })
      | none => st
    if r.2.1 then fails (s1.setMem r.2.2) else
    let succ := (if bitN img 330 then [bitsN img 356 331 * 64] else [])
      ++ (if bitN img 357 then [bitsN img 383 358 * 64] else [])
    succ.foldl (fun st a =>
      let d := st.decDeps ctx a
      if d.2 then fails d.1 else d.1) (s1.setMem r.2.2)

/-- The end of a team all of whose accesses are done (04 R109): a task is DONE, the launch has one team less. -/
def State.teamEnd (s : State) (tk : Nat) : State :=
  match s.team tk with
  | none => s
  | some t =>
    let s2 := match t.tcb with
      | some a => s.taskDone t.launch t.ctx a
      | none => s
    match s2.launch t.launch with
    | some l => s2.setLaunch t.launch (some { l with live := l.live - 1 })
    | none => s2

/-- The warp exits when no lane and no fragment is left (06 R169, R173; 08 R224): it issues no more and its slot is freed by
WARP_RELEASE, which ends the team with its last warp. -/
def State.warpExit (s : State) (key : Nat) : State :=
  match s.warp key with
  | none => s
  | some w =>
    if w.status == .exited || s.liveLanes key ≠ 0#96 then s else
    let s1 := (s.setWarp key (some { w with status := .exited, arrive := [], ic := 0, park := none })).setMem
      (s.mem.dropWaiter key none)
    match s1.team w.team with
    | none => s1
    | some t =>
      s1.setTeam w.team (some { t with left := t.left - 1, status := if t.left ≤ 1 then .ended else t.status })

/-- Lanes leave every mask of the warp's tree (08 R224), and what follows from it: serial sides end, arrivals complete,
splits merge or collapse, the warp may exit. -/
def State.exitLanes (s : State) (key nid : Nat) (m : LaneMask) : State :=
  if m = 0#96 then s else
  let s1 := (64 :: s.entries key).foldl (fun st i => st.updNode key i (fun n => { n with mask := n.mask &&& ~~~m })) s
  let s2 := s1.updWarp key (fun w => { w with
    serial := w.serial.map (fun r => { r with waiting := r.waiting &&& ~~~m,
                                              sides := r.sides.map (fun d => { d with mask := d.mask &&& ~~~m }) }) })
  let s3 := if (s2.node key nid).mask = 0#96 && (s2.node key nid).kind != .split then s2.nextSide key nid 64 else s2
  let s4 := s3.exitArrivals key
  (s4.settle key 200).warpExit key

end Sys2Proof.Machine
end

