-- ==== Sys2Proof/Machine/Mesh.lean ====
section
/-! DEFINITION. The mesh (02 R39-R56): the latency rule, routes, reservations, and what an access in flight does at its bank slot. -/
namespace Sys2Proof.Machine

/-! ### Clocks -/

/-- Arithmetic clk of a cluster in `n` mesh clk from `clk`: the low rail runs at two thirds (17 R447). DESIGN CHOICE (log 107): on the low
rail the mesh clk divisible by three carry none. -/
def arithClk (rail clk n : Nat) : Nat := if rail = 0 then n else (clk + n) * 2 / 3 - clk * 2 / 3

/-- The mesh clk that pass from `clk` until `n` arithmetic clk have passed (02 R45). -/
def meshAfter (rail clk n : Nat) : Nat := if rail = 0 then n else (3 * (n + (clk + 1) * 2 / 3) - 1) / 2 - clk

/-- Whether a cluster has an arithmetic clk in a mesh clk (17 R447). -/
def arithTick (rail clk : Nat) : Bool := arithClk rail clk 1 == 1

/-- The rail of a core's cluster. -/
def State.railOf (s : State) (core : Nat) : Nat := (s.cluster (clusterOf core)).rail

/-- The mesh clk `n` arithmetic clk of a core from another, at the rail in force (02 R45). -/
def State.coreClkFrom (s : State) (clk core n : Nat) : Nat := clk + meshAfter (s.railOf core) clk n

/-- The mesh clk `n` arithmetic clk of a core from now. -/
def State.coreClk (s : State) (core n : Nat) : Nat := s.coreClkFrom s.clk core n

/-! ### Latency -/

/-- Bank of a granule (02 R40): slice and bank as one number. -/
def bankOf (g : Nat) : Nat := granSlice g * 64 + g % 64

/-- The b of 02 R46 for one bank: accesses per beat in beat order. -/
def bankB : List Nat → Nat → Nat → Nat → Nat
  | [], _, _, b => b
  | a :: t, j, free, b =>
    if a = 0 then bankB t (j + 1) free b
    else
      let fr := max free j + a
      bankB t (j + 1) fr (max b (fr - j))

/-- Accesses of a beat to a bank: (beat, granule); an atomic lane operation counts twice and is never shared (02 R46, R47). -/
def countIn (accs : List (Nat × Nat)) (beat bank : Nat) : Nat :=
  (accs.filter (fun a => a.1 == beat && bankOf a.2 == bank)).length

/-- h and b of 02 R46 for a list of accesses. -/
def latencyHB (core nbeats : Nat) (accs : List (Nat × Nat)) : Nat × Nat :=
  let banks := (accs.map (fun a => bankOf a.2)).eraseDups
  let h := accs.foldl (fun m a => max m (hops core (granSlice a.2))) 0
  let b := banks.foldl (fun m k => max m (bankB ((List.range nbeats).map (fun j => countIn accs j k)) 0 0 0)) 0
  (h, b)

/-- L of 02 R46; an instruction that reaches no slice completes in the clk after issue. -/
def latencyL (core nbeats : Nat) (accs : List (Nat × Nat)) : Nat :=
  if accs.isEmpty then 1 else
  let hb := latencyHB core nbeats accs
  10 + 4 * hb.1 + hb.2

/-- The mesh clk in which a beat of an instruction that issues now starts (02 R45). -/
def State.beatStart (s : State) (core j : Nat) : Nat := s.coreClk core j

/-- Where each access of a transfer whose beat `j` starts in `start j` is served (02 R46, R49): beat, granule and bank slot. -/
def slotsFrom (start : Nat → Nat) (core : Nat) (accs : List (Nat × Nat)) : List (Nat × Nat × Nat) :=
  let h := accs.foldl (fun m a => max m (hops core (granSlice a.2))) 0
  (accs.foldl (fun (st : Sparse Nat × List (Nat × Nat × Nat)) a =>
    let k := max (sget 0 st.1 (bankOf a.2)) a.1
    (sput 0 st.1 (bankOf a.2) (k + 1), st.2 ++ [(a.1, a.2, start a.1 + 4 + 2 * h + (k - a.1))])) ([], [])).2

/-- The bank slots of an instruction that issues now (02 R45, R46), in issue order. -/
def State.accessSlots (s : State) (core : Nat) (accs : List (Nat × Nat)) : List (Nat × Nat × Nat) :=
  slotsFrom (s.beatStart core) core accs

/-- The bank slot of a single access to a granule that a core issues in a clk (02 R46). -/
def State.slotAt (s : State) (from_ core g : Nat) : Nat := s.coreClkFrom from_ core 0 + 4 + 2 * hops core (granSlice g)

/-- Distinct granules that each beat touches (02 R46). -/
def beatAccs (per : Nat) (ls : List (Nat × Nat)) : List (Nat × Nat) :=
  (ls.map (fun x => (x.1 / per, granOf x.2))).eraseDups

/-! ### Routes and reservations -/

/-- A link from a router in a direction: 0 east, 1 west, 2 south, 3 north (02 R50). -/
def linkId (router dir : Nat) : Nat := 1024 + router * 4 + dir

/-- The links of the dimension-ordered route from a core to a slice (02 R50): the request's link, the response's, and the distance
at which the route reaches it. -/
def routeLinks (a b : Nat) : List (Nat × Nat × Nat) :=
  let xa := a % 16
  let ya := a / 16
  let xb := b % 16
  let yb := b / 16
  let nx := max xa xb - min xa xb
  let ny := max ya yb - min ya yb
  ((List.range nx).map (fun i =>
    if xa < xb then (linkId (ya * 16 + xa + i) 0, linkId (ya * 16 + xa + i + 1) 1, i)
    else (linkId (ya * 16 + xa - i) 1, linkId (ya * 16 + xa - i - 1) 0, i)))
  ++ (List.range ny).map (fun i =>
    if ya < yb then (linkId ((ya + i) * 16 + xb) 2, linkId ((ya + i + 1) * 16 + xb) 3, nx + i)
    else (linkId ((ya - i) * 16 + xb) 3, linkId ((ya - i - 1) * 16 + xb) 2, nx + i))

/-- The union of the routes of a beat (02 R50): request link, response link, distance. -/
def routeTree (core : Nat) (slices : List Nat) : List (Nat × Nat × Nat) :=
  (slices.foldl (fun (m : Sparse (Nat × Nat)) sl => (routeLinks core sl).foldl (fun m x => sput (0, 0) m x.1 x.2) m) []).map
    (fun e => (e.1, e.2))

/-- Capacity of a resource per mesh clk (02 R51): issue sides (outward 0, inward 192) and slice sides (inward 384, outward 576) of
the core stops; links; banks from 4,096. -/
def capOf (res : Nat) : Nat := if res < 768 then 4 else 1

/-- What a beat that starts in `start` reserves, but for its bank slots (02 R49, R51): clk and resource. -/
def beatResources (core start h b : Nat) (slices : List Nat) : List (Nat × Nat) :=
  [(start + 3, core), (start + 6 + 4 * h + b, 192 + core)]
  ++ slices.flatMap (fun t =>
    let hi := hops core t
    [(start + 3 + 2 * hi, 384 + t), (start + 6 + 4 * h + b - 2 * hi, 576 + t)])
  ++ (routeTree core slices).flatMap (fun l =>
    [(start + 3 + 2 * l.2.2, l.1), (start + 6 + 4 * h + b - 2 * (l.2.2 + 1), l.2.1)])

/-- Everything a transfer reserves (02 R51, R56). -/
def resourcesFrom (start : Nat → Nat) (core nbeats : Nat) (accs : List (Nat × Nat)) : List (Nat × Nat) :=
  if accs.isEmpty then [] else
  let hb := latencyHB core nbeats accs
  ((List.range nbeats).flatMap (fun j =>
    let sl := ((accs.filter (fun a => a.1 == j)).map (fun a => granSlice a.2)).eraseDups
    if sl.isEmpty then [] else beatResources core (start j) hb.1 hb.2 sl))
  ++ (slotsFrom start core accs).map (fun a => (a.2.2, 4096 + bankOf a.2.1))

/-- The place of a resource's clk in the calendars. -/
def calKey (clk res : Nat) : Nat := clk * 32768 + res

/-- Reservations are entered in the calendars. -/
def calAdd (cal : Sparse Nat) (rs : List (Nat × Nat)) : Sparse Nat :=
  rs.foldl (fun c r => supd 0 c (calKey r.1 r.2) (· + 1)) cal

/-- The resources that calendars hold beyond their capacity (02 R51, R53). -/
def calOver (cal : Sparse Nat) : List Nat :=
  (cal.filter (fun e => decide (capOf (e.1 % 32768) < e.2))).map (fun e => e.1 % 32768)

/-- A transfer's reservations are made (02 R51, R56, R65), and whatever else it holds in `more`. -/
def State.reserveFrom (s : State) (start : Nat → Nat) (core nbeats : Nat) (key : Option Nat) (accs : List (Nat × Nat))
    (more : List (Nat × Nat) := []) : State :=
  { s with cal := calAdd s.cal (resourcesFrom start core nbeats accs ++ more),
           slotsHeld := s.slotsHeld ++ (slotsFrom start core accs).map (fun a =>
             ⟨a.2.1, a.2.2, granSlice a.2.1 == core, key, s.clk⟩) }

/-- The place of a sub-core among the attempts of a clk (02 R54). -/
def phaseKey (clk key : Nat) : Nat :=
  let ph := clk % 16
  ((coreOf key + 192 - 12 * ph) % 192) * 16 + (subOf key + 16 - ph) % 16

/-- When an urgent warp's hold began and its key (02 R54): the urgent attempt whose pair is the lesser one is the earlier. -/
def State.urgentRank (s : State) (key : Nat) (w : Warp) : Nat × Nat := (w.heldAt.getD s.clk, phaseKey s.clk key)

/-- Whether an attempt comes after that of an urgent warp of another slot: any attempt but an earlier urgent one (02 R54, R55). -/
def State.laterThan (s : State) (key : Option Nat) (k : Nat) (u : Warp) : Bool :=
  match key with
  | none => true
  | some x => x != k && (match s.warp x with
    | some w =>
      let a := s.urgentRank x w
      let b := s.urgentRank k u
      !(w.urgent && (decide (a.1 < b.1) || (a.1 == b.1 && decide (a.2 < b.2))))
    | none => true)

/-- The resources that an attempt may not take, since an urgent attempt before it waits for them (02 R55). -/
def State.wanted (s : State) (key : Option Nat) : List Nat :=
  s.warps.flatMap (fun x => match x.2 with
    | some w => if !w.want.isEmpty && s.laterThan key x.1 w then w.want else []
    | none => [])

/-- Whether bank slots keep the order of a warp's accesses (02 R52): none precedes a slot at its bank that an instruction of the warp
that reserved by the clk `at_` holds. -/
def State.inOrder (s : State) (key at_ : Nat) (new : List (Nat × Nat)) : Bool :=
  s.slotsHeld.all (fun o => o.key != some key || decide (at_ < o.at_)
    || new.all (fun n => bankOf o.gran != bankOf n.1 || decide (o.slot ≤ n.2)))

/-- Whether a transfer's reservations would succeed now (02 R51-R53, R55); of a warp's, `at_` is the clk of its instruction. -/
def State.clear (s : State) (key : Option Nat) (at_ : Nat) (start : Nat → Nat) (core nbeats : Nat) (accs : List (Nat × Nat))
    (more : List (Nat × Nat) := []) : Bool :=
  let rs := resourcesFrom start core nbeats accs ++ more
  (calOver (calAdd s.cal rs)).isEmpty && rs.all (fun r => !(s.wanted key).contains r.2)
    && (match key with
      | some k => s.inOrder k at_ ((slotsFrom start core accs).map (·.2))
      | none => true)

/-- A memory instruction issues: its latency record (02 R64; `first` is false for a further access of the same instruction), its
write-back time (R45, R48), its reservations. -/
def State.noteAccess (s : State) (key nbeats : Nat) (accs : List (Nat × Nat)) (first : Bool := true) : State :=
  let core := coreOf key
  let L := latencyL core nbeats accs
  let s1 := s.updWarp key (fun w => { w with
    lsum := if first then satAdd w.lsum L 64 else w.lsum, nmem := if first then satAdd w.nmem 1 64 else w.nmem,
    lmax := if first then min (max w.lmax L) 65535 else w.lmax,
    inflight := (w.inflight.filter (fun t => decide (s.clk < t))) ++ [s.coreClk core (nbeats - 1 + L)] })
  s1.reserveFrom (s.coreClk core) core nbeats (some key) accs

/-- Whether an instruction that issued from `s` and left `t` kept to its reservations (02 R51-R53, R55): no calendar holds more than
its capacity, no bank slot of the warp precedes one it already holds at that bank, and no resource an urgent attempt of another
warp waits for is taken. -/
def State.fits (s t : State) (key : Nat) : Bool :=
  let new := t.slotsHeld.drop s.slotsHeld.length
  let wants := s.wanted (some key)
  t.cal == s.cal ||
    ((calOver t.cal).isEmpty
      && s.inOrder key s.clk (new.map (fun n => (n.gran, n.slot)))
      && (wants.isEmpty || t.cal.all (fun e => decide (e.2 ≤ sget 0 s.cal e.1) || !wants.contains (e.1 % 32768))))

/-! ### Bank slots -/

/-- A plain store is remembered from its reservation for the race rule (02 R44); those that can no longer matter are dropped. -/
def Sram.notePlain (m : Sram) (clk g agent slot : Nat) : Sram :=
  { m with plain := (m.plain.filter (fun p => decide (clk ≤ p.slot + 32))) ++ [⟨g, agent, slot⟩] }

/-- Whether a plain load of an agent served at `slot` meets a plain store of another within 16 clk (02 R44). -/
def Sram.races (m : Sram) (g agent slot : Nat) : Bool :=
  m.plain.any (fun p => p.gran == g && p.agent != agent && decide (p.slot ≤ slot + 16 ∧ slot ≤ p.slot + 16))

/-- A bank read by a plain load of an agent at a slot (02 R42, R44): whether it delivers poison, and the SRAM after it. -/
def Sram.plainRead (m : Sram) (agent g slot : Nat) : Bool × Sram :=
  let r := m.readGran g
  let race := r.2.races g agent slot
  (r.1 || race, if race then r.2.updCtr (granSlice g) (fun c => { c with racep := satAdd c.racep 1 32 }) else r.2)

/-- One store access to a bank word (02 R42; 04 R99): its lanes' bytes in ascending order; an access that covers the whole word
leaves the poison its data carries. -/
def Sram.storeWord (m : Sram) (g : Nat) (parts : List AccPart) : Sram :=
  let full := (List.range 32).all (fun b => parts.any (fun p => decide (p.pa ≤ 32 * g + b ∧ 32 * g + b < p.pa + p.n)))
  let bad := parts.any (·.psn)
  let m1 := (if full then { m with ueLat := sput false m.ueLat g false } else m.check g).rewritten g
  let m2 := if full || bad then m1.setPsn g bad else m1
  ({ m2 with bytes := parts.foldl (fun b p => memWrite b p.pa p.n p.x) m2.bytes } : Sram).wakeWord g

/-- The new value of an atomic lane operation (05 R143): operation, old value, data, compare value. -/
def atomicNew (op o d cmp : Nat) : Nat :=
  let so := sextN o 32
  let sd := sextN d 32
  match op with
  | 0 => (o + d) % 2 ^ 32
  | 1 => if so ≤ sd then o else d
  | 2 => if so ≤ sd then d else o
  | 3 => min o d
  | 4 => max o d
  | 5 => o &&& d
  | 6 => o ||| d
  | 7 => o ^^^ d
  | 8 => d
  | 9 => if o = cmp then d else o
  | 10 => fadd32 o d
  | 11 => fadd16 fp16 (o % 2 ^ 16) (d % 2 ^ 16) + 2 ^ 16 * fadd16 fp16 (o / 2 ^ 16) (d / 2 ^ 16)
  | 12 => fminmax32 false o d
  | 13 => fminmax32 true o d
  | 14 => if o ≥ d then 0 else o + 1
  | _ => if o = 0 ∨ o > d then d else o - 1

/-- One atomic lane operation at a physical address (05 R143, R146): the old value with its poison, and the SRAM. -/
def Sram.atomic (m : Sram) (pa op d cmp : Nat) : Val × Sram :=
  let r := m.readSpan pa 4
  if r.2.1 then (⟨BitVec.ofNat 32 r.1, true⟩, r.2.2)
  else (⟨BitVec.ofNat 32 r.1, false⟩, r.2.2.storeAtomic pa 4 r.1 (atomicNew op r.1 d cmp))

/-- The 64-bit addition of HGS.EXACT at a word (13 R352, 05 R146). -/
def Sram.addQ (m : Sram) (pa x : Nat) : Sram :=
  let r := m.readSpan pa 8
  if r.2.1 then r.2.2 else r.2.2.storeAtomic pa 8 r.1 ((r.1 + x) % 2 ^ 64)

/-- A bank access takes effect (02 R42, R44, R48; 04 R95; 05 R143): the access with what its lanes found, and the SRAM. An atomic operation
whose data is poisoned, as an Ashlar may send it, only marks its granule (12 R336). A step on an object is `State.serveStep`'s. -/
def Sram.serve (m : Sram) (agent : Nat) (op : AccOp) (a : BankAcc) : BankAcc × Sram :=
  match op with
  | .load plain =>
    let r := if plain then m.plainRead agent a.gran a.slot else m.readGran a.gran
    let found := !plain && sget false m.ueLat a.gran
    ({ a with served := true, parts := a.parts.map (fun p => { p with
        got := memRead r.2.bytes p.pa p.n, psn := r.1, tag := if found then 14 else p.tag }) }, r.2)
  | .store => ({ a with served := true }, m.storeWord a.gran a.parts)
  | .atomic k =>
    let r := a.parts.foldl (fun (st : List AccPart × Sram) p =>
      let q := if p.psn then ((⟨0#32, true⟩ : Val), st.2.setPsn (granOf p.pa) true) else st.2.atomic p.pa k p.x p.cmp
      (st.1 ++ [{ p with got := q.1.bits.toNat, psn := q.1.psn }], q.2)) ([], m)
    ({ a with served := true, parts := r.1 }, r.2)
  | .addQ => ({ a with served := true }, a.parts.foldl (fun m p => m.addQ p.pa p.x) m)
  | .step _ => ({ a with served := true }, m)

/-! ### Instructions in flight -/

/-- The accesses of a transfer with their bank slots (02 R46): `parts` are its lanes by beat; lanes of a beat on one bank word
share an access. -/
def bankAccs (slots : List (Nat × Nat × Nat)) (parts : List (Nat × AccPart)) : List BankAcc :=
  slots.map (fun a =>
    { beat := a.1, gran := a.2.1, slot := a.2.2
      parts := (parts.filter (fun p => p.1 == a.1 && granOf p.2.pa == a.2.1)).map (·.2) })

/-- The accesses of atomic lane operations, two slots each, served at the first (02 R47; 04 R95). -/
def atomicAccs (sl : List (Nat × Nat × Nat)) (parts : List (Nat × AccPart)) : List BankAcc :=
  (parts.zip (List.range parts.length)).map (fun p =>
    let a := sl.getD (2 * p.2) (0, 0, 0)
    { beat := p.1.1, gran := granOf p.1.2.pa, slot := a.2.2, parts := [p.1.2] })

/-- An instruction of a warp is in flight from now on; one without results has nothing to write back. -/
def State.fly (s : State) (key : Nat) (w : Warp) (op : AccOp) (dst : FlightDst) (m : LaneMask) (nbeats L : Nat) (accs : List BankAcc) :
    State :=
  { s with flights := s.flights ++ [⟨key, warpAgent w, op, dst, m, accs,
      if dst = .none then [] else (List.range nbeats).map (fun j => (j, s.coreClk (coreOf key) (j + L)))⟩] }

/-- The words of a value read from memory, as register values with one poison bit. -/
def wordsOf (n x : Nat) (psn : Bool) : List Val :=
  (List.range n).map (fun k => ⟨BitVec.ofNat 32 (x / 2 ^ (32 * k)), psn⟩)

/-- Registers written from the parts of a beat (02 R48). -/
def Warp.deliver (w : Warp) (dst : FlightDst) (ps : List AccPart) : Warp :=
  match dst with
  | .lanes pos num => ps.foldl (fun (a : Warp) p =>
      ((wordsOf num p.got p.psn).zip (List.range num)).foldl (fun (b : Warp) x => b.setVAt (pos + x.2) p.lane x.1) a) w
  | .uni i num => ps.foldl (fun (a : Warp) p =>
      ((wordsOf num p.got p.psn).zip (List.range num)).foldl (fun (b : Warp) x => b.setS (i + x.2) x.1) a) w
  | _ => w

/-- Whether a flight will still write a register that a path names by code `code` under window base `wb` (02 R48). -/
def Flight.covers (f : Flight) (wb code : Nat) (m : LaneMask) : Bool :=
  match f.dst with
  | .lanes pos num => decide (code < 64 ∧ pos ≤ wb + code ∧ wb + code < pos + num) && (f.lanes &&& m) != 0#96
  | .uni i num => decide (64 ≤ code ∧ code < 96 ∧ i ≤ code - 64 ∧ code - 64 < i + num)
  | _ => false

end Sys2Proof.Machine
end

