-- ==== Sys2Proof/Machine/Operands.lean ====
section
/-! DEFINITION. Operand codes, guards, latches, destinations, and how an instruction of a path completes
(07 R180-R191, R193, R194; 09 R247, R248). -/
namespace Sys2Proof.Machine

/-- What an instruction sees of its issuer: slot, path, the warp and node at issue, the literal word, the active lanes. -/
structure Ctx where
  key : Nat
  nid : Nat
  w : Warp
  p : Node
  lit : Word
  act : LaneMask

/-- Lanes of a path that pass its guard (07 R184). -/
def guardMask (w : Warp) (p : Node) : LaneMask :=
  let m := p.mode.toNat
  let g := w.pAt (bitsN m 2 0)
  p.mask &&& (if bitN m 3 then ~~~g else g)

/-- An instruction whose lane faults found no belay entries has no effect but the park, since a retry executes it afresh for the
whole path (16 R434). `s` is the state before its body and `t` the state after. -/
def State.orExhausted (s t : State) (key nid : Nat) (act : LaneMask) : State :=
  match s.warp key, t.warp key with
  | some w, some v =>
    if w.park.isNone && decide (v.park.map (·.1) = some 19) then s.takeLaneFaults key nid act v.detail (s.node key nid).pc else t
  | _, _ => t

/-- Runs an instruction of the issuing path. Before it, the latches are invalid when the warp's previous instruction came
from another path (07 R188). `guarded` is false for the instructions that act on every lane of the path (07 R184). A trap
takes its fault; the instruction then has no other effect (07 R194) but the reads it made before (02 R42, R44). -/
def issuing (s : State) (guarded : Bool) (body : Ctx → State → Except Trap State) : Host.Outcome State Fault Refusal :=
  match s.cur with
  | none => .fault .noIssuer
  | some i =>
    match s.warp i.key with
    | none => .fault .noIssuer
    | some w0 =>
      let w := if w0.lastPath = i.nid then w0 else { w0 with lastPath := i.nid, yv := 0 }
      let s1 := s.setWarp i.key (some w)
      let p := s1.node i.key i.nid
      let act := if guarded then guardMask w p else p.mask
      match body ⟨i.key, i.nid, w, p, i.lit, act⟩ s1 with
      | .ok s2 => .next (s1.orExhausted s2 i.key i.nid act)
      | .error t => .next (s1.takeTrap i.key i.nid act t)

/-- Whether any lane is active. -/
def Ctx.any (c : Ctx) : Bool := c.act != 0#96

/-- The lowest-numbered active lane. -/
def Ctx.low (c : Ctx) : Nat := (lanesOf c.act).headD 0

/-- Address of the next instruction: 8 on when an operand names the literal word (07 R179). -/
def Ctx.npc (c : Ctx) (codes : List Nat) : Word := c.p.pc + (if codes.contains 100 then 8#32 else 4#32)

/-- The FP32 pattern of a constant code (07 R180), and whether it is a floating constant (R181). -/
def constPat (code : Nat) : Nat × Bool :=
  match code with
  | 103 => (0, false)
  | 104 => (1, false)
  | 105 => (0xffffffff, false)
  | 106 => (0x3f800000, true)
  | 107 => (0x3f000000, true)
  | 108 => (0x40000000, true)
  | 109 => (0xbf800000, true)
  | 110 => (0x7f800000, true)
  | 111 => (0x7fffffff, false)
  | 112 => (0x80000000, false)
  | 113 => (0x3fb8aa3b, true)
  | 114 => (0x3f317218, true)
  | 115 => (0x40490fdb, true)
  | _ => (0, false)

/-- A constant under the element type in force (07 R181; log 14: +∞ lies beyond every
packed format's range). -/
def constBits (et code : Nat) : Nat :=
  let k := constPat code
  let t := ety et
  match t.fmt with
  | some f =>
    if k.2 && f != fp32 then
      let x := fp32.decode k.1
      let e := match x with
        | .inf neg => f.sgn neg + f.maxEnc
        | y =>
          let r := roundFp f plainMode 0 y
          if r.2 &&& flOF ≠ 0 then f.maxEnc else r.1
      packN t (List.replicate t.n e)
    else k.1
  | none => k.1

/-- `opnd` and `psn` of 07 R199: an operand's value and poison in a lane. -/
def Ctx.opnd (c : Ctx) (code lane : Nat) : Val :=
  if code < 64 then c.w.vAt (c.p.wb + code) lane
  else if code < 96 then c.w.sAt (code - 64)
  else if code < 100 then c.w.yAt (code - 96) lane
  else if code = 100 then ⟨c.lit, false⟩
  else if code = 101 then ⟨BitVec.ofNat 32 lane, false⟩
  else if code = 102 then ⟨BitVec.ofNat 32 (c.w.warpId * c.w.width + lane), false⟩
  else ⟨BitVec.ofNat 32 (constBits (etOf c.p.mode) code), false⟩

/-- `opnd_u` of 07 R199. -/
def Ctx.opndU (c : Ctx) (code : Nat) : Val := c.opnd code 0

/-- A source operand: a known code, and a valid latch (07 R180, R188; checks 5 and 7 of R194). -/
def Ctx.srcOk (c : Ctx) (code : Nat) : Bool :=
  decide (code ≤ 115) && (!decide (96 ≤ code ∧ code ≤ 99) || bitN c.w.yv (code - 96))

/-- A source of an instruction that may name no latch (07 R182). -/
def srcNoLatch (code : Nat) : Bool := decide (code ≤ 115) && !decide (96 ≤ code ∧ code ≤ 99)

/-- A uniform value: an s-register, a constant or the literal word (11 R274). -/
def uniOk (code : Nat) : Bool := decide (64 ≤ code ∧ code ≤ 95) || code == 100 || decide (103 ≤ code ∧ code ≤ 115)

/-- A source of an instruction on the uniform unit (07 R182; 06 R162). -/
def uniSrcOk (code : Nat) : Bool := uniOk code

/-- An s-register code. -/
def isS (code : Nat) : Bool := decide (64 ≤ code ∧ code ≤ 95)

/-- An address operand: an even register of v0-v62 or s0-s30 (11 R273). -/
def addrOk (code : Nat) : Bool := code % 2 == 0 && decide (code ≤ 95)

/-- A uniform address: an s-register pair (11 R273). -/
def uaddrOk (code : Nat) : Bool := code % 2 == 0 && isS code

/-- The DVA an address operand supplies in a lane, and whether it is poisoned (11 R273). -/
def Ctx.addr (c : Ctx) (code lane : Nat) : Nat × Bool :=
  let lo := c.opnd code lane
  let hi := c.opnd (code + 1) lane
  (lo.bits.toNat + 2 ^ 32 * hi.bits.toNat, lo.psn || hi.psn)

/-- How an instruction leaves the latches (07 R187, R188). -/
inductive LatchFx where
  | keep
  | kill
  /-- Shift, with the new y1 of each lane of the path. -/
  | shift (vals : List (Nat × Val))
deriving Repr

/-- The latch file shifted in the lanes given (07 R187). -/
def shiftLatches (y : Sparse Val) (vals : List (Nat × Val)) : Sparse Val :=
  vals.foldl (fun y x => sput {} (sput {} (sput {} (sput {} y (384 + x.1) (sget {} y (256 + x.1))) (256 + x.1)
    (sget {} y (128 + x.1))) (128 + x.1) (sget {} y x.1)) x.1 x.2) y

/-- A result not readable yet in the lanes outside a mask, if any is left. -/
def Busy.without (e : Busy) (m : LaneMask) : List Busy :=
  if e.lanes &&& ~~~m = 0#96 then [] else [{ e with lanes := e.lanes &&& ~~~m }]
/-- The same in the lanes of a mask, for another register. -/
def Busy.within (e : Busy) (m : LaneMask) (reg : Nat) : List Busy :=
  if e.lanes &&& m = 0#96 then [] else [{ e with reg := reg, lanes := e.lanes &&& m }]

/-- The readiness of the latches moves with them in the lanes of a mask (07 R195): y1 to y4 stand at 65,632 to 65,635. -/
def shiftBusy (b : List Busy) (m : LaneMask) : List Busy :=
  b.flatMap (fun e =>
    if e.reg < 65632 ∨ 65635 < e.reg then [e] else e.without m ++ (if e.reg = 65635 then [] else e.within m (e.reg + 1)))

/-- The latches after an instruction. -/
def Warp.latched (w : Warp) : LatchFx → Warp
  | .keep => w
  | .kill => { w with yv := 0 }
  | .shift vals => { w with y := shiftLatches w.y vals, yv := (w.yv * 2 + 1) % 16, busy := shiftBusy w.busy (maskOf (vals.map (·.1))) }

/-- Adds one to the completion count of every lane of a mask (09 R247). -/
def bumpCounts (cnt : List Nat) (m : LaneMask) : List Nat :=
  (List.range 96).map (fun l => let x := cnt.getD l 0; if m.getLsbD l then (x + 1) % 2 ^ 32 else x)

/-- Completion counts after an instruction that completes in the lanes of `done` (09 R247). -/
def countsAfter (cnt : List Nat) (done : LaneMask) : List Nat := if done = 0#96 then cnt else bumpCounts cnt done

/-- A warp with other completion counts. -/
def Warp.withCnt (w : Warp) (cnt : List Nat) : Warp := { w with cnt := cnt }

/-- A warp with sticky flags added (09 R248). -/
def Warp.flagged (w : Warp) (axf : Nat) : Warp := { w with axf := w.axf ||| axf }

/-- A warp after an instruction that completes in the lanes of `done`: completion counts, sticky flags, latches (09 R247,
R248; 07 R187). -/
def Warp.completed (w : Warp) (done : LaneMask) (axf : Nat) (lt : LatchFx) : Warp :=
  ((w.withCnt (countsAfter w.cnt done)).flagged axf).latched lt

/-- How an instruction of a path ends: completion counts, sticky flags, latches, and then the next instruction, or the
fragment of the lanes that faulted (09 R247, R248; 07 R187, R188; 16 R420). -/
def State.finish (s : State) (c : Ctx) (npc : Word) (lt : LatchFx) (fs : List LaneFault := []) (axf : Nat := 0) : State :=
  let fm := maskOf (fs.map (·.lane))
  let done := if fs.isEmpty then c.p.mask else if fm = c.act then 0#96 else c.p.mask &&& ~~~fm
  let s1 := s.updWarp c.key (fun w => w.completed done axf lt)
  if fs.isEmpty then s1.updNode c.key c.nid (fun n => { n with pc := npc, since := s.clk })
  else s1.takeLaneFaults c.key c.nid c.act fs npc

/-- Writes lane results to a v-register of the path's window. -/
def Warp.writeV (w : Warp) (wb d : Nat) (rs : List (Nat × Val)) : Warp :=
  { w with v := rs.foldl (fun v x => sput {} v ((wb + d) * 128 + x.1) x.2) w.v }

/-- Ends a lane instruction with a v-register or y destination: results to the active lanes, then R187. -/
def State.laneResult (s : State) (c : Ctx) (npc : Word) (n d : Nat) (rs : List (Nat × Val))
    (fs : List LaneFault := []) (axf : Nat := 0) : State :=
  if n = 1 then
    let y1 := (lanesOf c.p.mask).map (fun l => (l, ((rs.find? (fun r => r.1 == l)).map (·.2)).getD {}))
    s.finish c npc (.shift y1) fs axf
  else
    let s1 := s.updWarp c.key (fun w => w.writeV c.p.wb d rs)
    let w1 := (s1.warp c.key).getD c.w
    let y1 := (lanesOf c.p.mask).map (fun l => (l, w1.vAt (c.p.wb + d) l))
    s1.finish c npc (.shift y1) fs axf

/-- Ends an instruction with an s-register destination: written once, latches unchanged (07 R187). -/
def State.uniResult (s : State) (c : Ctx) (npc : Word) (d : Nat) (x : Val) : State :=
  (s.updWarp c.key (fun w => w.setS (d - 64) x)).finish c npc .keep

/-- Ends an instruction with a predicate destination. -/
def State.predResult (s : State) (c : Ctx) (npc : Word) (d : Nat) (m val : LaneMask) (fs : List LaneFault := []) : State :=
  (s.updWarp c.key (fun w => w.setP d m val)).finish c npc .keep fs

/-- Sends POISON_USE to lanes. -/
def poisonLanes (ls : List Nat) : List LaneFault := ls.map (fun l => ⟨l, 5, 0, 0⟩)

/-- The path's spin count is cleared by a store, atomic, release step or SEMPOST (06 R172). -/
def State.clearSpin (s : State) (c : Ctx) : State := s.updNode c.key c.nid (fun n => { n with spn := false, spc := 0 })

/-- The shape of R200: integer and logic instructions on lanes or on the uniform unit. `srcs` are the source codes in
operand order; with `readD` the destination code is a third source. -/
def execIntOp (s : State) (n d : Nat) (srcs : List Nat) (readD : Bool) (f : List Word → Word) :
    Host.Outcome State Fault Refusal :=
  issuing s true fun c s1 => do
    let all := if readD then srcs ++ [d] else srcs
    if n = 0 ∧ isS d = true then
      need (srcs.all uniSrcOk) trapOpnd
      if c.any then
        let vs := all.map c.opndU
        return s1.uniResult c (c.npc srcs) d ⟨f (vs.map (·.bits)), vs.any (·.psn)⟩
      else return s1.finish c (c.npc srcs) .keep
    else
      need (srcs.all c.srcOk && decide (d ≤ 95)) trapOpnd
      let rs := (lanesOf c.act).map (fun l =>
        let vs := all.map (fun code => c.opnd code l)
        (l, (⟨f (vs.map (·.bits)), vs.any (·.psn)⟩ : Val)))
      return s1.laneResult c (c.npc srcs) n d rs

/-- The first of a list of words. -/
def w0 (l : List Word) : Word := l.getD 0 0#32
/-- The second of a list of words. -/
def w1 (l : List Word) : Word := l.getD 1 0#32
/-- The third of a list of words. -/
def w2 (l : List Word) : Word := l.getD 2 0#32

/-- An instruction that acts once per issue, if any lane is active, and advances the path (07 R184). -/
def execOnce (s : State) (chk : Ctx → Bool) (codes : List Nat) (lt : LatchFx)
    (body : Ctx → State → Except Trap State) : Host.Outcome State Fault Refusal :=
  issuing s true fun c s1 => do
    need (chk c) trapOpnd
    let s2 ← if c.any then body c s1 else pure s1
    return s2.finish c (c.npc codes) lt

/-- A uniform value whose poison raises POISON_USE on every active lane (11 R274, 04 R115). -/
def Ctx.uval (c : Ctx) (code : Nat) : Except Trap Nat :=
  let v := c.opndU code
  if v.psn then .error (.all 5 0) else .ok v.bits.toNat

end Sys2Proof.Machine
end

