-- ==== Sys2Proof/Machine/Traffic.lean ====
section
/-! DEFINITION. The traffic of core transfer engines and edge stops: groups of 256-byte units that reserve their way to the slices, one
attempt a mesh clk (02 R54, R56; 06 R155, R160). -/
namespace Sys2Proof.Machine

/-- The bank words of a group of units, as the accesses of one beat. -/
def groupAccs (units : List (List Nat)) : List (Nat × Nat) := (units.flatMap id).map (fun g => (0, g))

/-- What a group of units that enters by a core stop in a clk reserves (02 R46, R51; 06 R160): a flit each on its way, and its bank slots. -/
def groupResources (clk core : Nat) (units : List (List Nat)) : List (Nat × Nat) :=
  let accs := groupAccs units
  let hb := latencyHB core 1 accs
  units.flatMap (fun u => beatResources core clk hb.1 hb.2 ((u.map granSlice).eraseDups))
    ++ (slotsFrom (clk + ·) core accs).map (fun a => (a.2.2, 4096 + bankOf a.2.1))

/-- A group of units reserves now. -/
def State.reserveGroup (s : State) (core : Nat) (units : List (List Nat)) : State :=
  { s with cal := calAdd s.cal (groupResources s.clk core units),
           slotsHeld := s.slotsHeld ++ (slotsFrom (s.clk + ·) core (groupAccs units)).map (fun a =>
             ⟨a.2.1, a.2.2, granSlice a.2.1 == core, none, s.clk⟩) }

/-- Whether the reservations of a group would succeed now (02 R53, R55). -/
def State.groupClear (s : State) (core : Nat) (units : List (List Nat)) : Bool :=
  let rs := groupResources s.clk core units
  (calOver (calAdd s.cal rs)).isEmpty && rs.all (fun r => !(s.wanted none).contains r.2)

/-- The 256-byte units of a span of SRAM, each by the bank words of the span in it (02 R56). -/
def unitsOf (pa n : Nat) : List (List Nat) :=
  if n = 0 then [] else
  let g0 := granOf pa
  let g1 := granOf (pa + n - 1)
  (List.range (g1 / 8 + 1 - g0 / 8)).map (fun i =>
    ((List.range 8).map (fun b => 8 * (g0 / 8 + i) + b)).filter (fun g => decide (g0 ≤ g ∧ g ≤ g1)))

/-! ### Edge stops -/

/-- The router at which an edge stop attaches (02 R57): 0 to 21, or 22 and up for Hexost ports 0 to 11 (R58). -/
def edgeRouter (edge : Nat) : Nat :=
  if edge < 8 then 2 * edge
  else if edge < 16 then 176 + 2 * (edge - 8) + 1
  else if edge < 22 then ([2, 9, 4, 7, 5, 6].getD (edge - 16) 0) * 16
  else (edge - 22) * 16 + 15

/-- The distance between an edge stop and a core (02 R58). -/
def edgeHops (core edge : Nat) : Nat := 1 + hops core (edgeRouter edge)

/-- The resource of an edge link: 0 from the mesh to the stop, 1 from the stop (02 R57). -/
def edgeLink (edge dir : Nat) : Nat := 2048 + edge * 2 + dir

/-- What a beat from an edge stop to one slice reserves, but for its bank slots, starting in `start` (02 R49-R51, R56-R58). -/
def edgeResources (edge slice start b : Nat) : List (Nat × Nat) :=
  let r := edgeRouter edge
  let h := edgeHops slice edge
  [(start + 3, edgeLink edge 1), (start + 3 + 2 * h, 384 + slice), (start + 6 + 2 * h + b, 576 + slice), (start + 4 + 4 * h + b, edgeLink edge 0)]
  ++ (routeLinks r slice).flatMap (fun l => [(start + 5 + 2 * l.2.2, l.1), (start + 2 + 4 * h + b - 2 * l.2.2, l.2.1)])

/-- Traffic joins what a requester has still to reserve. -/
def State.addTraffic (s : State) (req : Nat) (m : Move) : State :=
  if m.units.isEmpty then s else { s with traffic := supd [] s.traffic req (fun l => l ++ [m]) }

/-- The last group of some traffic has reserved: what waits for it goes on at its write-back (06 R160). -/
def State.moveSent (s : State) (what : MoveFor) (till : Nat) : State :=
  match what with
  | .frame key nid => s.updNode key nid (fun n => match n.wait with
    | .frame _ => { n with wait := .frame (some till) }
    | _ => n)
  | .team tk => (match s.team tk with
    | some t => s.setTeam tk (some { t with moved := max t.moved till })
    | none => s)
  | .none => s

/-- Whether traffic for a team is still to be reserved or on its way. -/
def State.teamMoving (s : State) (tk : Nat) : Bool :=
  s.traffic.any (fun x => x.2.any (fun m => m.what == .team tk))
    || (match s.team tk with
      | some t => decide (s.clk < t.moved)
      | none => false)

/-- What one unit of an edge stop's traffic reserves in the present clk: its way, and its bank words with their slots (02 R46, R51). -/
def State.stopUnit (s : State) (edge : Nat) (u : List Nat) : List (Nat × Nat) × List (Nat × Nat) :=
  let slice := granSlice (u.headD 0)
  let slots := u.map (fun g => (g, s.clk + 4 + 2 * edgeHops slice edge))
  (edgeResources edge slice s.clk 1 ++ slots.map (fun x => (x.2, 4096 + bankOf x.1)), slots)

/-- The attempt of an edge stop (02 R54): one unit. -/
def State.stopAttempt (s : State) (req : Nat) : State :=
  match sget [] s.traffic req with
  | [] => s
  | m :: rest =>
    let r := s.stopUnit m.core (m.units.headD [])
    if !s.clear none 0 (fun _ => 0) 0 0 [] r.1 then s
    else
      let left := m.units.drop 1
      { s with cal := calAdd s.cal r.1, slotsHeld := s.slotsHeld ++ r.2.map (fun x => ⟨x.1, x.2, false, none, s.clk⟩)
               traffic := sput [] s.traffic req (if left.isEmpty then rest else { m with units := left } :: rest) }

/-- The attempt of a core transfer engine (02 R54): up to four units of one piece of traffic. -/
def State.engineAttempt (s : State) (req : Nat) : State :=
  match sget [] s.traffic req with
  | [] => s
  | m :: rest =>
    let units := m.units.take 4
    if !s.groupClear m.core units then s
    else
      let s1 := s.reserveGroup m.core units
      let left := m.units.drop 4
      if left.isEmpty then
        ({ s1 with traffic := sput [] s1.traffic req rest } : State).moveSent m.what (s.clk + latencyL m.core 1 (groupAccs units))
      else { s1 with traffic := sput [] s1.traffic req ({ m with units := left } :: rest) }

/-- The one attempt of a requester in a mesh clk (02 R54). -/
def State.trafficAttempt (s : State) (req : Nat) : State := if req < 408 then s.stopAttempt req else s.engineAttempt req

/-- The requester number of an edge stop (02 R54, R57); the ports of the Hexost stops are 22 and up. -/
def stopReq (edge : Nat) : Nat := 192 + (if edge < 22 then edge else if edge < 28 then 22 else 23)

/-- A span of SRAM that an edge stop reads or writes joins its traffic (02 R56; log 106). -/
def State.stopSpan (s : State) (edge pa n : Nat) : State := s.addTraffic (stopReq edge) { core := edge, units := unitsOf pa n }

/-- A span of SRAM that the transfer engine of a core moves for a team joins its traffic (02 R54, R56). -/
def State.teamSpan (s : State) (core tk pa n : Nat) : State :=
  s.addTraffic (408 + core) { core := core, units := unitsOf pa n, what := .team tk }

/-- The attachment of a Hexost stop that serves traffic of no single port (02 R58): that nearest the slice's row. -/
def hexostEdge (stop slice : Nat) : Nat := 22 + (if stop = 22 then min (slice / 16) 5 else max (slice / 16) 6)

end Sys2Proof.Machine
end

