-- ==== Sys2Proof/Machine/Engine.lean ====
section
/-! DEFINITION. What the engines share: unit reads and writes of SRAM and LPDDR 6 (02 R42; 03 R67-R70), A-space walks
(01 R30-R32), the links to the host and to peers (01 R34, R35), barrier decrements (05 R133), the journal (18 R469, R470). -/
namespace Sys2Proof.Machine

/-! ### Spans of SRAM -/

/-- The pieces of a span that lie in one unit of `u` bytes each: address, offset in the span, length. -/
def spanPieces (u : Nat) : Nat → Nat → Nat → Nat → List (Nat × Nat × Nat)
  | 0, _, _, _ => []
  | fuel + 1, pa, off, n =>
    if n = 0 then [] else
    let k := min n (u - pa % u)
    (pa, off, k) :: spanPieces u fuel (pa + k) (off + k) (n - k)

/-- Bits [8k-1:0] from byte `off` of a number. -/
def bytesAt (x off k : Nat) : Nat := x / 2 ^ (8 * off) % 2 ^ (8 * k)

/-- The poison mask of `k` bytes from `off`. -/
def maskAt (off k : Nat) : Nat := (2 ^ k - 1) * 2 ^ off

/-- The lower of two statuses, 0 standing for none (03 R82). -/
def worse (a b : Nat) : Nat := if a = 0 then b else if b = 0 then a else min a b

/-- An engine's read of SRAM: data, a poison bit per byte, data status 0, 13 or 14 (02 R42, 03 R82), and the SRAM. -/
def Sram.engineRead (m : Sram) (pa n : Nat) : Nat × Nat × Nat × Sram :=
  (spanPieces 32 (n + 1) pa 0 n).foldl (fun (a : Nat × Nat × Nat × Sram) p =>
    let g := granOf p.1
    let fresh := sget false a.2.2.2.ueLat g
    let r := a.2.2.2.readGran g
    (a.1 + memRead r.2.bytes p.1 p.2.2 * 2 ^ (8 * p.2.1),
      (if r.1 then a.2.1 + maskAt p.2.1 p.2.2 else a.2.1),
      (if r.1 then worse a.2.2.1 (if fresh then 14 else 13) else a.2.2.1), r.2)) (0, 0, 0, m)

/-- A read of SRAM by an edge stop, whose traffic it is (02 R56): data, a poison bit per byte, data status, and the state. -/
def State.stopRead (s : State) (edge pa n : Nat) : Nat × Nat × Nat × State :=
  let r := s.mem.engineRead pa n
  (r.1, r.2.1, r.2.2.1, (s.setMem r.2.2.2).stopSpan edge pa n)

/-- The edge stop by which the device reads and writes its own records: the control stop of the journal (02 R57). -/
def ctlStop : Nat := 20

/-- The device's own read of a record: its value, or none where any byte is poisoned, and the state. -/
def State.devRead (s : State) (pa n : Nat) : Option Nat × State :=
  let r := s.mem.readSpan pa n
  (if r.2.1 then none else some r.1, (s.setMem r.2.2).stopSpan ctlStop pa n)

/-- A plain write of a span by an agent through an edge stop, with a poison bit per byte (02 R42, R44, R56). -/
def State.plainSpan (s : State) (edge agent pa n x psn : Nat) : State :=
  ((spanPieces 32 (n + 1) pa 0 n).foldl (fun (st : State) p =>
    st.setMem ((st.mem.write p.1 p.2.2 (bytesAt x p.2.1 p.2.2) (bytesAt psn 0 n / 2 ^ p.2.1 % 2 ^ p.2.2 != 0)).notePlain
      st.clk (granOf p.1) agent st.clk)) s).stopSpan edge pa n

/-- A record that the device writes on its own account (02 R44). -/
def State.devWrite (s : State) (pa n x : Nat) : State := s.plainSpan ctlStop deviceAgent pa n x 0

/-- Agent number of a Hod command (02 R44). -/
def hodAgent (core q seq : Nat) : Nat := engineAgent (((core * 18 + q) * 2 ^ 18 + seq) * 2)

/-- Agent number of an Ashlar operation (02 R44). -/
def ashAgent (ax id : Nat) : Nat := engineAgent ((ax + 384 * id) * 2 + 1)

/-! ### The journal -/

/-- Journal records made since the last wipe, complete or not (18 R469, R470): the number of the next. -/
def PtrBlock.jmade (p : PtrBlock) : Nat := (p.jwseq + p.jq.length) % 2 ^ 64
/-- Fault-log records made: the log position of the next. -/
def PtrBlock.flmade (p : PtrBlock) : Nat := (p.flwseq + p.fq.length) % 2 ^ 32

/-- Makes a journal record (18 R469, R470), which the passage of time writes. -/
def State.journal (s : State) (src launch pos st ctx info : Nat) : State :=
  let img := fieldN s.ptr.jmade 448 64 + fieldN s.clk 384 64 + fieldN launch 352 32 + fieldN pos 320 32 + fieldN src 312 8
    + fieldN st 304 8 + fieldN ctx 299 5 + fieldN info 0 256
  { s with ptr := { s.ptr with jq := s.ptr.jq ++ [⟨img, s.ptr.jen && !s.life.wiping, 0⟩] } }

/-- Makes a record of the driver's fault log (16 R426; 18 R458, R470), `SEQ` its log position. -/
def State.driverLog (s : State) (img : Nat) : State :=
  let x := img - fieldN (bitsN img 63 32) 32 32 + fieldN s.ptr.flmade 32 32
  { s with ptr := { s.ptr with fq := s.ptr.fq ++ [⟨x, s.ptr.jen && !s.life.wiping, 0⟩] } }

/-- Whether the ACCEPTED record of a launch is still being written (15 R397). -/
def State.recordComing (s : State) (lid : Nat) : Bool :=
  s.ptr.jq.any (fun r => r.on && bitsN r.image 383 352 == lid % 2 ^ 32 && bitsN r.image 311 304 == 1)

/-- One step of writing a record at an address (18 R470): its `SEQ` all ones, the other bytes, its `SEQ`. `at_` and `n` are the byte
of `SEQ` in the record and its length. A slot of an absent slice takes nothing. -/
def State.logWrite (s : State) (pa at_ n : Nat) (r : LogRec) : State :=
  if 192 * 2 ^ 24 < pa + 64 then s
  else if r.step = 0 then s.devWrite (pa + at_) n (2 ^ (8 * n) - 1)
  else if r.step = 1 then
    let s1 := if at_ = 0 then s else s.devWrite pa at_ (bytesAt r.image 0 at_)
    if at_ + n = 64 then s1 else s1.devWrite (pa + at_ + n) (64 - at_ - n) (bytesAt r.image (at_ + n) (64 - at_ - n))
  else s.devWrite (pa + at_) n (bytesAt r.image at_ n)

/-- The next step of the journal before a clk (18 R470): the steps are 17 clk apart, and with a record's last `JWSEQ` counts it. -/
def State.journalStep (s : State) (till : Nat) : State :=
  let p := s.ptr
  let t := max p.jAt s.clk
  match p.jq with
  | [] => s
  | r :: rest =>
    if !r.on then { s with ptr := { p with jq := rest, jwseq := (p.jwseq + 1) % 2 ^ 64 } }
    else if till ≤ t then s
    else
      let s1 := s.logWrite (p.jbase * 65536 + 64 * (p.jwseq % 2 ^ (p.jlog2 + 10))) 56 8 r
      if r.step < 2 then { s1 with ptr := { p with jq := { r with step := r.step + 1 } :: rest, jAt := t + 17 } }
      else { s1 with ptr := { p with jq := rest, jAt := t + 17, jwseq := (p.jwseq + 1) % 2 ^ 64 } }

/-- The next step of the driver fault log before a clk, as the journal's (18 R470). -/
def State.faultLogStep (s : State) (till : Nat) : State :=
  let p := s.ptr
  let t := max p.fAt s.clk
  match p.fq with
  | [] => s
  | r :: rest =>
    if !r.on then { s with ptr := { p with fq := rest, flwseq := (p.flwseq + 1) % 2 ^ 32 } }
    else if till ≤ t then s
    else
      let s1 := s.logWrite (p.flbase * 65536 + 64 * (p.flwseq % 2 ^ (p.fllog2 + 4))) 4 4 r
      if r.step < 2 then { s1 with ptr := { p with fq := { r with step := r.step + 1 } :: rest, fAt := t + 17 } }
      else { s1 with ptr := { p with fq := rest, fAt := t + 17, flwseq := (p.flwseq + 1) % 2 ^ 32 } }

/-- The journal and the fault log are written as far as a clk allows. -/
def State.passLogs (s : State) (till : Nat) : State :=
  let s1 := (List.range (3 * s.ptr.jq.length)).foldl (fun st _ => st.journalStep till) s
  (List.range (3 * s.ptr.fq.length)).foldl (fun st _ => st.faultLogStep till) s1

/-! ### LPDDR 6 -/

/-- Sub-channel of an LPDDR 6 address (03 R67). -/
def lpSub (a : Nat) : Nat := bitsN a 13 9 * 2 + bitsN a 8 8
/-- Bank of an LPDDR 6 address (03 R67). -/
def lpBank (a : Nat) : Nat := bitsN a 20 17 ^^^ bitsN a 24 21
/-- Whether an LPDDR 6 address is on the part (01 R30). -/
def lpPresent (a : Nat) : Bool := decide (a < (if Config.has512 then 2 ^ 39 else 2 ^ 38))
/-- A sub-channel. -/
def Lpddr.subOf (lp : Lpddr) (q : Nat) : SubCh := sget {} lp.sub q
/-- Changes a sub-channel. -/
def Lpddr.updSub (lp : Lpddr) (q : Nat) (f : SubCh → SubCh) : Lpddr := { lp with sub := supd {} lp.sub q f }

/-- The check of a burst on a read (03 R70): whether it delivers poison, its data status, and the memory after it. -/
def Lpddr.checkBurst (lp : Lpddr) (bn : Nat) : Nat × Lpddr :=
  let q := lpSub (bn * 32)
  let lp1 := if sget false lp.ceLat bn then
      { lp.updSub q (fun c => { c with ce := satAdd c.ce 1 32 }) with ceLat := sput false lp.ceLat bn false }
    else lp
  if sget false lp1.ueLat bn then
    let lp2 := lp1.updSub q (fun c => { c with ue := satAdd c.ue 1 32, ueaddr := bn, uev := true })
    (14, { lp2 with ueLat := sput false lp2.ueLat bn false, psn := sput false lp2.psn bn true })
  else (if sget false lp1.psn bn then 13 else 0, lp1)

/-- A storage upset in a burst (03 R69): within one byte, or in two; a further one makes an error uncorrectable. -/
def Lpddr.upset (lp : Lpddr) (bn : Nat) (double : Bool) : Lpddr :=
  if double || sget false lp.ceLat bn then { lp with ueLat := sput false lp.ueLat bn true, ceLat := sput false lp.ceLat bn false }
  else if sget false lp.ueLat bn then lp
  else { lp with ceLat := sput false lp.ceLat bn true }

/-- A read of LPDDR 6: data, a poison bit per byte, data status, and the memory after it. -/
def Lpddr.read (lp : Lpddr) (pa n : Nat) : Nat × Nat × Nat × Lpddr :=
  (spanPieces 32 (n + 1) pa 0 n).foldl (fun (a : Nat × Nat × Nat × Lpddr) p =>
    let r := a.2.2.2.checkBurst (p.1 / 32)
    (a.1 + memRead r.2.bytes p.1 p.2.2 * 2 ^ (8 * p.2.1),
      (if r.1 = 0 then a.2.1 else a.2.1 + maskAt p.2.1 p.2.2), worse a.2.2.1 r.1, r.2)) (0, 0, 0, lp)

/-- A write of LPDDR 6 with a poison bit per byte (03 R70): a part of a burst is read, merged and written. -/
def Lpddr.write (lp : Lpddr) (pa n x psn : Nat) : Lpddr :=
  (spanPieces 32 (n + 1) pa 0 n).foldl (fun (l : Lpddr) p =>
    let bn := p.1 / 32
    let bad := psn / 2 ^ p.2.1 % 2 ^ p.2.2 != 0
    let l1 := if p.2.2 = 32 then { l with ceLat := sput false l.ceLat bn false, ueLat := sput false l.ueLat bn false }
      else (l.checkBurst bn).2
    let l2 := { l1 with bytes := memWrite l1.bytes p.1 p.2.2 (bytesAt x p.2.1 p.2.2) }
    if p.2.2 = 32 then { l2 with psn := sput false l2.psn bn bad }
    else if bad then { l2 with psn := sput false l2.psn bn true } else l2) lp

/-- Writes that their controllers have accepted by a clk take effect, oldest first (03 R73; 04 R95). -/
def Lpddr.accept (lp : Lpddr) (clk : Nat) : Lpddr :=
  let now := sortBy (fun a b => decide (a.at_ ≤ b.at_)) (lp.inbox.filter (fun w => decide (w.at_ ≤ clk)))
  now.foldl (fun l w => l.write w.pa w.len w.data w.psn) { lp with inbox := lp.inbox.filter (fun w => decide (clk < w.at_)) }

/-- An access joins its bank's queue, in the order of arrival (03 R73; 02 R54: in a clk by requester). DESIGN CHOICE (log 120): a walk for a
transfer counts as its Hod's. -/
def Lpddr.enqueue (lp : Lpddr) (a : LpAcc) : Lpddr :=
  let who (x : LpAcc) : Nat := match x.who with
    | .unit c _ _ => c
    | .walk c _ => c
    | .write c => c
    | .other => 192
  lp.updSub (lpSub a.pa) (fun c => { c with
    accq := supd [] c.accq (lpBank a.pa) (insertBy (fun x y => decide (x.at_ < y.at_ ∨ (x.at_ = y.at_ ∧ who x ≤ who y))) a) })

/-- Replaces the LPDDR 6 memory. -/
def State.setLp (s : State) (lp : Lpddr) : State := { s with lp := lp }

/-- A read of LPDDR 6 that an edge stop makes and that its bank then serves (03 R73): data, a poison bit per byte, data status. -/
def State.lpReadNow (s : State) (pa n : Nat) : Nat × Nat × Nat × State :=
  let r := s.lp.read pa n
  (r.1, r.2.1, r.2.2.1, s.setLp (r.2.2.2.enqueue ⟨.other, pa, n, s.clk, false⟩))

/-- A write of LPDDR 6 that an edge stop makes: it takes effect at once, and its bank will serve it (03 R73). -/
def State.lpWriteNow (s : State) (pa n x psn : Nat) : State :=
  s.setLp ((s.lp.write pa n x psn).enqueue ⟨.other, pa, n, s.clk, true⟩)

/-! ### A-space walks -/

/-- Whether a page-table entry of a level is malformed (01 R31, R32). -/
def pteBad (level e : Nat) : Bool :=
  bitsN e 63 39 != 0 || bitsN e 10 4 != 0 || !lpPresent (bitsN e 38 11 * 2048)
    || (if level < 4 then bitsN e 3 1 != 0 else bitsN e 15 11 != 0)

/-- Level-4 permissions against a need (`needR`, `needW`; reductions need `RED`, here 16). -/
def pteAllows (e need : Nat) : Bool :=
  (need &&& 1 == 0 || bitN e 1) && (need &&& 2 == 0 || bitN e 2) && (need &&& 16 == 0 || bitN e 3)

/-- What a walk does at an entry it has read (01 R32): the failure it ends with, or none. -/
def pteFails (level e st : Nat) : Option Nat :=
  if st ≠ 0 then some 6 else if !bitN e 0 then some 5 else if pteBad level e then some 6 else none

/-- The address of the entry that a walk reads in a table of a level. -/
def pteAt (page level table : Nat) : Nat := table * 2048 + 8 * (page / 256 ^ (4 - level) % 256)

/-- Reads tables from `level` on as LPDDR 6 holds them now (01 R32): the status, or the level-4 entry with the next-table addresses
read on the way. -/
def walkFrom (lp : Lpddr) (page : Nat) : Nat → Nat → Nat → List (Nat × Nat) → (Except Nat (Nat × List (Nat × Nat))) × Lpddr
  | 0, _, _, _ => (.error 6, lp)
  | fuel + 1, level, table, got =>
    let a := pteAt page level table
    let r := lp.checkBurst (a / 32)
    let e := memRead r.2.bytes a 8
    match pteFails level e r.1 with
    | some k => (.error k, r.2)
    | none => if level ≥ 4 then (.ok (e, got), r.2) else walkFrom r.2 page fuel (level + 1) (bitsN e 38 11) (got ++ [(level, bitsN e 38 11)])

/-- Where a walk begins (01 R32): the level and table its cluster's directory cache gives, and the cache with the entry used. -/
def walkStart (dc : List DirCache) (root ctx page : Nat) : Nat × Nat × List DirCache :=
  match [3, 2, 1].findSome? (fun l => dc.find? (fun e => e.ctx == ctx && e.level == l && e.idx == page / 256 ^ (4 - l))) with
  | some e => (e.level + 1, e.next, e :: dc.filter (· != e))
  | none => (1, root, dc)

/-- A directory cache of 64 entries after a walk that read next-table addresses of the levels given (01 R32). -/
def dirFill (dc : List DirCache) (ctx page : Nat) (got : List (Nat × Nat)) : List DirCache :=
  got.foldl (fun (d : List DirCache) x =>
    (⟨ctx, x.1, page / 256 ^ (4 - x.1), x.2⟩ :: d.filter (fun e => !(e.ctx == ctx && e.level == x.1 && e.idx == page / 256 ^ (4 - x.1)))).take 64) dc

/-- The LPDDR 6 accesses of a walk that read tables from `level` on join their banks' queues (03 R73). -/
def State.walkUses (s : State) (page level table : Nat) (got : List (Nat × Nat)) : State :=
  let ats := pteAt page level table :: (got.filter (fun x => decide (x.1 < 4))).map (fun x => pteAt page (x.1 + 1) x.2)
  s.setLp (ats.foldl (fun (l : Lpddr) a => l.enqueue ⟨.other, a, 8, s.clk, false⟩) s.lp)

/-- A walk for a reduction by the walker of a cluster, through its directory cache (01 R32): the status or the level-4 entry. A failed
walk leaves nothing in the cache. -/
def State.walk (s : State) (cluster ctx page need : Nat) : (Except Nat Nat) × State :=
  let w := walkStart (sget [] s.dirCaches cluster) (s.ctx ctx).ptroot ctx page
  let r : (Except Nat (Nat × List (Nat × Nat))) × Lpddr := walkFrom s.lp page 4 w.1 w.2.1 []
  let got := match r.1 with
    | .ok (_, g) => g
    | .error _ => []
  let put (d : List DirCache) : State := { (s.setLp r.2).walkUses page w.1 w.2.1 got with dirCaches := sput [] s.dirCaches cluster d }
  match r.1 with
  | .error k => (.error k, put w.2.2)
  | .ok (e, got) => if pteAllows e need then (.ok e, put (dirFill w.2.2 ctx page got)) else (.error 7, put w.2.2)

/-- The LPDDR 6 address of an A-space address under a level-4 entry (01 R31). -/
def pteAddr (e va : Nat) : Nat := bitsN e 38 16 * 65536 + va % 65536

/-! ### Host and peer windows -/

/-- The valid H-window that holds an access wholly and permits it (01 R34). -/
def Context.hwinOk (c : Context) (va n : Nat) (write : Bool) : Bool :=
  let off := va % 2 ^ 48
  c.hwin.any (fun x =>
    let e := x.2
    bitsN e 127 124 == 1 && (if write then bitN e 121 else bitN e 120)
      && decide (bitsN e 107 72 * 4096 ≤ off ∧ off + n ≤ (bitsN e 107 72 + bitsN e 71 36 + 1) * 4096))

/-- The export entry that holds an access to a window offset and admits it (01 R35). `op` 0 reads, 1 writes, 2 reduces. -/
def Fabric.exportFor (f : Fabric) (off n op group : Nat) : Option Nat :=
  (f.exports.find? (fun x =>
    let e := x.2
    (bitsN e 127 124 == 1 || bitsN e 127 124 == 2)
      && decide (bitsN e 95 77 * 65536 ≤ off ∧ off + n ≤ (bitsN e 95 77 + bitsN e 76 58 + 1) * 65536)
      && bitsN e 119 104 == group
      && (if op = 0 then bitN e 120 else if op = 1 then bitN e 121 else bitN e 122))).map (·.2)

/-- Status of an S-space or L-space translation failure (01 R36). -/
def statusOf (code : Nat) : Nat :=
  match code with
  | 4 => 3
  | 1 => 4
  | _ => 2

/-- Where an engine access ends: SRAM or LPDDR 6. -/
inductive Place where
  | sram (pa : Nat)
  | lpddr (pa : Nat)
deriving DecidableEq, Repr

/-- Translation of an accepted access to an export entry (01 R35): in the tables of its context, at this moment. -/
def State.exportPlace (s : State) (e off need : Nat) : (Except Nat Place) × State :=
  let c := bitsN e 103 99
  let d := off - bitsN e 95 77 * 65536
  if bitsN e 127 124 = 1 then
    match (s.ctx c).xlateS (bitsN e 15 0 * 65536 + d) (need % 16) with
    | .ok pa => (.ok (.sram pa), s)
    | .error k => (.error (statusOf k), s)
  else
    let va := bitsN e 31 0 * 65536 + d
    let r : (Except Nat (Nat × List (Nat × Nat))) × Lpddr := walkFrom s.lp (va / 65536) 4 1 (s.ctx c).ptroot []
    let s1 := s.setLp r.2
    match r.1 with
    | .error k => (.error k, s1.walkUses (va / 65536) 1 (s.ctx c).ptroot [])
    | .ok (p, got) =>
      let s2 := s1.walkUses (va / 65536) 1 (s.ctx c).ptroot got
      if pteAllows p need then (.ok (.lpddr (pteAddr p va)), s2) else (.error 7, s2)

/-- Draws a free number below a bound (log 3). -/
def State.draw (s : State) (n : Nat) : Nat × State := (Config.freeNat s.fresh % n, { s with fresh := s.fresh + 1 })

/-- The outcome of a unit that the link to the host or a peer serves, which the spec leaves to the other side (log 3): a
translation or link status of the list given (0 for none), or data status 13 or 15. -/
def State.linkOutcome (s : State) (errs : List Nat) : Nat × State :=
  let all := 0 :: 13 :: 15 :: errs
  let d := s.draw all.length
  (all.getD d.1 0, d.2)

/-- Reads a place by an edge stop: data, poison per byte, data status. -/
def State.readPlace (s : State) (edge : Nat) (p : Place) (n : Nat) : Nat × Nat × Nat × State :=
  match p with
  | .sram pa => s.stopRead edge pa n
  | .lpddr pa => s.lpReadNow pa n

/-- Reads a unit of H-space (01 R34): a status of 1 to 12, or data. -/
def State.readHost (s : State) (ctx va n : Nat) : (Except Nat (Nat × Nat × Nat)) × State :=
  if !(s.ctx ctx).hwinOk va n false then (.error 8, s)
  else
    let o := s.linkOutcome [9]
    let d := o.2.draw (2 ^ (8 * n))
    match o.1 with
    | 9 => (.error 9, d.2)
    | 15 => (.ok (0, maskAt 0 n, 15), d.2)
    | 13 => (.ok (d.1, maskAt 0 n, 13), d.2)
    | _ => (.ok (d.1, 0, 0), d.2)

/-- The Hexost port by which a device is reached, as an edge (03 R80; 18 R472); 22 where no route names one. -/
def State.peerEdge (s : State) (dev : Nat) : Nat := 22 + bitsN (sget 0 s.fab.routes dev) 14 11 % 12

/-- Reads a unit of P-space (01 R35). -/
def State.readPeer (s : State) (ctx va n : Nat) : (Except Nat (Nat × Nat × Nat)) × State :=
  let dev := bitsN va 47 35
  let off := bitsN va 34 0
  if dev = s.fab.devid then
    match s.fab.exportFor off n 0 (s.ctx ctx).group with
    | none => (.error 11, s)
    | some e =>
      match s.exportPlace e off needR with
      | (.error k, s1) => (.error k, s1)
      | (.ok p, s1) => let r := s1.readPlace (s.peerEdge dev) p n; (.ok (r.1, r.2.1, r.2.2.1), r.2.2.2)
  else if !bitN (sget 0 s.fab.routes dev) 15 then (.error 10, s)
  else
    let o := s.linkOutcome [2, 3, 4, 5, 6, 7, 10, 11]
    let d := o.2.draw (2 ^ (8 * n))
    match o.1 with
    | 0 => (.ok (d.1, 0, 0), d.2)
    | 13 => (.ok (d.1, maskAt 0 n, 13), d.2)
    | 15 => (.ok (0, maskAt 0 n, 15), d.2)
    | k => (.error k, d.2)

/-- Writes a unit of H-space: a status (0 for none, 15 a data error). -/
def State.writeHost (s : State) (ctx va n : Nat) : Nat × State :=
  if !(s.ctx ctx).hwinOk va n true then (8, s)
  else
    let o := s.linkOutcome [9]
    (if o.1 = 13 then 0 else o.1, o.2)

/-- Writes a unit of P-space (01 R35); `agent` is the writer. -/
def State.writePeer (s : State) (agent ctx va n x psn : Nat) : Nat × State :=
  let dev := bitsN va 47 35
  let off := bitsN va 34 0
  if dev = s.fab.devid then
    match s.fab.exportFor off n 1 (s.ctx ctx).group with
    | none => (11, s)
    | some e =>
      match s.exportPlace e off needW with
      | (.error k, s1) => (k, s1)
      | (.ok (.sram pa), s1) => (0, s1.plainSpan (s.peerEdge dev) agent pa n x psn)
      | (.ok (.lpddr pa), s1) => (0, s1.lpWriteNow pa n x psn)
  else if !bitN (sget 0 s.fab.routes dev) 15 then (10, s)
  else
    let o := s.linkOutcome [2, 3, 4, 5, 6, 7, 10, 11]
    (if o.1 = 13 then 0 else o.1, o.2)

/-! ### Barrier decrements -/

/-- A decrement of a barrier's counter by an engine (05 R133); a malformed or poisoned object takes none. -/
def State.barDec (s : State) (pa : Nat) (k : BarStep) : State :=
  match s.mem.barStep pa k with
  | some r => s.setMem r.2
  | none => s

end Sys2Proof.Machine
end

