-- ==== Sys2Proof/Machine/Paths.lean ====
section
/-! DEFINITION. Divergence, window moves, spin detection and the choice of the issuing path (06 R158-R160, R165, R166,
R170-R172). -/
namespace Sys2Proof.Machine

/-- CALL's slide of 06 R158: the window moves up by `f`, and v62 and v63 take the frame and the link. -/
def State.slide (s : State) (key nid f : Nat) (target link : Word) : Except Trap State := do
  let p := s.node key nid
  let s1 ← s.makeResident key nid (p.wb + f)
  let wb := p.wb + f
  let s2 := s1.updWarp key (fun w => (lanesOf p.mask).foldl (fun (a : Warp) l =>
    (a.setVAt (wb + 63) l ⟨link, false⟩).setVAt (wb + 62) l ⟨BitVec.ofNat 32 f, false⟩) w)
  return s2.updNode key nid (fun n => { n with wb := wb, pc := target, since := s.clk })

/-- RET's slide of 06 R158 for lanes that agree on the frame and the link. -/
def State.slideBack (s : State) (key nid f : Nat) (link : Word) : Except Trap State := do
  let p := s.node key nid
  let s1 ← s.makeResident key nid (p.wb - f)
  return s1.updNode key nid (fun n => { n with wb := p.wb - f, pc := link, since := s.clk })

/-- The pending side of the innermost record of a path's innermost group changes places with the running side, whose record is
placed outermost (06 R172). -/
def State.spinExchange (s : State) (key nid : Nat) : State :=
  match s.warp key with
  | none => s
  | some w =>
    match findAt (fun g => g.owner == nid) w.serial with
    | some (i, g) =>
      (match g.sides with
      | sd :: rest =>
        let n := s.node key nid
        let g1 : SerialGrp := { g with sides := rest ++ [⟨n.pc, n.mask, n.mode, n.wb⟩] }
        let s1 := s.setWarp key (some { w with serial := setAt w.serial i g1, yv := 0 })
        (s1.setNode key nid { n with pc := sd.pc, mask := sd.mask, mode := sd.mode, wb := sd.wb, spn := false, spc := 0
                                     since := s.clk }).windowBack key nid
      | [] => s)
    | none => s

/-- A path is marked spinning (06 R172). -/
def State.markSpin (s : State) (key nid : Nat) : State :=
  (s.updNode key nid (fun n => { n with spn := true })).spinExchange key nid

/-- A path's spin count once a branch to a target is taken on the way to its side (06 R172): backward branches to one target count, and the
sixteenth marks the path; another target starts anew. -/
def Node.spun (n : Node) (pc target : Word) : Node :=
  if pc.toNat < target.toNat then { n with spn := false, spc := 0, spTgt := target }
  else if n.spTgt = target ∧ n.spc > 0 then (if n.spc = 15 then { n with spn := true } else { n with spc := n.spc + 1 })
  else { n with spn := false, spc := 1, spTgt := target }

/-- A taken backward branch counts; the sixteenth to one target marks the path (06 R172). -/
def State.spinBack (s : State) (key nid : Nat) (target : Word) : State :=
  let n := s.node key nid
  if n.spTgt = target ∧ n.spc > 0 then
    if n.spc = 15 then s.markSpin key nid
    else s.setNode key nid { n with spc := n.spc + 1 }
  else s.setNode key nid { n with spn := false, spc := 1, spTgt := target }

/-- A taken branch of a path to a target, as the spin detector sees it (06 R172): backward branches count, forward ones go to a
different target. -/
def State.spinBranch (s : State) (key nid : Nat) (pc target : Word) : State :=
  if target.toNat ≤ pc.toNat then s.spinBack key nid target
  else s.updNode key nid (fun n => { n with spn := false, spc := 0, spTgt := target })

/-- A branch divergence into sides in ascending target order (06 R165), or its serialisation (R170): the state, and the
node of each side that goes on at once. With `br` the sides take a branch that the spin detector sees (R172; log 23). -/
def State.diverge (s : State) (key nid : Nat) (sides : List (Word × LaneMask)) (br : Bool := false) :
    Except Trap (State × List Nat) :=
  match s.warp key with
  | none => .ok (s, [])
  | some w =>
    let n := s.node key nid
    let s0 := s.updWarp key (fun w => { w with yv := 0 })
    if s.mayTake key sides.length then
      let ids := s.freeEntries key sides.length
      let s1 := s0.setNode key nid { n with kind := .split, fs := false, jv := false, wait := .none, spn := false, spc := 0
                                            tkv := false }
      let child (x : Word × LaneMask) : Node :=
        { (if br then n.spun n.pc x.1 else { n with spn := false, spc := 0, spTgt := x.1 }) with
          kind := .path, slot := slotOf key, parent := nid, pc := x.1, mask := x.2, wait := .none, tkv := false, since := s.clk }
      .ok ((ids.zip sides).foldl (fun st y => st.setNode key y.1 (child y.2)) s1, ids)
    else
      match sides with
      | [] => .ok (s, [])
      | first :: rest =>
        if !spillFits w.width w.frame w.sb (w.nser + rest.length) then .error (trapSpill 1)
        else
          let g : SerialGrp := { owner := nid, mode := n.mode, wb := n.wb, fragId := n.fragId, fmask := n.fmask,
                                 sides := rest.map (fun x => ⟨x.1, x.2, n.mode, n.wb⟩) }
          let s1 := s0.updWarp key (fun w => { w with serial := g :: w.serial })
          let s2 := s1.setNode key nid { n with pc := first.1, mask := first.2, since := s.clk }
          .ok (if br && decide (first.1.toNat ≤ n.pc.toNat) then s2.spinBack key nid first.1 else s2, [nid])

/-- Groups lanes by a word each names, in ascending order of the word. -/
def groupLanes (xs : List (Nat × Nat)) : List (Nat × LaneMask) :=
  let ks := sortBy (fun a b => decide (a ≤ b)) ((xs.map (·.2)).eraseDups)
  ks.map (fun k => (k, maskOf ((xs.filter (fun x => x.2 == k)).map (·.1))))

/-- Adds one completion to every lane of a mask, and invalidates the latches (09 R247, 07 R188). -/
def State.ctlDone (s : State) (key : Nat) (m : LaneMask) : State :=
  s.updWarp key (fun w => { w with cnt := if m = 0#96 then w.cnt else bumpCounts w.cnt m, yv := 0 })

/-- The paths of a warp that wait for nothing outside them (06 R164). -/
def State.openPaths (s : State) (key : Nat) : List Nat :=
  (64 :: s.entries key).filter (fun i => let n := s.node key i; n.kind == .path && n.wait == .none && n.mask != 0#96)

/-- A fragment becomes a ready path (16 R422, R431), at its own instruction or `skip` bytes on. -/
def State.resumeFrag (s : State) (key nid : Nat) (skip : Nat) : State :=
  let s1 := s.updNode key nid (fun n =>
    if n.kind = .frag then
      { n with kind := .path, wait := .none, pc := n.pc + BitVec.ofNat 32 skip, since := s.clk, detail := [], fcode := 0
               spn := false, spc := 0 }
    else n)
  (s1.updWarp key (·.dropY [nid])).settle key 200

/-- The node of a warp that holds a fragment identity. -/
def State.fragNode (s : State) (key fid : Nat) : Option Nat :=
  (64 :: s.entries key).find? (fun i => (s.node key i).kind == .frag && (s.node key i).fragId == fid)

/-- The slot key of a team's warp by its index in the team. -/
def State.warpKey (s : State) (team wid : Nat) : Option Nat :=
  match s.team team with
  | none => none
  | some t => t.keys.find? (fun k => match s.warp k with
    | some w => w.team == team && w.warpId == wid
    | none => false)

end Sys2Proof.Machine
end

