-- ==== Sys2Proof/Machine/Mem.lean ====
section
/-! DEFINITION. Loads, stores, atomics, FENCE and PCHK (02 R44-R48; 04 R96-R102; 05 R143-R146; 11 R273-R283). -/
namespace Sys2Proof.Machine

/-- Registers that an access of size code `z` moves (07 R190). -/
def regsOf (z : Nat) : Nat := max 1 (2 ^ z / 4)

/-- A register destination or source of `regsOf z` registers (11 R278). -/
def regSpan (d z : Nat) : Bool :=
  d % regsOf z == 0 && (decide (d + regsOf z ≤ 64) || decide (64 ≤ d ∧ d + regsOf z ≤ 96))

/-- The lane accesses of an instruction: the lanes that translate, and the faults of the others (01 R24). -/
def laneAccesses (s : State) (c : Ctx) (a off size nd : Nat) (lanes : List Nat) : List (Nat × Nat) × List LaneFault :=
  lanes.foldl (fun (st : List (Nat × Nat) × List LaneFault) (l : Nat) =>
    let x : Nat × Bool := c.addr a l
    let va := wrapN ((x.1 : Int) + sextN off 5 * (size : Int)) 64
    if x.2 then (st.1, st.2 ++ [⟨l, 5, va, 0⟩])
    else match s.translate c.key va size nd with
      | .ok pa => (st.1 ++ [(l, pa)], st.2)
      | .error k => (st.1, st.2 ++ [⟨l, k, va, 0⟩])) ([], [])

/-- An acquire holds the path's later memory, synchronisation and engine instructions to its write-back time; at .ND and .FB
(`sc` 3 and 4) also until the host writes that reached a stop before its bank slot have taken effect (11 R279, 04 R122). -/
def State.acquireHold (s : State) (c : Ctx) (till : Nat) (sc : Nat := 0) (slot : Nat := 0) : State :=
  s.updNode c.key c.nid (fun n => { n with hold := max n.hold till, acq := if 3 ≤ sc then max n.acq slot else n.acq })

/-- The last bank slot of some accesses. -/
def lastSlot (accs : List BankAcc) : Nat := accs.foldl (fun m a => max m a.slot) 0

/-- LD and LDAQ (11 R276, R277): `acq` is none for a plain load, else the scope. The read takes effect at the bank slots, and the
registers are written at write-back (02 R48). -/
def execLoad (d a o z : Nat) (acq : Option Nat) (s : State) : Host.Outcome State Fault Refusal :=
  issuing s true fun c s1 => do
    let size := 2 ^ z
    let uni := isS d
    need (addrOk a && decide (d ≤ 95) && regSpan d z && (!uni || (isS a && (z == 2 || z == 3)))) trapOpnd
    let per := if uni then 96 else if z = 4 then 16 else 32
    let nb := if uni then 1 else c.w.width / per
    let lanes := if uni then (lanesOf c.act).take 1 else lanesOf c.act
    let r := laneAccesses s1 c a o size needR lanes
    match uni, r.2 with
    | true, f :: _ => .error (.all f.code f.va)
    | _, fs =>
      let core := coreOf c.key
      let accs := beatAccs per r.1
      let L := latencyL core nb accs
      let bs := bankAccs (s1.accessSlots core accs) (r.1.map (fun x => (x.1 / per, ({ lane := x.1, pa := x.2, n := size } : AccPart))))
      let dst : FlightDst := if uni then .uni (d - 64) (regsOf z) else .lanes (c.p.wb + d) (regsOf z)
      let s2 := s1.noteAccess c.key nb accs
      let s3 := if accs.isEmpty then s2 else s2.fly c.key c.w (.load acq.isNone) dst (maskOf (r.1.map (·.1))) nb L bs
      let s4 := match acq with
        | some (k + 1) => s3.acquireHold c (s1.coreClk core (nb - 1 + L)) (k + 1) (lastSlot bs)
        | _ => s3
      return s4.finish c (c.npc [a]) .kill fs

/-- 11 R276 LD. -/
def execLd (d a o z : Nat) (s : State) : Host.Outcome State Fault Refusal := execLoad d a o z none s

/-- 11 R276 LDAQ. -/
def execLdaq (d a o z sc : Nat) (s : State) : Host.Outcome State Fault Refusal := execLoad d a o z (some sc) s

/-- Plain writes are remembered from their reservation for the race rule and the release gap (02 R44; 04 R102). -/
def State.notePlainWrites (s : State) (c : Ctx) (accs : List BankAcc) : State :=
  let m := accs.foldl (fun (m : Sram) x => m.notePlain s.clk x.gran (warpAgent c.w) x.slot) s.mem
  (s.setMem m).updWarp c.key (fun w => { w with lastPlain := max w.lastPlain (lastSlot accs) })

/-- ST and STRL (11 R276): the write takes effect at the bank slots (02 R48). -/
def execStore (d a o z : Nat) (plain : Bool) (s : State) : Host.Outcome State Fault Refusal :=
  issuing s true fun c s1 => do
    let size := 2 ^ z
    need (addrOk a && (if d ≤ 95 then regSpan d z else srcNoLatch d && decide (z ≤ 2))) trapOpnd
    let per := if z = 4 then 16 else 32
    let nb := c.w.width / per
    let r := laneAccesses s1 c a o size needW (lanesOf c.act)
    let data (l : Nat) : Nat × Bool :=
      let vs := (List.range (regsOf z)).map (fun k => c.opnd (d + k) l)
      (vs.foldr (fun v acc => v.bits.toNat + 2 ^ 32 * acc) 0 % 2 ^ (8 * size), vs.any (·.psn))
    let good := r.1.filter (fun x => !(data x.1).2)
    let fs := r.2 ++ (r.1.filter (fun x => (data x.1).2)).map (fun x =>
      (⟨x.1, 5, wrapN (((c.addr a x.1).1 : Int) + sextN o 5 * (size : Int)) 64, 0⟩ : LaneFault))
    let core := coreOf c.key
    let accs := beatAccs per good
    let bs := bankAccs (s1.accessSlots core accs) (good.map (fun x => (x.1 / per, ({ lane := x.1, pa := x.2, n := size, x := (data x.1).1 } : AccPart))))
    let s2 := s1.noteAccess c.key nb accs
    let s3 := if accs.isEmpty then s2 else s2.fly c.key c.w .store .none (maskOf (good.map (·.1))) nb 0 bs
    let s4 := if plain then s3.notePlainWrites c bs else s3
    return (s4.clearSpin c).finish c (c.npc [d, a]) .kill fs

/-- 11 R276 ST. -/
def execSt (d a o z : Nat) (s : State) : Host.Outcome State Fault Refusal := execStore d a o z true s

/-- 11 R276 STRL; its waits come before issue (R279). -/
def execStrl (d a o z _sc : Nat) (s : State) : Host.Outcome State Fault Refusal := execStore d a o z false s

/-! ### Atomics -/

/-- ATOM and RED (11 R282, R283): `ret` is none for RED, else the destination, which for CAS is a data operand too (04 R115). Each
lane operation takes effect at its bank slots (02 R47, 04 R95). -/
def execAtomic (ret : Option Nat) (a b op : Nat) (s : State) : Host.Outcome State Fault Refusal :=
  issuing s true fun c s1 => do
    let d := ret.getD 0
    let uni := ret.isSome && isS d
    need (addrOk a && srcNoLatch b && decide (d ≤ 95) && (!uni || (isS a && uniOk b))) trapOpnd
    let nd := if ret.isSome then needRWAT else needWAT
    let lanes := if uni then (lanesOf c.act).take 1 else lanesOf c.act
    let r := laneAccesses s1 c a 0 4 nd lanes
    let bad (l : Nat) : Bool := (c.opnd b l).psn || (op == 9 && (c.opnd d l).psn)
    let good := r.1.filter (fun x => !bad x.1)
    let fs := r.2 ++ (r.1.filter (fun x => bad x.1)).map (fun x => (⟨x.1, 5, (c.addr a x.1).1, 0⟩ : LaneFault))
    match uni, fs with
    | true, f :: _ => .error (.all f.code f.va)
    | _, _ =>
      let core := coreOf c.key
      let nb := if uni then 1 else c.w.width / 32
      let parts := good.map (fun x => (if uni then 0 else x.1 / 32, (⟨x.1, x.2, 4, (c.opnd b x.1).bits.toNat, (c.opnd d x.1).bits.toNat, 0, 0, false⟩ : AccPart)))
      let accs := parts.flatMap (fun x => [(x.1, granOf x.2.pa), (x.1, granOf x.2.pa)])
      let dst : FlightDst := if ret.isNone then .none else if uni then .uni (d - 64) 1 else .lanes (c.p.wb + d) 1
      let s2 := s1.noteAccess c.key nb accs
      let s3 := if accs.isEmpty then s2 else
        s2.fly c.key c.w (.atomic op) dst (maskOf (good.map (·.1))) nb (latencyL core nb accs) (atomicAccs (s1.accessSlots core accs) parts)
      return (s3.clearSpin c).finish c (c.npc [b]) .kill fs

/-- 11 R282 ATOM.DV. -/
def execAtomDv (d a b op : Nat) (s : State) : Host.Outcome State Fault Refusal := execAtomic (some d) a b op s
/-- 11 R282 ATOM.TM: it executes as ATOM.DV (05 R143). -/
def execAtomTm (d a b op : Nat) (s : State) : Host.Outcome State Fault Refusal := execAtomic (some d) a b op s
/-- 11 R282 RED.DV. -/
def execRedDv (a b op : Nat) (s : State) : Host.Outcome State Fault Refusal := execAtomic none a b op s
/-- 11 R282 RED.TM: it executes as RED.DV (05 R143). -/
def execRedTm (a b op : Nat) (s : State) : Host.Outcome State Fault Refusal := execAtomic none a b op s

/-! ### FENCE and PCHK -/

/-- 11 R280 FENCE. -/
def execFence (sc : Nat) (s : State) : Host.Outcome State Fault Refusal :=
  execOnce s (fun _ => true) [] .kill fun c s1 =>
    return if sc = 0 then s1
      else (s1.acquireHold c c.w.releaseAt).updNode c.key c.nid (fun n => { n with fence := s1.clk + 1 })

/-- 11 R281 PCHK. -/
def execPchk (p q : Nat) (s : State) : Host.Outcome State Fault Refusal :=
  execOnce s (fun _ => decide (p ≤ 6) && srcNoLatch q) [q] .kill fun c s1 =>
    let m := maskOf ((lanesOf c.act).filter (fun l => (c.opnd q l).psn))
    return s1.updWarp c.key (fun w => w.setP p c.act m)

end Sys2Proof.Machine
end

