-- ==== Sys2Proof/Machine/Steps.lean ====
section
/-! DEFINITION. What an atomic step or a check of an object does at its bank slot: barriers, semaphores, stage rings, Traverse words,
task control blocks, and waiting on a Cairn monitor (04 R95, R117, R118; 05 R126-R139; 06 R176; 08 R222, R223; 11 R284-R289). -/
namespace Sys2Proof.Machine

/-- Registers a waiter on a bank word in the bank slot of its failed check (04 R117, 05 R139): the SRAM, and whether there
was an entry for it. -/
def Sram.register (m : Sram) (g : Nat) (wt : Waiter) (kind : Nat) : Sram × Bool :=
  let sl := granSlice g
  let es := (sget [] m.cairn sl).filter (fun e => !(e.word == g && e.waiter == wt))
  if es.length ≥ 256 then
    ({ m with mon := supd {} m.mon sl (fun c => { c with mrefused := satAdd c.mrefused 1 32 }) }, false)
  else
    let c1 : Sparse (List CairnEntry) := sput [] m.cairn sl (es ++ [⟨g, wt, kind⟩])
    ({ m with
        cairn := c1, mon := supd {} m.mon sl (fun c => { c with
          mreg := satAdd c.mreg 1 64, mhigh := max c.mhigh (es.length + 1) }) }, true)

/-- The latches of a warp become invalid (07 R188). -/
def State.killY (s : State) (key : Nat) : State := s.updWarp key (fun w => { w with yv := 0 })

/-- A path waits for a change of the word of its object (04 R117, R118): its instruction is reissued when it is woken. The present clk is
the bank slot of the failed check. -/
def State.waitOn (s : State) (c : Ctx) (pa kind : Nat) : State :=
  let g := granOf pa
  let r := s.mem.register g (.path c.w.ctx c.key c.nid) kind
  let poll := if r.2 then none else some (granSlice g, s.clk + 256)
  (s.setMem r.1).updNode c.key c.nid (fun n => { n with wait := .monitor poll })

/-- The object of a synchronisation instruction: its address and physical address; every fault falls on all active lanes
(05 R126). -/
def State.object (s : State) (c : Ctx) (q size nd : Nat) : Except Trap (Nat × Nat) :=
  let x := c.addr q 0
  if x.2 then .error (.all 5 x.1)
  else match s.translate c.key x.1 size nd with
    | .ok pa => .ok (x.1, pa)
    | .error k => .error (.all k x.1)

/-- Goes on when a test holds, else traps from a state that stands. -/
def needAt (b : Bool) (s : State) (t : Trap) : Except Trap Unit := if b then .ok () else sunkTrap s t

/-! ### Images of objects -/

/-- The grant of 05 R138 for a ticket at an object image. -/
def semGranted (img t : Nat) : Bool := decide ((img % 2 ^ 32 + 2 ^ 32 - t % 2 ^ 32) % 2 ^ 32 < 2 ^ 31)

/-- Number of slots of a ring image (11 R287). -/
def ringSlots (o : Nat) : Nat := bitsN o 4 0
/-- State of a slot. -/
def ringState (o i : Nat) : Nat := bitsN o (32 + 2 * i + 1) (32 + 2 * i)
/-- The image with a slot in another state. -/
def ringSet (o i st : Nat) : Nat := o - ringState o i * 2 ^ (32 + 2 * i) + st * 2 ^ (32 + 2 * i)
/-- `WSEQ`. -/
def ringW (o : Nat) : Nat := bitsN o 95 64
/-- `RSEQ`. -/
def ringR (o : Nat) : Nat := bitsN o 127 96
/-- The slot that a reserve takes next. -/
def ringWi (o : Nat) : Nat := ringW o % ringSlots o
/-- The slot that a take or a peek looks at. -/
def ringRi (o : Nat) : Nat := ringR o % ringSlots o
/-- Malformed rings (11 R287). -/
def ringBad (o : Nat) : Bool :=
  ringSlots o == 0 || decide (ringSlots o > 16) || bitsN o 31 16 == 0 || bitsN o 255 128 != 0 || bitsN o 15 5 != 0
    || bitsN o 63 32 / 2 ^ (2 * ringSlots o) != 0

/-- A footprint within the limits of 06 R151: width code, d / 8, S / 256, warps per half. -/
def footOk (wc regs scratch n : Nat) : Bool :=
  decide (1 ≤ wc ∧ wc ≤ 3 ∧ 8 ≤ regs ∧ regs ≤ 32 ∧ 32 * wc * (8 * regs) ≤ 16384 ∧ scratch ≤ 32768 ∧ 1 ≤ n ∧ n ≤ 32)

/-- MALFORMED of 06 R176. -/
def tcbMalformed (img : Nat) : Bool :=
  !footOk (bitsN img 261 260) (bitsN img 259 254) (bitsN img 243 228) 1 || bitsN img 306 292 != 0 || bitsN img 200 0 != 0
    || decide (3 < bitsN img 261 260)

/-! ### Steps -/

/-- Bytes of the object that a step acts on (05 R126; 08 R222, R223; 11 R287). -/
def stepSize : Instr → Nat
  | .semwaitDraw _ _ | .semwait _ _ | .sempost _ _ => 8
  | .rpushRsv _ _ | .rpopTake _ _ | .rpeek _ _ | .rpushPub _ _ | .rpopFree _ _ => 32
  | .tsignal _ | .tcond _ _ => 4
  | _ => 16

/-- Whether a step is an atomic operation, of two bank accesses; BWAIT and BTEST are single reads (05 R126). -/
def stepAtomic : Instr → Bool
  | .bwait _ _ _ | .btest _ _ _ => false
  | _ => true

/-- Whether a step is an arrival, which needs a record (05 R131). -/
def stepArrives : Instr → Bool
  | .arrive _ _ => true
  | _ => false

/-- The operand codes that may name a literal word (07 R179). -/
def stepCodes : Instr → List Nat
  | .announceIn _ n | .announceOut _ n => [n]
  | .bwait _ _ g => [g]
  | .semwait _ t => [t]
  | .sempost _ k => [k]
  | .rpushPub _ j | .rpopFree _ j => [j]
  | .tsignal a | .spawn _ a => [a]
  | .tcond v a => [a, v]
  | _ => []

/-- The fault that a step meets in its object (05 R128, R135; 11 R288). -/
def stepBad (i : Instr) (x o : Nat) : Option Trap :=
  match i with
  | .announceIn _ _ | .announceOut _ _ | .arrive _ _ => if (Bar.ofImage o).malformed then some (trapBarrier 1) else none
  | .bwait _ _ _ | .btest _ _ _ =>
    if (Bar.ofImage o).malformed then some (trapBarrier 1) else if (Bar.ofImage o).ovr then some (trapBarrier 0) else none
  | .rpushRsv _ _ | .rpopTake _ _ | .rpeek _ _ => if ringBad o then some trapOpnd else none
  | .rpushPub _ _ => if ringBad o || !(decide (x < ringSlots o) && ringState o x == 1) then some trapOpnd else none
  | .rpopFree _ _ => if ringBad o || !(decide (x < ringSlots o) && ringState o x == 3) then some trapOpnd else none
  | _ => none

/-- The image that a step leaves of an object it found sound. `once` says of an ARRIVE that it is the final one (05 R131), of a drawn
SEMWAIT that it draws (11 R286). -/
def stepNew (i : Instr) (once : Bool) (x o : Nat) : Nat :=
  match i with
  | .announceIn _ _ => ((Bar.ofImage o).step (.announceIn x)).image
  | .announceOut _ _ => ((Bar.ofImage o).step (.announceOut x)).image
  | .arrive _ _ => if once then ((Bar.ofImage o).step .arriveFinal).image else o
  | .semwaitDraw _ _ => if once then o % 2 ^ 32 + 2 ^ 32 * ((o / 2 ^ 32 + 1) % 2 ^ 32) else o
  | .sempost _ _ => o / 2 ^ 32 * 2 ^ 32 + (o % 2 ^ 32 + x) % 2 ^ 32
  | .rpushRsv _ _ =>
    if ringState o (ringWi o) = 0 then ringSet o (ringWi o) 1 - ringW o * 2 ^ 64 + (ringW o + 1) % 2 ^ 32 * 2 ^ 64 else o
  | .rpopTake _ _ =>
    if ringState o (ringRi o) = 2 then ringSet o (ringRi o) 3 - ringR o * 2 ^ 96 + (ringR o + 1) % 2 ^ 32 * 2 ^ 96 else o
  | .rpushPub _ _ => ringSet o x 2
  | .rpopFree _ _ => ringSet o x 0
  | .tsignal _ => (o + 1) % 2 ^ 32
  | .tcond _ _ => x
  | .spawn _ _ =>
    if bitsN o 57 55 ≠ 0 then o
    else o - fieldN (bitsN o 54 52) 52 3 + fieldN (x + 1) 52 3 + fieldN (if bitsN o 73 58 = 0 then 2 else 1) 55 3
  | _ => o

/-- An arrival of active lanes at an object (05 R131): the mask its record then has, whether it is the warp's final one there, and
whether there is a record for it. -/
def State.arrival (s : State) (c : Ctx) (va : Nat) : LaneMask × Bool × Bool :=
  let old := c.w.arrive.find? (fun r => r.addr == va)
  let m := ((old.map (·.mask)).getD 0#96) ||| c.act
  let final := s.liveLanes c.key &&& ~~~m == 0#96
  (m, final, final || old.isSome || decide ((c.w.arrive.filter (fun r => r.addr != va)).length < 4))

/-- A path goes on past its step, which spinning does not outlive (06 R172). -/
def State.pastStep (s : State) (c : Ctx) (i : Instr) : State := (s.finish c (c.npc (stepCodes i)) .keep).clearSpin c

/-- A path goes on past an acquire step (11 R279). -/
def State.pastAcquire (s : State) (c : Ctx) (i : Instr) (back : Nat) : State :=
  (s.acquireHold c back).finish c (c.npc (stepCodes i)) .keep

/-- The check of a ticket (05 R138): the path goes on or waits; a drawn ticket is forgotten at the grant (11 R286). -/
def State.semCheck (s : State) (c : Ctx) (i : Instr) (j : StepJob) (img t : Nat) : State :=
  if semGranted img t then (s.updNode c.key c.nid (fun n => { n with tkv := false })).pastAcquire c i j.back
  else s.waitOn c j.pa 1

/-- What a step does to its path once its object is written (05 R131, R135, R138; 06 R176; 11 R288): the state, and the result that
its write-back will bring. `o` is the image found. -/
def State.stepAfter (s : State) (c : Ctx) (i : Instr) (j : StepJob) (o : Nat) : State × Option Nat :=
  match i with
  | .arrive _ _ =>
    let a := s.arrival c j.va
    let gen := (Bar.ofImage o).gen
    let old := c.w.arrive.find? (fun r => r.addr == j.va)
    let others := c.w.arrive.filter (fun r => r.addr != j.va)
    let rec1 : ArriveRec := ⟨j.va, a.1, (old.map (·.gen)).getD gen⟩
    ((s.updWarp c.key (fun w => { w with arrive := if a.2.1 then others else others ++ [rec1] })).pastStep c i, some gen)
  | .bwait _ _ _ =>
    if (Bar.ofImage o).gen ≠ j.x then (s.pastAcquire c i j.back, some (o % 2 ^ 32)) else (s.waitOn c j.pa 0, none)
  | .btest p _ _ =>
    let done := decide ((Bar.ofImage o).gen ≠ j.x)
    let s1 := s.updWarp c.key (fun w => w.setP p c.act (if done then c.act else 0#96))
    (if done then s1.pastAcquire c i j.back else s1.finish c (c.npc []) .keep, some (o % 2 ^ 32))
  | .semwaitDraw _ _ =>
    if c.p.tkv then (s.semCheck c i j o c.p.tkt.toNat, none)
    else
      let t := o / 2 ^ 32
      ((s.updNode c.key c.nid (fun n => { n with tkv := true, tkt := BitVec.ofNat 32 t })).semCheck c i j o t, some t)
  | .semwait _ _ => (s.semCheck c i j o j.x, none)
  | .rpushRsv _ _ =>
    if ringState o (ringWi o) = 0 then (s.pastAcquire c i j.back, some (ringWi o))
    else (s.finish c (c.npc []) .keep, some 0xffffffff)
  | .rpopTake _ _ =>
    if ringState o (ringRi o) = 2 then (s.pastAcquire c i j.back, some (ringRi o)) else (s.waitOn c j.pa 2, none)
  | .rpeek _ _ =>
    if ringState o (ringRi o) = 2 then (s.pastAcquire c i j.back, some (ringRi o))
    else (s.finish c (c.npc []) .keep, some 0xffffffff)
  | .spawn _ _ =>
    if bitsN o 57 55 ≠ 0 then (s.pastStep c i, some 3)
    else
      let x : TaskItem := ⟨c.w.launch, c.w.ctx, j.va, (c.p.step.map (·.img)).getD 0, c.w.taskDepth + 1, c.w.strip⟩
      let s1 := if bitsN o 73 58 = 0 then { s with taskQ := s.taskQ ++ [x] } else { s with waitTasks := s.waitTasks ++ [x] }
      (s1.pastStep c i, some 0)
  | _ => (s.pastStep c i, none)

/-- A step of a path: poison raises POISON_USE on every active lane (05 R146), a fault in the object its own; else the object is
written and the path goes on or waits. -/
def State.runStep (s : State) (c : Ctx) (i : Instr) (j : StepJob) : Except Trap (State × Option Nat) := do
  let n := stepSize i
  let r := s.mem.readSpan j.pa n
  let s1 := s.setMem r.2.2
  needAt (!r.2.1) s1 (.all 5 j.va)
  match stepBad i j.x r.1 with
  | some t => sunkTrap s1 t
  | none =>
    let a := s1.arrival c j.va
    needAt (!stepArrives i || a.2.2) s1 (trapBarrier 2)
    let once := if stepArrives i then a.2.1 else !c.p.tkv
    let s2 := s1.setMem (s1.mem.storeAtomic j.pa n r.1 (stepNew i once j.x r.1))
    return s2.stepAfter c i j r.1

/-- A step whose path is gone acts on its object alone; an arrival of lanes that are gone counts for nothing (05 R131). -/
def Sram.loneStep (m : Sram) (i : Instr) (j : StepJob) : Sram :=
  let n := stepSize i
  let r := m.readSpan j.pa n
  if r.2.1 || (stepBad i j.x r.1).isSome then r.2.2 else r.2.2.storeAtomic j.pa n r.1 (stepNew i false j.x r.1)

/-- The path that a step belongs to, if it still stands at its instruction. -/
def State.stepCtx (s : State) (key : Nat) (j : StepJob) : Option Ctx :=
  match s.warp key with
  | none => none
  | some w =>
    let p := s.node key j.nid
    if p.kind == .path && p.mask != 0#96 && (p.step.map (·.at_)) == some j.at_ then some ⟨key, j.nid, w, p, 0#32, j.act &&& p.mask⟩
    else none

/-- The state that a trap leaves standing. -/
def Trap.base (s : State) : Trap → State
  | .sunk s1 _ => s1
  | _ => s

/-- A step that meets a fault (05 R126): the path takes it, unless its warp is parked already, in which case the instruction is executed
afresh after the resume. -/
def State.stepFault (s : State) (c : Ctx) (t : Trap) : State :=
  let s1 := if c.w.status == .parked then t.base s else s.takeTrap c.key c.nid c.act t
  s1.updNode c.key c.nid (fun n => { n with step := none })

/-- A step at its bank slot `at_` (04 R95; 05 R126): the state, and the result to write back. -/
def State.serveStep (s : State) (key at_ : Nat) (j : StepJob) : State × Option Nat :=
  let s0 := { s with clk := at_ }
  let r : State × Option Nat := match j.instr with
    | none => (match s0.mem.barStep j.pa .arriveFinal with
      | some (_, m) => s0.setMem m
      | none => s0, none)
    | some i =>
      match s0.stepCtx key j with
      | none => (s0.setMem (s0.mem.loneStep i j), none)
      | some c =>
        match s0.runStep c i j with
        | .ok r => (r.1.updNode key j.nid (fun n => { n with step := none }), r.2)
        | .error t => (s0.stepFault c t, none)
  ({ r.1 with clk := s.clk }, r.2)

/-! ### Sending a step, or a read that a path waits for -/

/-- The write-back time of a step on an object, atomic (12 + 4h) or a single read (11 + 4h) (05 R126). -/
def stepBack (s : State) (c : Ctx) (pa : Nat) (atomic : Bool) : Nat :=
  s.coreClk (coreOf c.key) (4 * hops (coreOf c.key) (granSlice (granOf pa)) + (if atomic then 12 else 11))

/-- Where a result in register `d` of the active lanes, or in an s-register, goes (11 R285). -/
def Ctx.dstOf (c : Ctx) (d : Nat) : FlightDst := if isS d then .uni (d - 64) 1 else .lanes (c.p.wb + d) 1

/-- The parts of an access that brings one word to a destination. -/
def Ctx.wordParts (c : Ctx) (d : Option Nat) (pa : Nat) : List AccPart :=
  (match d with
    | some d => if isS d then [c.low] else lanesOf c.act
    | none => []).map (fun l => { lane := l, pa := pa, n := 4 })

/-- A path stands at an instruction until what it asked for is back: it issues nothing before the clk `back` (05 R126). -/
def State.standing (s : State) (c : Ctx) (h : HalfIssue) (back : Nat) : State :=
  (s.updNode c.key c.nid (fun p => { p with stop := max p.stop back, step := some h })).killY c.key

/-- A step on an object is on its way to its bank slot (05 R126; 02 R46, R47); `d` is the register that its result goes to. `first` is
false for the second issue of an instruction (02 R64). -/
def State.sendStep (s : State) (c : Ctx) (i : Instr) (va pa x : Nat) (d : Option Nat) (h : HalfIssue) (first : Bool := true) : State :=
  let g := granOf pa
  let accs := if stepAtomic i then [(0, g), (0, g)] else [(0, g)]
  let back := stepBack s c pa (stepAtomic i)
  let j : StepJob := ⟨some i, c.nid, h.at_, c.act, va, pa, x, back⟩
  let dst := (d.map c.dstOf).getD .none
  let acc : BankAcc := { beat := 0, gran := g, slot := s.slotAt s.clk (coreOf c.key) g, parts := c.wordParts d pa }
  ((s.noteAccess c.key 1 accs first).fly c.key c.w (.step j) dst c.act 1 (latencyL (coreOf c.key) 1 accs) [acc]).standing c h back

/-- A path reads `n` bytes at issue, as one uniform access (02 R46; 08 R222; 12 R332; 13 R339): what it found reaches the path at the
write-back time. -/
def State.sendRead (s : State) (c : Ctx) (pa n : Nat) (h : HalfIssue) : State :=
  let core := coreOf c.key
  let gs := (List.range ((n + 31) / 32)).map (fun i => (0, granOf pa + i))
  let parts := gs.map (fun g => (0, ({ lane := 0, pa := 32 * g.2, n := 32 } : AccPart)))
  let L := latencyL core 1 gs
  ((s.noteAccess c.key 1 gs).fly c.key c.w (.load true) (.half c.nid h.at_) c.act 1 L (bankAccs (s.accessSlots core gs) parts)).standing c h
    (s.coreClk core L)

end Sys2Proof.Machine
end

