-- ==== Sys2Proof/Machine/Slots.lean ====
section
/-! DEFINITION. The passing of bank slots: what is in flight takes effect there, in their order (02 R48, R65; 04 R95). -/
namespace Sys2Proof.Machine

/-- An instruction in flight one of whose accesses has been a step with a result, or with none to write back. -/
def Flight.stepped (f : Flight) (j : Nat) (a : BankAcc) (x : Option Nat) : Flight :=
  let done (ps : List AccPart) : List BankAcc := setAt f.accs j { a with served := true, parts := ps }
  match x with
  | some v => { f with accs := done (a.parts.map (fun p => { p with got := v })) }
  | none => { f with accs := done a.parts, dst := .none, backs := [] }

/-- The access at a place of an instruction in flight takes effect. -/
def State.serveAt (s : State) (i j : Nat) : State :=
  match s.flights[i]? with
  | none => s
  | some f =>
    match f.accs[j]? with
    | none => s
    | some a =>
      if a.served then s else
      match f.op with
      | .step job =>
        let r := s.serveStep f.key a.slot job
        { r.1 with flights := setAt r.1.flights i (f.stepped j a r.2) }
      | _ =>
        let r := s.mem.serve f.agent f.op a
        { s with mem := r.2, flights := setAt s.flights i { f with accs := setAt f.accs j r.1 } }

/-- The accesses in flight that meet a test and are not yet served: slot, instruction, place. -/
def State.unserved (s : State) (test : BankAcc → Bool) : List (Nat × Nat × Nat) :=
  (s.flights.zip (List.range s.flights.length)).flatMap (fun f =>
    ((f.1.accs.zip (List.range f.1.accs.length)).filter (fun a => !a.1.served && test a.1)).map (fun a => (a.1.slot, f.2, a.2)))

/-- Accesses in flight take effect in the order of their bank slots (04 R95). -/
def State.serveWhere (s : State) (test : BankAcc → Bool) : State :=
  (sortBy (fun a b => decide (a.1 ≤ b.1)) (s.unserved test)).foldl (fun st x => st.serveAt x.2.1 x.2.2) s

/-- The bank slots before `till` pass (02 R48, R65): their accesses take effect and are counted; calendars forget them, and
instructions in flight with nothing left to serve or deliver end. -/
def State.passSlots (s : State) (till : Nat) : State :=
  let s1 := s.serveWhere (fun a => decide (a.slot < till))
  let past := s1.slotsHeld.filter (fun b => decide (b.slot < till))
  let m := past.foldl (fun (m : Sram) b => m.updCtr (granSlice b.gran) (fun c =>
    if b.own then { c with locacc := satAdd c.locacc 1 64, used := c.used + 1 }
    else { c with meshacc := satAdd c.meshacc 1 64, used := c.used + 1 })) s1.mem
  { s1 with mem := m, slotsHeld := s1.slotsHeld.filter (fun b => decide (till ≤ b.slot)),
            cal := s1.cal.filter (fun e => decide (till ≤ e.1 / 32768)),
            flights := s1.flights.filter (fun f => f.dst != .none || f.accs.any (fun a => !a.served)) }

/-- The final arrivals that exits have left to a warp are sent to their bank slots once its accesses let a release issue and their
reservations succeed (05 R132; 04 R102). DESIGN CHOICE (log 85): one whose object does not translate, is malformed or is poisoned
does nothing, since no instruction is there to take a fault. -/
def State.doFinals (s : State) (key : Nat) : State :=
  match s.warp key with
  | none => s
  | some w =>
    if !s.released key then s else
    w.finals.foldl (fun st a =>
      let drop (t : State) : State := t.updWarp key (fun v => { v with finals := v.finals.erase a })
      match st.translate key a 16 needRWAT with
      | .ok pa =>
        let core := coreOf key
        let g := granOf pa
        let accs := [(0, g), (0, g)]
        let j : StepJob := ⟨none, 64, s.clk, 0#96, a, pa, 0, 0⟩
        if st.clear (some key) st.clk (st.coreClk core) core 1 accs then
          drop ((st.reserveFrom (st.coreClk core) core 1 (some key) accs).fly key w (.step j) .none 0#96 1 0
            [{ beat := 0, gran := g, slot := st.slotAt st.clk core g, parts := [] }])
        else st
      | .error _ => drop st) s

/-- An access of the step of another unit reaches bank words at once: what is in flight to them with an earlier slot takes effect
first, so that every bank word keeps one order (04 R95, R101; log 20). -/
def State.catchUp (s : State) (gs : List Nat) (till : Nat) : State :=
  s.serveWhere (fun a => gs.contains a.gran && decide (a.slot ≤ till))

end Sys2Proof.Machine
end

