-- ==== Sys2Proof/Machine/Sync.lean ====
section
/-! DEFINITION. Barrier, semaphore and stage-ring instructions (05 R126-R138; 11 R284-R289): each sends its step or check to the bank
slot of its object, where Steps.lean has it act. -/
namespace Sys2Proof.Machine

/-- Writes a result to an s-register once, or to a v-register in every active lane (11 R285). -/
def State.putResult (s : State) (c : Ctx) (d x : Nat) : State :=
  let v : Val := ⟨BitVec.ofNat 32 x, false⟩
  s.updWarp c.key (fun w =>
    if isS d then w.setS (d - 64) v else (lanesOf c.act).foldl (fun (a : Warp) l => a.setVAt (c.p.wb + d) l v) w)

/-- The shape of a synchronisation instruction: operand check, one action when any lane is active (05 R126). The action ends
the instruction itself. -/
def execSync (s : State) (chk : Bool) (codes : List Nat) (body : Ctx → State → Except Trap State) :
    Host.Outcome State Fault Refusal :=
  issuing s true fun c s1 => do
    need chk trapOpnd
    if c.any then body c s1 else return (s1.noteAccess c.key 1 []).finish c (c.npc codes) .kill

/-- The instruction `i` acts on the object at `q`, translated with need `nd`; `x` is its operand and `d` the register its result goes
to (05 R126). -/
def State.actOn (s : State) (c : Ctx) (i : Instr) (q nd x : Nat) (d : Option Nat) : Except Trap State := do
  let o ← s.object c q (stepSize i) nd
  return s.sendStep c i o.1 o.2 x d { instr := i, at_ := s.clk }

/-! ### Barriers -/

/-- 05 R129 BINIT. -/
def execBinit (q e : Nat) (s : State) : Host.Outcome State Fault Refusal :=
  execSync s (uaddrOk q && uniOk e) [e] fun c s1 => do
    let n ← c.uval e
    need (decide (1 ≤ n ∧ n ≤ 4095)) trapOpnd
    let o ← s1.object c q 16 needW
    let img := Bar.image { outb := 0, inb := 0, armed := true, txerr := false, ovr := false, expect := n, pend := n, gen := 0,
                           resv := false }
    let accs := [(0, granOf o.2)]
    let bs := bankAccs (s1.accessSlots (coreOf c.key) accs) [(0, { lane := c.low, pa := o.2, n := 16, x := img })]
    let s2 := (s1.noteAccess c.key 1 accs).fly c.key c.w .store .none (maskOf [c.low]) 1 0 bs
    return (s2.notePlainWrites c bs).finish c (c.npc [e]) .kill

/-- 05 R130 ANNOUNCE.IN. -/
def execAnnounceIn (q n : Nat) (s : State) : Host.Outcome State Fault Refusal :=
  execSync s (uaddrOk q && uniOk n) [n] fun c s1 => do
    let x ← c.uval n
    s1.actOn c (.announceIn q n) q needRWAT x none

/-- 05 R130 ANNOUNCE.OUT. -/
def execAnnounceOut (q n : Nat) (s : State) : Host.Outcome State Fault Refusal :=
  execSync s (uaddrOk q && uniOk n) [n] fun c s1 => do
    let x ← c.uval n
    s1.actOn c (.announceOut q n) q needRWAT x none

/-- 05 R131 ARRIVE. -/
def execArrive (d q : Nat) (s : State) : Host.Outcome State Fault Refusal :=
  execSync s (decide (d ≤ 95) && uaddrOk q) [] fun c s1 => s1.actOn c (.arrive d q) q needRWAT 0 (some d)

/-- 05 R135 BWAIT: complete, waiting, or BARRIER_OVERRUN. -/
def execBwait (d q g : Nat) (s : State) : Host.Outcome State Fault Refusal :=
  execSync s (decide (d ≤ 95) && uaddrOk q && uniOk g) [g] fun c s1 => do
    let x ← c.uval g
    s1.actOn c (.bwait d q g) q needR x (some d)

/-- 05 R135 BTEST. -/
def execBtest (p q d : Nat) (s : State) : Host.Outcome State Fault Refusal :=
  execSync s (decide (p ≤ 6 ∧ d ≤ 95) && uaddrOk q) [] fun c s1 => do
    let x := c.opnd d c.low
    need (!x.psn) (.all 5 0)
    s1.actOn c (.btest p q d) q needR x.bits.toNat (some d)

/-! ### Semaphores -/

/-- 05 R138 SEMWAIT, drawn form: the draw is made once (11 R286). -/
def execSemwaitDraw (d q : Nat) (s : State) : Host.Outcome State Fault Refusal :=
  execSync s (isS d && uaddrOk q) [] fun c s1 => s1.actOn c (.semwaitDraw d q) q needRWAT 0 (if c.p.tkv then none else some d)

/-- 05 R138 SEMWAIT, given form. -/
def execSemwait (q t : Nat) (s : State) : Host.Outcome State Fault Refusal :=
  execSync s (uaddrOk q && uniOk t) [t] fun c s1 => do
    let x ← c.uval t
    s1.actOn c (.semwait q t) q needRWAT x none

/-- 05 R138 SEMPOST. -/
def execSempost (q k : Nat) (s : State) : Host.Outcome State Fault Refusal :=
  execSync s (uaddrOk q && uniOk k) [k] fun c s1 => do
    let x ← c.uval k
    need (decide (x ≤ 65535)) trapOpnd
    s1.actOn c (.sempost q k) q needRWAT x none

/-! ### Stage rings -/

/-- The ring steps that return a slot (11 R288): `i` is the instruction, `p` its destination. -/
def execRingGet (i : Instr) (p q : Nat) (s : State) : Host.Outcome State Fault Refusal :=
  issuing s true fun c s1 => do
    need (p != 0) trapInstr
    need (isS p && uaddrOk q) trapOpnd
    if c.any then s1.actOn c i q needRWAT 0 (some p) else return (s1.noteAccess c.key 1 []).finish c (c.npc []) .kill

/-- 11 R288 RPUSH.RSV. -/
def execRpushRsv (p q : Nat) (s : State) : Host.Outcome State Fault Refusal := execRingGet (.rpushRsv p q) p q s
/-- 11 R288 RPOP.TAKE. -/
def execRpopTake (p q : Nat) (s : State) : Host.Outcome State Fault Refusal := execRingGet (.rpopTake p q) p q s
/-- 11 R288 RPEEK. -/
def execRpeek (p q : Nat) (s : State) : Host.Outcome State Fault Refusal := execRingGet (.rpeek p q) p q s

/-- Publish and free (11 R288): `i` is the instruction, `j` the slot. -/
def execRingPut (i : Instr) (q j : Nat) (s : State) : Host.Outcome State Fault Refusal :=
  issuing s true fun c s1 => do
    need (j != 0) trapInstr
    need (uaddrOk q && uniOk j) trapOpnd
    if c.any then
      let x ← c.uval j
      s1.actOn c i q needRWAT x none
    else return (s1.noteAccess c.key 1 []).finish c (c.npc [j]) .kill

/-- 11 R288 RPUSH.PUB. -/
def execRpushPub (q j : Nat) (s : State) : Host.Outcome State Fault Refusal := execRingPut (.rpushPub q j) q j s
/-- 11 R288 RPOP.FREE. -/
def execRpopFree (q j : Nat) (s : State) : Host.Outcome State Fault Refusal := execRingPut (.rpopFree q j) q j s

end Sys2Proof.Machine
end

