-- ==== Sys2Proof/Machine/Tickets.lean ====
section
/-! DEFINITION. Hod command instructions, tickets, and waiting for them (03 R77; 08 R219; 11 R290-R299, R306). -/
namespace Sys2Proof.Machine

/-! ### Queues and tickets -/

/-- A Hod's queue. -/
def Hod.queue (h : Hod) (q : Nat) : HodQueue := sget {} h.qs q
/-- Replaces a Hod's queue. -/
def Hod.setQueue (h : Hod) (q : Nat) (x : HodQueue) : Hod := { h with qs := sput {} h.qs q x }
/-- A transfer slot. -/
def Hod.slot (h : Hod) (i : Nat) : Option Xfer := sget none h.slots i
/-- Replaces a transfer slot. -/
def Hod.setSlot (h : Hod) (i : Nat) (x : Option Xfer) : Hod := { h with slots := sput none h.slots i x }
/-- Changes a Hod. -/
def State.updHod (s : State) (core : Nat) (f : Hod → Hod) : State := s.setHod core (f (s.hod core))
/-- Changes a Hod's counters. -/
def State.countHod (s : State) (core : Nat) (f : HodCtr → HodCtr) : State := s.updHod core (fun h => { h with ctr := f h.ctr })

/-- Depth of a Hod's queue (03 R77). -/
def hodDepth (q : Nat) : Nat := if q < 16 then 8 else if q = 16 then 32 else 16

/-- Ticket of a sequence number of a Hod queue (11 R292). -/
def hodTicket (core q seq : Nat) : Nat :=
  if q = 16 then fieldN 2 30 2 + fieldN core 22 8 + fieldN seq 0 18
  else fieldN core 22 8 + fieldN q 18 4 + fieldN seq 0 18

/-- `TKIND` of a ticket. -/
def tkKind (t : Nat) : Nat := bitsN t 31 30
/-- `CORE` of a ticket. -/
def tkCore (t : Nat) : Nat := bitsN t 29 22
/-- `SEQ` of a ticket. -/
def tkSeq (t : Nat) : Nat := bitsN t 17 0
/-- The Hod queue a ticket names. -/
def tkQueue (t : Nat) : Nat := if tkKind t = 2 then 16 else bitsN t 21 18
/-- A ticket that may be used (11 R292). -/
def ticketOk (t : Nat) : Bool :=
  tkKind t != 3 && decide (tkCore t ≤ 191) && (tkKind t == 0 || bitsN t 21 18 == 0)

/-- The completion test of 11 R292. -/
def seqDone (cseq seq : Nat) : Bool :=
  let d := (cseq + 2 ^ 18 - seq) % 2 ^ 18
  decide (1 ≤ d ∧ d ≤ 2 ^ 17)

/-- Whether a ticket is complete. -/
def State.ticketDone (s : State) (t : Nat) : Bool :=
  seqDone (if tkKind t = 1 then (sget {} s.fabs (tkCore t)).cseq else ((s.hod (tkCore t)).queue (tkQueue t)).cseq) (tkSeq t)

/-- Adds a command to a Hod queue: the state and the command's sequence number. -/
def State.queueHod (s : State) (core q : Nat) (c : HodCmd) : State × Nat :=
  let h := s.hod core
  let x := h.queue q
  (s.setHod core (h.setQueue q { x with cmds := x.cmds ++ [{ c with seq := x.nseq }], nseq := (x.nseq + 1) % 2 ^ 18 }), x.nseq)

/-- Whether a Hod queue is full (03 R77). -/
def State.hodFull (s : State) (core q : Nat) : Bool := decide (((s.hod core).queue q).cmds.length ≥ hodDepth q)

/-! ### Waits that end -/

/-- A waiting path passes its instruction and goes on at an address (11 R298; 08 R219). -/
def State.passWait (s : State) (key nid : Nat) (npc : Word) : State :=
  let m := (s.node key nid).mask
  (s.updNode key nid (fun n => { n with wait := .none, pc := npc, since := s.clk })).updWarp key (fun w =>
    ({ w with cnt := bumpCounts w.cnt m } : Warp).dropY [nid])

/-- Nodes of every warp in a slot. -/
def State.allNodes (s : State) : List (Nat × Nat) :=
  s.warps.flatMap (fun x => (64 :: s.entries x.1).map (fun i => (x.1, i)))

/-- Paths registered on a queue whose ticket has completed go on (11 R298). -/
def State.wakeTickets (s : State) : State :=
  s.allNodes.foldl (fun st x =>
    match (st.node x.1 x.2).wait with
    | .ticket t npc none => if st.ticketDone t then st.passWait x.1 x.2 npc else st
    | _ => st) s

/-- Paths at an AWAIT whose condition holds go on (08 R219). -/
def State.wakeAwaits (s : State) (key : Nat) : State :=
  (64 :: s.entries key).foldl (fun st i =>
    match (st.node key i).wait, st.warp key with
    | .await n cont, some w => if w.ocp = 0 ∧ w.oc ≤ n then st.passWait key i cont else st
    | _, _ => st) s

/-- Whether a forked command is free of the texture-unit instructions and TRACE that its warp issued before it (04 R107). -/
def State.forkFree (s : State) (team warp issued : Nat) : Bool :=
  match s.warpKey team warp with
  | some k => s.jobsDone k issued
  | none => true

/-- A command's completion lowers the counts of the warp that issued it (08 R219). -/
def State.lowerOc (s : State) (team warp epoch : Nat) : State :=
  match s.warpKey team warp with
  | none => s
  | some k =>
    (s.updWarp k (fun w => { w with oc := w.oc - 1, ocp := if epoch < w.epoch then w.ocp - 1 else w.ocp })).wakeAwaits k

/-! ### Command instructions -/

/-- HCOPY to HMETA (11 R290, R291): `op` is `SUB`. -/
def execHodCmd (op p q : Nat) (s : State) : Host.Outcome State Fault Refusal :=
  issuing s true fun c s1 => do
    need ((p == 0 || isS p) && uaddrOk q) trapOpnd
    if !c.any then return s1.finish c (c.npc []) .kill
    else
      let x := c.addr q 0
      need (!x.2) (.all 5 x.1)
      need (x.1 % 64 == 0) (.all 3 x.1)
      let core := coreOf c.key
      let sub := subOf c.key
      if s1.hodFull core sub then
        return s1.countHod core (fun k => { k with qfull := satAdd k.qfull 1 32 })
      else
        let r := s1.queueHod core sub { op := op, ctx := c.w.ctx, team := some c.w.team, warp := c.w.warpId, epoch := c.w.epoch,
                                        recAddr := x.1, strip := c.w.strip, ash := ((s1.team c.w.team).map (·.ash)).getD false, pad := (s1.team c.w.team).map Team.pad, ready := max s1.clk c.w.releaseAt, issued := s1.clk }
        let s2 := r.1.updWarp c.key (fun w => { w with oc := w.oc + 1 })
        let s3 := if p = 0 then s2 else s2.putResult c p (hodTicket core sub r.2)
        return s3.finish c (c.npc []) .kill

/-- 11 R290 HCOPY. -/
def execHcopy (p q : Nat) (s : State) : Host.Outcome State Fault Refusal := execHodCmd 0 p q s
/-- 11 R290 HCOPYS. -/
def execHcopys (p q : Nat) (s : State) : Host.Outcome State Fault Refusal := execHodCmd 1 p q s
/-- 11 R290 HGATHER. -/
def execHgather (p q : Nat) (s : State) : Host.Outcome State Fault Refusal := execHodCmd 2 p q s
/-- 11 R290 HSCATTER. -/
def execHscatter (p q : Nat) (s : State) : Host.Outcome State Fault Refusal := execHodCmd 3 p q s
/-- 11 R290 HSTAGE. -/
def execHstage (p q : Nat) (s : State) : Host.Outcome State Fault Refusal := execHodCmd 4 p q s
/-- 11 R290 HEVICT. -/
def execHevict (p q : Nat) (s : State) : Host.Outcome State Fault Refusal := execHodCmd 5 p q s
/-- 11 R290 HFILL. -/
def execHfill (p q : Nat) (s : State) : Host.Outcome State Fault Refusal := execHodCmd 6 p q s
/-- 11 R290 HMETA. -/
def execHmeta (p q : Nat) (s : State) : Host.Outcome State Fault Refusal := execHodCmd 7 p q s

/-- 11 R297 HLDR. A lane whose address is poisoned parts (04 R115); the others are queued as one command. -/
def execHldr (p q z : Nat) (s : State) : Host.Outcome State Fault Refusal :=
  issuing s true fun c s1 => do
    need (decide (2 ≤ z ∧ z ≤ 4)) trapInstr
    need (decide (p < 64) && regSpan p z && decide (q < 64) && addrOk q) trapOpnd
    let xs := (lanesOf c.act).map (fun l => (l, c.addr q l))
    let fs : List LaneFault := (xs.filter (fun x => x.2.2)).map (fun x => ⟨x.1, 5, x.2.1, 0⟩)
    let good := (xs.filter (fun x => !x.2.2)).map (fun x => (x.1, x.2.1))
    let core := coreOf c.key
    let sub := subOf c.key
    if good.isEmpty then return s1.finish c (c.npc []) .kill fs
    else if s1.hodFull core sub then
      return if fs.isEmpty then s1.countHod core (fun k => { k with qfull := satAdd k.qfull 1 32 })
        else s1.takeLaneFaults c.key c.nid c.act fs c.p.pc
    else
      let r := s1.queueHod core sub { op := 9, ctx := c.w.ctx, team := some c.w.team, warp := c.w.warpId, epoch := c.w.epoch,
                                      strip := c.w.strip, pad := (s1.team c.w.team).map Team.pad,
                                      ready := max s1.clk c.w.releaseAt, issued := s1.clk, dst := p, wb := c.p.wb, sz := z,
                                      lanes := good }
      let pd : Pend := { nid := c.nid, dst := p, num := regsOf z, mask := maskOf (good.map (·.1)), wb := c.p.wb, due := 0,
                         del := .hldr r.2 }
      let s2 := r.1.updWarp c.key (fun w => { w with oc := w.oc + 1, pend := w.pend ++ [pd] })
      return s2.finish c (c.npc []) .kill fs

/-! ### Asking about a ticket -/

/-- The clk at which a queue's answer returns (11 R298). -/
def answerAt (s : State) (c : Ctx) (t : Nat) : Nat := s.coreClk (coreOf c.key) (12 + 4 * hops (coreOf c.key) (tkCore t))

/-- 11 R298 WAITC: the path asks the queue that the ticket names. -/
def execWaitc (a : Nat) (s : State) : Host.Outcome State Fault Refusal :=
  issuing s true fun c s1 => do
    need (uniOk a) trapOpnd
    if !c.any then return s1.finish c (c.npc [a]) .kill
    else
      let t ← c.uval a
      need (ticketOk t) trapOpnd
      return (s1.updNode c.key c.nid (fun n => { n with wait := .asking t (c.npc [a]) (answerAt s1 c t) })).killY c.key

/-- HQUERY and RSTAT: two registers are pending until the answer returns, and so are the path's later memory, synchronisation and
engine instructions (11 R279). -/
def execAsk (p q : Nat) (rstat : Bool) (s : State) : Host.Outcome State Fault Refusal :=
  issuing s true fun c s1 => do
    need (isS p && p % 2 == 0 && uniOk q) trapOpnd
    if !c.any then return s1.finish c (c.npc [q]) .kill
    else
      let t ← c.uval q
      need (ticketOk t && (if rstat then tkKind t == 1 else tkKind t != 1)) trapOpnd
      let pd : Pend := { nid := c.nid, dst := p, num := 2, mask := c.p.mask, wb := c.p.wb, due := answerAt s1 c t,
                         del := if rstat then .rstat t else .query t }
      return ((s1.updWarp c.key (fun w => { w with pend := w.pend ++ [pd] })).acquireHold c pd.due).finish c (c.npc [q]) .kill

/-- 11 R299 HQUERY. -/
def execHquery (p q : Nat) (s : State) : Host.Outcome State Fault Refusal := execAsk p q false s
/-- 11 R306 RSTAT. -/
def execRstat (p q : Nat) (s : State) : Host.Outcome State Fault Refusal := execAsk p q true s

/-- The status word and second word of HQUERY (11 R299). -/
def State.queryWords (s : State) (t : Nat) : Nat × Nat :=
  let h := s.hod (tkCore t)
  let x := h.queue (tkQueue t)
  if seqDone x.cseq (tkSeq t) then
    match x.log.find? (fun e => e.seq == tkSeq t) with
    | some e => (e.status + 32, e.bytes % 2 ^ 32)
    | none => (96, 0)
  else
    let mv := h.slots.findSome? (fun e => match e.2 with
      | some f => if f.q = tkQueue t ∧ f.cmd.seq = tkSeq t then some f.bytes else none
      | none => none)
    (0, (mv.getD 0) % 2 ^ 32)

/-- The status word and second word of RSTAT (11 R306). -/
def State.rstatWords (s : State) (t : Nat) : Nat × Nat :=
  let x := sget {} s.fabs (tkCore t)
  let pack (posted replays : Nat) : Nat := min posted 65535 + 65536 * min replays 65535
  if seqDone x.cseq (tkSeq t) then
    match x.log.find? (fun e => e.1 == tkSeq t) with
    | some e => (e.2.1 + 32, pack e.2.2.1 e.2.2.2)
    | none => (96, 0)
  else
    match x.cmds.find? (fun e => e.seq == tkSeq t) with
    | some e => (0, pack e.posted.length e.replays)
    | none => (0, 0)

/-- Registers of a queue's waiters (11 R298: at most 32). -/
def State.ticketWaiters (s : State) (t : Nat) : Nat :=
  (s.allNodes.filter (fun x => match (s.node x.1 x.2).wait with
    | .ticket u _ none => u / 2 ^ 18 == t / 2 ^ 18
    | _ => false)).length

/-- The check of a WAITC at its answer or at a recheck (11 R298). -/
def State.ticketCheck (s : State) (key nid t : Nat) (npc : Word) : State :=
  if s.ticketDone t then s.passWait key nid npc
  else s.updNode key nid (fun n => { n with
    wait := .ticket t npc (if s.ticketWaiters t < 32 then none else some (s.clk + 256)) })

/-- A delivered result is written and its registers are no longer pending: the first pending result of a path that meets a
test (11 R297). -/
def State.deliver (s : State) (key : Nat) (sel : Pend → Bool) (f : Pend → List (Nat × List Val)) (uni : Pend → List Val) :
    State :=
  match s.warp key with
  | none => s
  | some w =>
    match findAt sel w.pend with
    | none => s
    | some (i, pd) =>
      let w1 := { w with pend := dropAt w.pend i }
      let ix (vs : List Val) : List (Val × Nat) := vs.zip (List.range vs.length)
      let w2 := if isS pd.dst then (ix (uni pd)).foldl (fun (a : Warp) x => a.setS (pd.dst - 64 + x.2) x.1) w1
        else (f pd).foldl (fun (a : Warp) y =>
          (ix y.2).foldl (fun (b : Warp) x => b.setVAt (pd.wb + pd.dst + x.2) y.1 x.1) a) w1
      s.setWarp key (some w2)

/-- Two words as register values. -/
def pairVals (x : Nat × Nat) : List Val := [⟨BitVec.ofNat 32 x.1, false⟩, ⟨BitVec.ofNat 32 x.2, false⟩]

/-- 11 R298, R299, R306: a queue's answer arrives at a path, or a path that found the registrations full checks again. -/
def execTicketAnswer (k m : Nat) (s : State) : Host.Outcome State Fault Refusal :=
  .next <|
    match (s.node k m).wait with
    | .asking t npc due => if due ≤ s.clk then s.ticketCheck k m t npc else s
    | .ticket t npc (some due) => if due ≤ s.clk then s.ticketCheck k m t npc else s
    | _ =>
      s.deliver k (fun p => p.nid == m && decide (p.due ≤ s.clk) && (match p.del with
          | .query _ => true
          | .rstat _ => true
          | _ => false)) (fun _ => [])
        (fun p => match p.del with
          | .query t => pairVals (s.queryWords t)
          | .rstat t => pairVals (s.rstatWords t)
          | _ => [])

end Sys2Proof.Machine
end

