-- ==== Sys2Proof/Machine/Edge.lean ====
section
/-! DEFINITION. The paths of engine traffic over the mesh (02 R56-R58; 03 R80): edge stops, the beats of a Hod's units, and the way
to an LPDDR 6 controller and back (03 R81). -/
namespace Sys2Proof.Machine

/-! ### Paths -/

/-- The resource by which a Hod receives at most 256 bytes per clk (03 R76). -/
def hodIn (core : Nat) : Nat := 2304 + core

/-- What a request from a core to an edge stop reserves, leaving the core in `start` (02 R49-R51, R56). -/
def toEdge (core edge start : Nat) : List (Nat × Nat) :=
  let r := edgeRouter edge
  (start, core) :: (routeLinks core r).map (fun l => (start + 2 * l.2.2, l.1)) ++ [(start + 2 * hops core r, edgeLink edge 0)]

/-- What a response from an edge stop to a core reserves, leaving the stop in `start`. -/
def fromEdge (core edge start : Nat) : List (Nat × Nat) :=
  let r := edgeRouter edge
  (start, edgeLink edge 1) :: (routeLinks core r).map (fun l => (start + 2 * (hops core r - l.2.2), l.2.1))
    ++ [(start + 2 * edgeHops core edge, 192 + core)]

/-- A path is reserved, if it is free (02 R53, R56). -/
def State.tryPath (s : State) (rs : List (Nat × Nat)) : Option State :=
  if s.clear none 0 (fun _ => 0) 0 0 [] rs then some (s.reserveFrom (fun _ => 0) 0 0 none [] rs) else none

/-- A read or a store by an edge stop of one 256-byte unit, as engine and edge traffic (02 R56): it reserves from the first start that the
calendars allow and that gives no bank slot before `least` (log 96). The state, the last bank slot, and the clk of its completion (02 R49). -/
def State.edgeBeat (s : State) (edge fk agent : Nat) (op : AccOp) (dst : FlightDst) (pa n x psn : Nat) (least : Nat := 0) : State × Nat × Nat :=
  let ps := spanPieces 32 (n + 1) pa 0 n
  let slice := granSlice (granOf pa)
  let h := edgeHops slice edge
  let res (st : Nat) : List (Nat × Nat) := edgeResources edge slice st 1 ++ ps.map (fun p => (st + 4 + 2 * h, 4096 + bankOf (granOf p.1)))
  let from_ := max s.clk (least - (4 + 2 * h))
  let st := from_ + ((List.range 512).find? (fun m => s.clear none 0 (fun _ => 0) 0 0 [] (res (from_ + m)))).getD 512
  let slot := st + 4 + 2 * h
  let sl := ps.map (fun p => (0, granOf p.1, slot))
  let parts := ps.map (fun p => (0, ({ lane := p.2.1, pa := p.1, n := p.2.2, x := bytesAt x p.2.1 p.2.2,
                                       psn := psn / 2 ^ p.2.1 % 2 ^ p.2.2 != 0 } : AccPart)))
  let s1 := { s with cal := calAdd s.cal (res st), slotsHeld := s.slotsHeld ++ sl.map (fun a => ⟨a.2.1, a.2.2, false, none, s.clk⟩),
                     flights := s.flights ++ [⟨fk, agent, op, dst, 0#96, bankAccs sl parts, []⟩] }
  (if op = .store then sl.foldl (fun (st : State) a => st.setMem (st.mem.notePlain s.clk a.2.1 agent a.2.2)) s1 else s1,
    slot, st + 11 + 4 * h)

/-- The stop of an LPDDR 6 address (03 R80; 02 R57): `CHAN` div 2. -/
def lpStop (pa : Nat) : Nat := lpSub pa / 4

/-- The stop of a unit of H-space (03 R80). -/
def hostStop (va : Nat) : Nat := 16 + bitsN va 12 12

/-- The stop of a unit of P-space (03 R80): the Hexost port that the route table gives for the device id. DESIGN CHOICE (log 113): a unit of this
device's own id, whose entry 18 R472 ignores, takes the way that the entry names. -/
def State.peerStop (s : State) (va : Nat) : Nat := s.peerEdge (bitsN va 47 35)

/-! ### Units -/

/-- A read or write of a unit of SRAM as one beat with the Hod's core as root (03 R81): if its reservations succeed, the state, the last
bank slot, and the clk of its completion. -/
def State.unitBeat (s : State) (core fk agent : Nat) (op : AccOp) (dst : FlightDst) (pa n x psn : Nat) : Option (State × Nat × Nat) :=
  let ps := spanPieces 32 (n + 1) pa 0 n
  let accs := ps.map (fun p => (0, granOf p.1))
  let start : Nat → Nat := fun _ => s.clk
  let done := s.clk + latencyL core 1 accs
  let more := if dst = .none then [] else [(done, hodIn core)]
  if !s.clear none 0 start core 1 accs more then none else
  let sl := slotsFrom start core accs
  let last := sl.foldl (fun m a => max m a.2.2) s.clk
  let parts := ps.map (fun p => (0, ({ lane := p.2.1, pa := p.1, n := p.2.2, x := bytesAt x p.2.1 p.2.2,
                                       psn := psn / 2 ^ p.2.1 % 2 ^ p.2.2 != 0 } : AccPart)))
  let s1 := s.reserveFrom start core 1 none accs more
  let s2 := { s1 with flights := s1.flights ++ [⟨fk, agent, op, dst, 0#96, bankAccs sl parts, []⟩] }
  let s3 := if op = .store then sl.foldl (fun (st : State) a => st.setMem (st.mem.notePlain s.clk a.2.1 agent a.2.2)) s2 else s2
  some (s3, last, done)

/-- Whether a Hod's attempt of the present clk is still to be made (03 R76; 12 R316). -/
def State.hodMay (s : State) (core : Nat) : Bool := decide ((s.hod core).tried ≤ s.clk)

/-- What a unit's read of SRAM has found: data, a poison bit per byte, data status (03 R82). -/
def Flight.unitGot (f : Flight) : Nat × Nat × Nat :=
  (f.accs.flatMap (·.parts)).foldl (fun a p =>
    (a.1 + p.got * 2 ^ (8 * p.lane), if p.psn then a.2.1 + maskAt p.lane p.n else a.2.1,
      if p.psn then worse a.2.2 (if p.tag = 14 then 14 else 13) else a.2.2)) (0, 0, 0)

/-- Takes what an engine's read has found out of flight: data, a poison bit per byte, data status (03 R82). -/
def State.takeUnit (s : State) (key id : Nat) : Option ((Nat × Nat × Nat) × State) :=
  let mine (x : Flight) : Bool := x.key == key && x.dst == FlightDst.hod id
  (s.flights.find? mine).map (fun x => (x.unitGot, { s with flights := s.flights.filter (fun y => !mine y) }))

/-- A read of a unit of LPDDR 6 leaves a core, if its path is free (03 R81): its controller accepts it 3 + 2h clk later. -/
def State.askLp (s : State) (core : Nat) (who : LpWho) (pa n : Nat) : Option State :=
  (s.tryPath (toEdge core (lpStop pa) (s.clk + 3))).map (fun s1 =>
    s1.setLp (s1.lp.enqueue ⟨who, pa, n, s.clk + 3 + 2 * edgeHops core (lpStop pa), false⟩))

/-- A write of LPDDR 6 leaves a core, if its path is free; with the clk of its acceptance (03 R73, R81). -/
def State.sendLp (s : State) (core pa n x psn : Nat) : Option (State × Nat) :=
  let a := s.clk + 3 + 2 * edgeHops core (lpStop pa)
  (s.tryPath (toEdge core (lpStop pa) (s.clk + 3))).map (fun s1 =>
    (s1.setLp (({ s1.lp with inbox := s1.lp.inbox ++ [⟨pa, n, x, psn, a⟩] } : Lpddr).enqueue ⟨.write core, pa, n, a, true⟩), a))

end Sys2Proof.Machine
end

