-- ==== Sys2Proof/Machine/Hod.lean ====
section
/-! DEFINITION. The Hod copy engine at work: record reading, start order, units, pages, completion, delivery and repair
(03 R76-R89; 05 R133; 11 R291-R299; 16 R422). -/
namespace Sys2Proof.Machine

/-! ### Records -/

/-- `SRC`. -/
def recSrc (x : Nat) : Nat := bitsN x 511 448
/-- `DST`. -/
def recDst (x : Nat) : Nat := bitsN x 447 384
/-- `LEN`, `NPG`: bits [383:352]. -/
def recLen (x : Nat) : Nat := bitsN x 383 352
/-- A barrier field: `DBAR` at 97 and up, `SBAR` at 67 and up: the DVA named, if valid. -/
def recBar (x lo : Nat) : Option Nat :=
  if bitN x (lo + 1) then some (bitsN x (lo + 30) (lo + 3) * 16 + (if bitN x (lo + 2) then 2 ^ 32 else 0)) else none
/-- A barrier field that names an L-space offset above 24 bits (11 R293). -/
def recBarBad (x lo : Nat) : Bool := bitN x (lo + 2) && bitsN x (lo + 30) (lo + 23) != 0

/-- `IDX` outside S-space and L-space, or misaligned (11 R294, R296). -/
def recIdxBad (x : Nat) : Bool := decide (2 ^ 32 + 2 ^ 24 ≤ bitsN x 319 256 ∨ bitsN x 319 256 % 4 ≠ 0)

/-- Malformed Hod records (11 R296), but for the checks that need `DST` translated. -/
def hodMalformed (op q : Nat) (ash : Bool) (x : Nat) : Bool :=
  bitsN x 67 0 != 0 || recBarBad x 97 || recBarBad x 67 || (q == 16 && (bitN x 99 || bitN x 69)) ||
  (match op with
    | 0 => decide (bitsN x 351 128 ≠ 0)
    | 1 => decide (bitsN x 191 128 ≠ 0)
    | 2 => decide (bitsN x 223 128 ≠ 0 ∨ recLen x = 0 ∨ recLen x > 65536) || recIdxBad x
    | 3 => decide (bitsN x 223 128 ≠ 0 ∨ recLen x = 0 ∨ recLen x > 65536) || recIdxBad x
    | 4 => decide (bitsN x 351 128 ≠ 0 ∨ recLen x = 0 ∨ recSrc x ≠ 0)
    | 5 => decide (bitsN x 350 128 ≠ 0 ∨ recLen x = 0 ∨ recSrc x ≠ 0)
    | 6 => decide (bitsN x 319 128 ≠ 0 ∨ recLen x % 4 ≠ 0 ∨ recSrc x ≠ 0 ∨ recDst x % 4 ≠ 0)
    | _ => decide (bitsN x 349 128 ≠ 0 ∨ recLen x % 32 ≠ 0 ∨ recDst x ≠ 0) || !ash)

/-- The core on which a team, wherever it is placed, has the half that a core had before. -/
def Team.coreLike (t : Team) (core : Nat) : Nat := if t.pair && bitN core 4 then partner t.core else t.core

/-- L-space of a command (03 R80): the scratchpad of its team where the team stands now (16 R441), or else the one that the team had when
it issued (03 R83; log 92). -/
def State.hodPad (s : State) (core : Nat) (c : HodCmd) (o nd : Nat) : Except Nat Nat :=
  match c.team.bind s.team, c.pad with
  | some t, some _ => t.xlateL (t.coreLike core) o nd
  | none, some (n, b0, b1, pr) => padXlate n b0 b1 pr core o nd
  | _, none => .error 2

/-- S-space and L-space translation for a Hod command (03 R80). -/
def State.hodXlate (s : State) (core q : Nat) (c : HodCmd) (va nd : Nat) : Except Nat Nat :=
  let r := match spaceOf va with
    | 0 => (s.ctx c.ctx).xlateS va nd
    | _ => if q < 16 then s.hodPad core c (va - 2 ^ 32) nd else .error 2
  if 1 < spaceOf va then .error 1
  else match r with
    | .ok pa => .ok pa
    | .error k => .error (statusOf k)

/-- Whether a command's access to an address waits: nothing reaches the L-space of a team while it is saved (16 R441; log 92). -/
def State.padHeld (s : State) (c : HodCmd) (va : Nat) : Bool :=
  spaceOf va == 1 && (match c.team.bind s.team with
    | some t => t.status == .saved || t.restoring
    | none => false)

/-- Whether a barrier field of a command's record names an object that a save keeps from it (16 R441). -/
def State.barHeld (s : State) (c : HodCmd) (lo : Nat) : Bool :=
  match recBar (c.image.getD 0) lo with
  | some va => s.padHeld c va
  | none => false

/-- The status with which a byte of a command would end, 0 for none, as memory and tables stand (01 R36). -/
def State.probe (s : State) (core q : Nat) (c : HodCmd) (va : Nat) (write : Bool) : Nat :=
  let nd := if write then needW else needR
  match spaceOf va with
  | 2 => (match (walkFrom s.lp (va % 2 ^ 48 / 65536) 4 1 (s.ctx c.ctx).ptroot []).1 with
    | .ok (e, _) => if pteAllows e nd then 0 else 7
    | .error k => k)
  | 3 => if (s.ctx c.ctx).hwinOk va 1 write then 0 else 8
  | 4 =>
    let dev := bitsN va 47 35
    if dev = s.fab.devid then
      (match s.fab.exportFor (bitsN va 34 0) 1 (b2n write) (s.ctx c.ctx).group with
      | none => 11
      | some e => (match (s.exportPlace e (bitsN va 34 0) nd).1 with
        | .ok _ => 0
        | .error k => k))
    else if bitN (sget 0 s.fab.routes dev) 15 then 0 else 10
  | 5 => 1
  | _ => (match s.hodXlate core q c va nd with
    | .ok _ => 0
    | .error k => k)

/-- Replaces the head command of a queue. -/
def HodQueue.setHead (x : HodQueue) (c : HodCmd) : HodQueue := { x with cmds := setAt x.cmds 0 c }

/-- Whether a command's fork is complete (04 R107). -/
def State.cmdFree (s : State) (c : HodCmd) : Bool :=
  match c.team with
  | some t => s.forkFree t c.warp c.issued
  | none => true

/-- The Hod has made its reservation attempt of this clk (03 R76). -/
def State.hodTries (s : State) (core : Nat) : State := s.updHod core (fun h => { h with tried := s.clk + 1 })

/-- The key of the flights of a transfer slot's units. -/
def hodKey (core i : Nat) : Nat := 2 ^ 20 + core * 4 + i

/-- The key of the flight that reads the record of a queue's head. -/
def recKey (core q : Nat) : Nat := 2 ^ 20 + 1024 + core * 18 + q

/-- Replaces the head command of a core's queue. -/
def State.setHead (s : State) (core q : Nat) (c : HodCmd) : State := s.updHod core (fun h => h.setQueue q ((h.queue q).setHead c))

/-- The record that a queue's head awaits has come, and is checked (11 R291, R296). -/
def State.recordComes (s : State) (core q : Nat) : State :=
  match ((s.hod core).queue q).cmds with
  | [] => s
  | c :: _ =>
    match c.asked with
    | none => s
    | some d =>
      if s.clk < d then s
      else match s.takeUnit (recKey core q) 0 with
        | none => s
        | some (g, s1) => s1.setHead core q { c with
            asked := none, image := some g.1, early := if g.2.1 != 0 || hodMalformed c.op q c.ash g.1 then 16 else 0 }

/-- 11 R291: the Hod reads the record of the command at the head of a queue, as one engine read of 64 bytes (02 R56). -/
def execHodRecordRead (core q : Nat) (s0 : State) : Host.Outcome State Fault Refusal :=
  .next <|
    let s := s0.recordComes core q
    match ((s.hod core).queue q).cmds with
    | [] => s
    | c :: _ =>
      if c.image.isSome || c.asked.isSome || c.early != 0 || c.op == 9 || q == 17 || decide (s.clk < c.ready) || !s.cmdFree c
          || s.padHeld c c.recAddr then s
      else
        match (if c.recPhys then .ok c.recAddr
            else if spaceOf c.recAddr ≤ 1 then s.hodXlate core q c c.recAddr needR else .error 1) with
        | .error k => s.setHead core q { c with early := k }
        | .ok pa =>
          if s.hodMay core = false then s
          else
            let s1 := s.hodTries core
            match s1.unitBeat core (recKey core q) (hodAgent core q c.seq) (.load false) (.hod 0) pa 64 0 0 with
            | some r => r.1.setHead core q { c with asked := some r.2.2 }
            | none => s1

/-! ### Elements and ranges -/

/-- Number of elements, rows, pages or lanes of a command (11 R295). -/
def HodCmd.count (c : HodCmd) : Nat :=
  let x := c.image.getD 0
  match c.op with
  | 1 => (bitsN x 351 336 + 1) * (bitsN x 335 320 + 1)
  | 2 => bitsN x 351 320
  | 3 => bitsN x 351 320
  | 4 => if c.image.isSome then recLen x else 1
  | 5 => recLen x
  | 9 => c.lanes.length
  | _ => 1

/-- Source, destination and length of an element (11 R295); `ix` is its index for a gather or scatter. -/
def HodCmd.elemAt (c : HodCmd) (i ix : Nat) : Nat × Nat × Nat :=
  let x := c.image.getD 0
  let n := recLen x
  let at_ (base : Nat) (d : Int) : Nat := wrapN ((base : Int) + d) 64
  match c.op with
  | 1 =>
    let nr := bitsN x 351 336 + 1
    let r : Int := (i % nr : Nat)
    let p : Int := (i / nr : Nat)
    (at_ (recSrc x) (p * sextN (bitsN x 255 224) 32 + r * sextN (bitsN x 319 288) 32),
      at_ (recDst x) (p * sextN (bitsN x 223 192) 32 + r * sextN (bitsN x 287 256) 32), n)
  | 2 => (at_ (recSrc x) ((ix * bitsN x 255 224 : Nat) : Int), at_ (recDst x) ((i * n : Nat) : Int), n)
  | 3 => (at_ (recSrc x) ((i * n : Nat) : Int), at_ (recDst x) ((ix * bitsN x 255 224 : Nat) : Int), n)
  | 9 => ((c.lanes.getD i (0, 0)).2, 0, 2 ^ c.sz)
  | _ => (recSrc x, recDst x, n)

/-- Bytes of a command, for the decrements of a failed transfer (05 R133). -/
def HodCmd.total (c : HodCmd) : Nat :=
  let x := c.image.getD 0
  match c.op with
  | 4 => recLen x * 65536
  | 5 => recLen x * 65536
  | _ => c.count * recLen x

/-- The index of an element of a gather or scatter as memory holds it now, for the ranges of 03 R79. -/
def State.peekIdx (s : State) (core q : Nat) (c : HodCmd) (i : Nat) : Nat :=
  match s.hodXlate core q c ((bitsN (c.image.getD 0) 319 256 + 4 * i) % 2 ^ 64) needR with
  | .ok pa => memRead s.mem.bytes pa 4
  | .error _ => 0

/-- Source and destination ranges of a command by DVA: start and length (03 R79). DESIGN CHOICE (log 101): the A-space page of a
staging or eviction and the index array of a gather or scatter are in none. -/
def State.hodRanges (s : State) (core q : Nat) (c : HodCmd) : List (Nat × Nat) × List (Nat × Nat) :=
  let x := c.image.getD 0
  let els := (List.range c.count).map (fun i => c.elemAt i (if c.op = 2 ∨ c.op = 3 then s.peekIdx core q c i else 0))
  let srcs := els.map (fun e => (e.1, e.2.2))
  let dsts := els.map (fun e => (e.2.1, e.2.2))
  if q = 17 then ([], [(c.page * 65536, 65536)])
  else if c.early ≠ 0 then ([], [])
  else match c.op with
    | 4 => ([], [(recDst x / 65536 * 65536, recLen x * 65536)])
    | 5 => ([], [(recDst x / 65536 * 65536, recLen x * 65536)])
    | 6 => ([], dsts)
    | 7 => (srcs, [])
    | 9 => (srcs, [])
    | _ => (srcs, dsts)

/-- Whether two lists of ranges share a 256-byte granule. -/
def rangesMeet (a b : List (Nat × Nat)) : Bool :=
  a.any (fun x => b.any (fun y => decide (0 < x.2 ∧ 0 < y.2 ∧ x.1 / 256 ≤ (y.1 + y.2 - 1) / 256 ∧ y.1 / 256 ≤ (x.1 + x.2 - 1) / 256)))

/-- The commands of a queue in the transfer slots. -/
def Hod.started (h : Hod) (q : Nat) : List HodCmd :=
  h.slots.filterMap (fun x => match x.2 with
    | some f => if f.q = q then some f.cmd else none
    | none => none)

/-- Whether 03 R79 holds a queue's head command back. -/
def State.hodHeld (s : State) (core q : Nat) (c : HodCmd) : Bool :=
  let r := s.hodRanges core q c
  ((s.hod core).started q).any (fun e =>
    let x := s.hodRanges core q e
    rangesMeet x.2 (r.1 ++ r.2) || rangesMeet x.1 r.2)

/-- The head command of a queue, when it may start (03 R78, R79; 11 R291). -/
def State.hodReady (s : State) (core q : Nat) : Option HodCmd :=
  match ((s.hod core).queue q).cmds with
  | c :: _ =>
    if (c.image.isSome || c.early != 0 || c.op == 9 || q == 17) && decide (c.ready ≤ s.clk) && s.cmdFree c && !s.hodHeld core q c
    then some c
    else none
  | [] => none

/-- The queue whose head starts next (03 R78). DESIGN CHOICE (log 100): `rr` is 0 after reset, so that queue 1 is the first in turn. -/
def State.hodPick (s : State) (core : Nat) : Option Nat :=
  let subs := List.range 16
  let order := 17 :: subs.filter (fun q => match ((s.hod core).queue q).cmds with
      | c :: _ => c.strip
      | [] => false)
    ++ (List.range 17).map (fun i => ((s.hod core).rr + 1 + i) % 17)
  order.find? (fun q => (s.hodReady core q).isSome)

/-! ### Pages -/

/-- Adds a status to a transfer (03 R82). -/
def Xfer.fail (f : Xfer) (k : Nat) : Xfer := { f with status := worse f.status k }

/-- The virtual address of the first page of a page command, and its pages. -/
def Xfer.pageVa (f : Xfer) : Nat :=
  if f.q = 17 then f.cmd.page * 65536 else recDst (f.cmd.image.getD 0) / 65536 * 65536
/-- Pages of a page command. -/
def Xfer.pages (f : Xfer) : Nat :=
  if f.q = 17 then 1
  else if f.cmd.op = 6 then recLen (f.cmd.image.getD 0) / 65536 else recLen (f.cmd.image.getD 0)

/-- Whether a fill is aimed at staging pages (03 R87). -/
def State.fillsPages (s : State) (c : HodCmd) : Bool :=
  c.op == 6 && (match (if spaceOf (recDst (c.image.getD 0)) = 0 then (s.ctx c.ctx).seg? (recDst (c.image.getD 0)) else none) with
    | some e => segStaging e
    | none => false)

/-- Releases a page-operation flag (03 R84). -/
def State.dropFlag (s : State) (fl : Option (Nat × Nat × Nat)) : State :=
  match fl with
  | none => s
  | some (sl, c, i) => s.setMem { s.mem with flags := supd [] s.mem.flags sl (fun l => l.filter (· != (c, i))) }

/-- Sets a residency bit in every replica (01 R25). -/
def State.setResid (s : State) (ctx i : Nat) (b : Bool) : State :=
  let c := s.ctx ctx
  s.setCtx ctx { c with resid := sput false c.resid i b }

/-- Residency index of a page of a staging entry. -/
def residIx (e va : Nat) : Nat := segRbase e + (va - segBase e) / 65536

/-- A page command takes the next page's flag and begins it (03 R84-R87): with the flag held or the table full it waits. DESIGN CHOICE
(log 118): an HFILL of a staging page needs no W of its segment, since the steps of R87 name no check of it. -/
def State.beginPage (s : State) (core i : Nat) (f : Xfer) : State :=
  let put (st : State) (g : Xfer) : State := st.updHod core (fun h => h.setSlot i (some g))
  let va := f.pageVa + f.elem * 65536
  let c := s.ctx f.cmd.ctx
  if f.elem ≥ f.pages then put s { f with phase := .ended }
  else if spaceOf f.pageVa ≠ 0 then put s { f.fail 1 with phase := .ended, stop := true }
  else
    match c.seg? va, c.seg? f.pageVa with
    | some e, some e0 =>
      if !segStaging e || segBase e != segBase e0 then put s { f.fail 2 with phase := .ended, stop := true }
      else
        let ix := residIx e va
        let sl := segSlice e
        let tab := sget [] s.mem.flags sl
        if tab.contains (f.cmd.ctx, ix) || decide (tab.length ≥ 64) then put s { f with since := some (f.since.getD s.clk) }
        else
          let set := sget false c.resid ix
          let s1 := s.countHod core (fun k => { k with mstall := satAdd k.mstall (s.clk - f.since.getD s.clk) 32 })
          if (f.cmd.op = 4 ∧ set = true) ∨ (f.cmd.op = 5 ∧ set = false) then put s1 { f with elem := f.elem + 1, since := none }
          else
            let s2 := s1.setMem { s1.mem with flags := supd [] s1.mem.flags sl (fun l => l ++ [(f.cmd.ctx, ix)]) }
            let g := { f with flag := some (sl, f.cmd.ctx, ix), since := none, off := 0, spg := none, dpg := none }
            if f.cmd.op = 5 then put (s2.setResid f.cmd.ctx ix false) { g with phase := .evict, wait := s.clk + 256 }
            else put s2 { g with phase := .moving }
    | _, _ => put s { f.fail 2 with phase := .ended, stop := true }

/-- A page is finished: its residency bit is set for a staging or fill, its flag released (03 R85-R87), that of the last page with the
ticket (R84; log 93). -/
def State.endPage (s : State) (core i : Nat) (f : Xfer) : State :=
  let s1 := match f.flag with
    | some (_, c, ix) => if f.cmd.op = 5 then s else
      (s.setResid c ix true).countHod core (fun k => { k with staged := satAdd k.staged 1 32 })
    | none => s
  let last := decide (f.elem + 1 ≥ f.pages)
  let g := { f with flag := none, kept := if last then f.flag else none, elem := f.elem + 1, phase := .begin }
  (if last then s1 else s1.dropFlag f.flag).updHod core (fun h => h.setSlot i (some g))

/-- The units of a slot that are not in its buffer yet are given up. -/
def State.dropUnits (s : State) (core i : Nat) : State :=
  { s with flights := s.flights.filter (fun f => f.key != hodKey core i || f.dst == .none) }

/-- A failure in the middle of a page: its flag is released and its bit stays as it is (03 R85, R86). -/
def State.failPage (s : State) (core i : Nat) (f : Xfer) (k : Nat) : State :=
  ((s.dropFlag f.flag).dropUnits core i).updHod core (fun h => h.setSlot i (some { f.fail k with
    flag := none, phase := .ended, stop := true, buf := [], walk := none }))

/-! ### Starting -/

/-- Whether a source range touches a protected segment and the destination lies beyond the link (01 R28). -/
def State.protectedCopy (s : State) (core q : Nat) (c : HodCmd) : Bool :=
  let r := s.hodRanges core q c
  r.2.any (fun d => decide (d.2 > 0) && (spaceOf d.1 == 3 || spaceOf d.1 == 4)) &&
    r.1.any (fun x => spaceOf x.1 == 0 && decide (x.2 > 0) &&
      (s.ctx c.ctx).seg.any (fun e => segKind e.2 == 5 && decide (segBase e.2 < x.1 + x.2 ∧ x.1 < segBase e.2 + segSize e.2)))

/-- The status of a protected copy (01 R28, R36): PROTECTED, or a lower code that a byte of it has. -/
def State.protStatus (s : State) (core q : Nat) (c : HodCmd) : Nat :=
  (List.range c.count).foldl (fun k i =>
    let e := c.elemAt i (if c.op = 2 ∨ c.op = 3 then s.peekIdx core q c i else 0)
    worse k (worse (s.probe core q c e.1 false) (s.probe core q c e.2.1 true))) 12

/-- The addresses that a record names for its kind (11 R294, R295). -/
def HodCmd.named (c : HodCmd) : List Nat :=
  let x := c.image.getD 0
  match c.op with
  | 4 => []
  | 5 => []
  | 6 => [recDst x]
  | 7 => [recSrc x]
  | _ => [recSrc x, recDst x]

/-- Whether a save of its team keeps a queue's head command from a barrier that it names (16 R441). -/
def State.startHeld (s : State) (c : HodCmd) : Bool := s.barHeld c 97 || s.barHeld c 67

/-- The status with which a command ends before it moves anything, 0 for none, and its barriers (01 R13; 05 R133; 11 R295, R296). -/
def State.hodStart (s : State) (core q : Nat) (c : HodCmd) : Nat × Option Nat × Option Nat :=
  if c.early ≠ 0 then (c.early, none, none)
  else if q = 17 ∨ c.op = 9 then (0, none, none)
  else
    let x := c.image.getD 0
    let bar (lo : Nat) : Except Nat (Option Nat) := match recBar x lo with
      | none => .ok none
      | some va => (match (if va % 16 = 0 then s.hodXlate core q c va needRWAT else .error 2) with
        | .ok pa => .ok (some pa)
        | .error k => .error k)
    match bar 97, bar 67 with
    | .error a, .error b => (min a b, none, none)
    | .error a, _ => (a, none, none)
    | _, .error b => (b, none, none)
    | .ok d, .ok sb =>
      if s.fillsPages c && (recDst x % 65536 != 0 || recLen x % 65536 != 0) then (16, none, none)
      else if c.named.any (fun a => spaceOf a == 5) then (1, d, sb)
      else if s.protectedCopy core q c then (s.protStatus core q c, d, sb)
      else (0, d, sb)

/-- 03 R78: a free transfer slot starts the head command of the queue chosen. -/
def execHodCommandStart (core : Nat) (s00 : State) : Host.Outcome State Fault Refusal :=
  .next <|
    let s := (List.range 17).foldl (fun st q => st.recordComes core q) s00
    let h := s.hod core
    match (List.range 4).find? (fun i => (h.slot i).isNone), s.hodPick core with
    | some i, some q =>
      (match s.hodReady core q with
      | none => s
      | some c =>
        if s.startHeld c then s else
        let x := h.queue q
        let r := s.hodStart core q c
        let paged := q == 17 || c.op == 4 || c.op == 5 || s.fillsPages c
        let f : Xfer := { q := q, cmd := c, status := r.1, dbar := r.2.1, sbar := r.2.2, stop := r.1 != 0
                          phase := if r.1 ≠ 0 then .ended else if paged then .begin else .moving }
        let h1 := { h.setQueue q { x with cmds := x.cmds.drop 1 } with rr := if q < 17 then q else h.rr }
        let s0 := s.setHod core (h1.setSlot i (some f))
        let s1 := if q = 17 then s0.refillRepairs core else s0
        if f.phase = .begin then s1.beginPage core i f else s1)
    | _, _ => s

/-! ### Translating and moving units -/

/-- Decrements of `INB` that are due are made (05 R133). -/
def State.dueDecs (s : State) (core i : Nat) (all : Bool) : State :=
  match (s.hod core).slot i with
  | none => s
  | some f =>
    if s.barHeld f.cmd 97 then s else
    let due : List (Nat × Nat) := f.decq.filter (fun d => all || decide (d.1 ≤ s.clk))
    let s1 : State := match f.dbar with
      | some pa => due.foldl (fun (st : State) (d : Nat × Nat) => st.barDec pa (.decIn d.2 false)) s
      | none => s
    s1.updHod core (fun h => h.setSlot i (some { f with
      decq := if all then [] else f.decq.filter (fun d => decide (s.clk < d.1))
      inDec := due.foldl (fun n d => n + d.2) f.inDec }))

/-- The transfer with the read position moved on by `k` bytes of an element of `n`. -/
def Xfer.move (f : Xfer) (k n : Nat) : Xfer :=
  if f.off + k ≥ n then { f with elem := f.elem + 1, off := 0, idx := none, skip := false } else { f with off := f.off + k }

/-- Replaces a transfer. -/
def State.setXfer (s : State) (core i : Nat) (f : Xfer) : State := s.updHod core (fun h => h.setSlot i (some f))

/-- An A-space page of a transfer (01 R32): its entry, or a walk to await, or a failure. -/
def State.pageFor (s : State) (core i : Nat) (f : Xfer) (dest : Bool) (page nd : Nat) : Except Nat (Option Nat) × State :=
  let held := if dest then f.dpg else f.spg
  match held with
  | some (p, e) => if p = page then (if pteAllows e nd then (.ok (some e), s) else (.error 7, s)) else look
  | none => look
where
  look : Except Nat (Option Nat) × State :=
    let h := s.hod core
    match h.tc.find? (fun t => t.ctx == f.cmd.ctx && t.page == page) with
    | some t =>
      let s1 := s.setHod core { h with tc := t :: h.tc.filter (· != t) }
      if pteAllows t.pte nd then
        (.ok (some t.pte), s1.setXfer core i (if dest then { f with dpg := some (page, t.pte), xl := true }
          else { f with spg := some (page, t.pte), xl := true }))
      else (.error 7, s1)
    | none =>
      (.ok none, (s.countHod core (fun k => { k with tcmiss := satAdd k.tcmiss 1 32 })).setXfer core i
        { f with walk := some { dest := dest, page := page } })

/-! ### Walks -/

/-- The cluster whose walker serves a core. -/
def walkerOf (core : Nat) : Nat := clusterOf core
/-- The core beside which a cluster's walker sits (01 R32). -/
def walkerCore (cluster : Nat) : Nat := 2 * (cluster % 8) + 32 * (cluster / 8)

/-- Whether a cluster's walker is at work for a transfer. -/
def State.walkerBusy (s : State) (cluster : Nat) : Bool :=
  s.hods.any (fun h => walkerOf h.1 == cluster && h.2.slots.any (fun t => match t.2.bind (·.walk) with
    | some w => w.level != 0
    | none => false))

/-- The status with which reading the present byte of a source fails with code `k`: a lower one that its destination byte has (01 R36). -/
def State.pieceStatus (s : State) (core : Nat) (f : Xfer) (k : Nat) : Nat :=
  if f.flag.isSome || f.cmd.op == 7 || f.cmd.op == 9 then k
  else worse k (s.probe core f.q f.cmd (((f.cmd.elemAt f.elem (f.idx.getD 0)).2.1 + f.off) % 2 ^ 64) true)

/-- A walk ends with a failure (01 R32; 03 R85, R86; 11 R297). -/
def State.walkFails (s : State) (core t : Nat) (f : Xfer) (w : Walk) (k0 : Nat) : State :=
  let k := if w.dest then k0 else s.pieceStatus core f k0
  let g := { f with walk := none, tried := none, xl := true }
  if f.flag.isSome then s.failPage core t g k
  else if f.cmd.op = 9 then
    s.setXfer core t { g with elem := f.elem + 1, got := f.got ++ [((f.cmd.lanes.getD f.elem (0, 0)).1,
      (List.range (regsOf f.cmd.sz)).map (fun _ => (⟨0#32, true⟩ : Val)))] }
  else (if w.dest then s.dropUnits core t else s).setXfer core t { g.fail k with stop := true, buf := if w.dest then [] else f.buf }

/-- A walk ends with a level-4 entry: both caches are filled (01 R32), but by no walk that a shootdown overtook (R33). -/
def State.walkDone (s : State) (core t : Nat) (f : Xfer) (w : Walk) (e : Nat) : State :=
  let cl := walkerOf core
  if w.old then s.setXfer core t
    { f with walk := none, xl := true, dpg := if w.dest then some (w.page, e) else f.dpg, spg := if w.dest then f.spg else some (w.page, e) } else
  let s1 := { s with dirCaches := sput [] s.dirCaches cl (dirFill (sget [] s.dirCaches cl) f.cmd.ctx w.page w.got) }
  let g := { f with walk := none, xl := true }
  (s1.updHod core (fun h => { h with
    tc := (⟨f.cmd.ctx, w.page, e⟩ :: h.tc.filter (fun x => !(x.ctx == f.cmd.ctx && x.page == w.page))).take 512 })).setXfer core t
    (if w.dest then { g with dpg := some (w.page, e) } else { g with spg := some (w.page, e) })

/-- What a walk does with the entry that has arrived (01 R32). -/
def State.walkEntry (s : State) (core t : Nat) (f : Xfer) (w : Walk) : State :=
  let s1 := s.countHod core (fun k => { k with walks := satAdd k.walks 1 32 })
  match pteFails w.level w.data w.st with
  | some k => s1.walkFails core t f w k
  | none =>
    if w.level < 4 then
      let nx := bitsN w.data 38 11
      s.setXfer core t { f with walk := some { w with level := w.level + 1, table := nx, got := w.got ++ [(w.level, nx)], stage := .held } }
    else if pteAllows w.data (if w.dest then needW else needR) then s1.walkDone core t f w w.data
    else s1.walkFails core t f w 7

/-- 01 R32, 03 R81: the walk that a transfer waits for begins, reads an entry of a table, or goes on with the entry that arrives: each
is an LPDDR 6 read of one burst from the walker's core. DESIGN CHOICE (log 119): a walk takes one clk to begin, and one between entries. -/
def execPageWalk (core t : Nat) (s : State) : Host.Outcome State Fault Refusal :=
  .next <|
    match (s.hod core).slot t with
    | none => s
    | some f =>
      match f.walk with
      | none => s
      | some w =>
        let cl := walkerOf core
        let at_ := walkerCore cl
        match w.stage with
        | .held =>
          if w.level = 0 then
            if s.walkerBusy cl then s
            else
              let b := walkStart (sget [] s.dirCaches cl) (s.ctx f.cmd.ctx).ptroot f.cmd.ctx w.page
              ({ s with dirCaches := sput [] s.dirCaches cl b.2.2 }).setXfer core t { f with walk := some { w with level := b.1, table := b.2.1 } }
          else (match s.askLp at_ (.walk core t) (pteAt w.page w.level w.table) 8 with
            | some s1 => s1.setXfer core t { f with walk := some { w with stage := .asked } }
            | none => s)
        | .asked => s
        | .ready r =>
          if s.clk < r then s
          else (match s.tryPath (fromEdge at_ (lpStop (pteAt w.page w.level w.table)) s.clk) with
            | some s1 => s1.setXfer core t { f with walk := some { w with
                stage := .due (s.clk + 2 * edgeHops at_ (lpStop (pteAt w.page w.level w.table)) + 4) } }
            | none => s)
        | .due d => if s.clk < d then s else s.walkEntry core t f w

/-! ### Arrival -/

/-- A unit reaches the buffer (03 R76, R90): the source barrier is decremented (05 R133), an A-space read is counted, a lane of HLDR has
its value. -/
def State.unitHeld (s : State) (core i : Nat) (f : Xfer) (u : BufUnit) : State :=
  let s1 := match f.sbar with
    | some pa => s.barDec pa (.decOut u.len false)
    | none => s
  let d := s.clk - u.t
  let s2 := if u.space = 2 then s1.countHod core (fun k => { k with
      nrd := satAdd k.nrd 1 32, rdlat := satAdd k.rdlat d 64, rdmax := min (max k.rdmax d) 65535 }) else s1
  if f.cmd.op = 9 then
    (s2.countHod core (fun k => { k with bytes := satAdd k.bytes u.len 64 })).setXfer core i { f.fail u.st with
      bytes := f.bytes + u.len, buf := f.buf.filter (fun x => x.id != u.id)
      got := f.got ++ [(u.dst, wordsOf (regsOf f.cmd.sz) u.data (u.psn != 0))] }
  else
    s2.setXfer core i { f.fail u.st with
      outDec := f.outDec + u.len, buf := f.buf.map (fun x => if x.id = u.id then { u with stage := .held } else x) }

/-- A unit on its way (03 R81): at the stop it reserves the return path, waiting in `MSTALL`; at the core it is in the buffer. -/
def State.unitComes (s : State) (core i : Nat) (f : Xfer) (u : BufUnit) : State :=
  match u.stage with
  | .ready r =>
    if s.clk < r then s
    else
      let d := s.clk + 2 * u.h + 4
      (match s.tryPath (fromEdge core u.space s.clk ++ [(d, hodIn core)]) with
      | some s1 => (s1.countHod core (fun k => { k with mstall := satAdd k.mstall (s.clk - r) 32 })).setXfer core i { f with
          buf := f.buf.map (fun x => if x.id = u.id then { u with space := if u.space < 16 then 2 else 3, stage := .due d } else x) }
      | none => s)
  | .due d =>
    if s.clk < d || s.barHeld f.cmd 67 then s
    else (match s.takeUnit (hodKey core i) u.id with
      | some (g, s1) => s1.unitHeld core i f { u with data := g.1, psn := g.2.1, st := g.2.2 }
      | none => s.unitHeld core i f u)
  | _ => s

/-- The index of a gather or scatter that is being read comes (11 R295): the source barrier of an element that is skipped is decremented at
once, and a scatter moves on. -/
def State.indexComes (s : State) (core i : Nat) : State :=
  match (s.hod core).slot i with
  | none => s
  | some f =>
    match f.idxDue with
    | none => s
    | some (id, d) =>
      if s.clk < d || s.barHeld f.cmd 67 then s
      else match s.takeUnit (hodKey core i) id with
        | none => s
        | some (g, s1) =>
          let n := recLen (f.cmd.image.getD 0)
          if g.2.1 = 0 then s1.setXfer core i { f with idxDue := none, idx := some g.1 }
          else
            let s2 := match f.sbar with
              | some pb => s1.barDec pb (.decOut n false)
              | none => s1
            let h := { f.fail 13 with idxDue := none, outDec := f.outDec + n }
            s2.setXfer core i (if f.cmd.op = 2 then { h with skip := true, idx := some 0 }
              else { h.move n n with decq := h.decq ++ [(s.clk, n)] })

/-- The units of a transfer that have come so far. -/
def State.unitsCome (s : State) (core i : Nat) : State :=
  match (s.hod core).slot i with
  | none => s
  | some f => ((f.buf.map (·.id)).foldl (fun st n =>
      match (st.hod core).slot i with
      | some g => (match g.buf.find? (fun u => u.id == n) with
        | some u => st.unitComes core i g u
        | none => st)
      | none => st) s).indexComes core i

/-! ### Reading -/

/-- Bytes from `off` of an element that one unit takes: a piece within one 256-byte unit of each side (03 R76). -/
def pieceLen (src dst rem : Nat) : Nat := min rem (min (256 - src % 256) (256 - dst % 256))

/-- A failure while reading: later units are not read; those in the buffer still go out (03 R82). -/
def State.failRead (s : State) (core i : Nat) (f : Xfer) (k : Nat) : State :=
  if f.flag.isSome then s.failPage core i f k
  else s.setXfer core i { f.fail k with stop := true }

/-- A unit enters the buffer, and the transfer moves on. -/
def State.addUnit (s : State) (core i : Nat) (f : Xfer) (u : BufUnit) (next : Xfer → Xfer) : State :=
  s.setXfer core i (next { f with buf := f.buf ++ [{ u with id := f.nextId }], nextId := f.nextId + 1, tried := none })

/-- A unit of SRAM is read (03 R81), if its reservations succeed. -/
def State.readSram (s : State) (core i : Nat) (f : Xfer) (pa n dst : Nat) (next : Xfer → Xfer) : State :=
  let s0 := s.hodTries core
  match s0.unitBeat core (hodKey core i) (hodAgent core f.q f.cmd.seq) (.load false) (.hod f.nextId) pa n 0 0 with
  | some r => r.1.addUnit core i f { dst := dst, len := n, data := 0, psn := 0, t := s.clk, stage := .due r.2.2 } next
  | none => s0

/-- A unit of A-space is read at its LPDDR 6 address (03 R81), if its path is free; `space` holds its stop until it leaves it. -/
def State.readLp (s : State) (core i : Nat) (f : Xfer) (pa n dst : Nat) (next : Xfer → Xfer) : State :=
  let s0 := s.hodTries core
  match s0.askLp core (.unit core i f.nextId) pa n with
  | some s1 => s1.addUnit core i f { dst := dst, len := n, data := 0, psn := 0, space := lpStop pa, t := f.tried.getD s.clk
                                     h := edgeHops core (lpStop pa), stage := .asked } next
  | none => s0

/-- A unit that a link delivers (03 R81; log 94): its request leaves once its path is free, and it comes back over the mesh as a unit of
A-space does; `space` holds its stop until it leaves it. -/
def State.readLink (s : State) (core i : Nat) (f : Xfer) (edge n dst : Nat) (o : (Except Nat (Nat × Nat × Nat)) × State)
    (next : Xfer → Xfer) (fail : State → Nat → State) : State :=
  match s.tryPath (toEdge core edge (s.clk + 3)) with
  | none => (s.hodTries core).countHod core (fun k => { k with mstall := satAdd k.mstall 1 32 })
  | some s1 =>
    let s2 := ({ o.2 with cal := s1.cal }).hodTries core
    match o.1 with
    | .error k => fail s2 k
    | .ok r => s2.addUnit core i f { dst := dst, len := n, data := r.1, psn := r.2.1, st := r.2.2, t := s.clk, space := edge
                                     h := edgeHops core edge, stage := .ready (s.clk + 3 + 2 * edgeHops core edge) } next

/-- Reads one unit of a source range by its space (03 R80, R81). -/
def State.readUnit (s : State) (core i : Nat) (f : Xfer) (va n dst : Nat) (next : Xfer → Xfer) (fail : State → Nat → State) : State :=
  if s.padHeld f.cmd va then s else
  match spaceOf va with
  | 2 =>
    (match s.pageFor core i f false (va % 2 ^ 48 / 65536) needR with
    | (.error k, s1) => fail s1 k
    | (.ok none, s1) => s1.updHod core (fun h => h.setSlot i ((h.slot i).map (fun g => { g with tried := some s.clk })))
    | (.ok (some e), s1) =>
      let g := match (s1.hod core).slot i with
        | some g => g
        | none => f
      s1.readLp core i g (pteAddr e va) n dst next)
  | 3 => s.readLink core i f (hostStop va) n dst (s.readHost f.cmd.ctx va n) next fail
  | 4 => s.readLink core i f (s.peerStop va) n dst (s.readPeer f.cmd.ctx va n) next fail
  | _ => (match s.hodXlate core f.q f.cmd va needR with
    | .error k => fail s k
    | .ok pa => s.readSram core i f pa n dst next)

/-- HLDR: one lane's bytes (11 R297); the unit's destination is the lane. -/
def State.readLane (s : State) (core i : Nat) (f : Xfer) : State :=
  let x := f.cmd.lanes.getD f.elem (0, 0)
  let n := 2 ^ f.cmd.sz
  let none_ (st : State) : State := st.updHod core (fun h => h.setSlot i ((h.slot i).map (fun g => { g with
    elem := g.elem + 1, tried := none, got := g.got ++ [(x.1, (List.range (regsOf f.cmd.sz)).map (fun _ => (⟨0#32, true⟩ : Val)))] })))
  if x.2 % n ≠ 0 ∨ spaceOf x.2 ≥ 3 then none_ s
  else s.readUnit core i f x.2 n x.1 (fun g => { g with elem := g.elem + 1 }) (fun st _ => none_ st)

/-- Bytes of a 32-bit pattern repeated. -/
def patBytes (pat n : Nat) : Nat := (List.range 64).foldl (fun a k => a + pat * 2 ^ (32 * k)) 0 % 2 ^ (8 * n)

/-- A page unit: staging reads A-space and will write the backing; write-back the other way round (03 R85, R86). -/
def State.readPageUnit (s : State) (core i : Nat) (f : Xfer) : State :=
  let va := f.pageVa + f.elem * 65536
  match (s.ctx f.cmd.ctx).seg? va with
  | none => s.failPage core i f 2
  | some e =>
    let back := segPa e (va + f.off)
    let ava := 2 ^ 48 + (segApage e + (va - segBase e) / 65536) * 65536 + f.off
    let step (g : Xfer) : Xfer := { g with off := g.off + 256 }
    match f.cmd.op with
    | 4 => s.readUnit core i f ava 256 back step (fun st k => st.failPage core i f k)
    | 5 =>
      -- The destination page is translated before the backing is read.
      (match s.pageFor core i f true (ava % 2 ^ 48 / 65536) needW with
      | (.error k, s1) => s1.failPage core i f k
      | (.ok none, s1) => s1
      | (.ok (some pe), s1) =>
        let g := match (s1.hod core).slot i with
          | some g => g
          | none => f
        s1.readSram core i g back 256 (pteAddr pe ava) step)
    | _ => s.addUnit core i f { dst := back, len := 256, data := patBytes (bitsN (f.cmd.image.getD 0) 351 320) 256, psn := 0 } step

/-- The index of the present element of a gather or scatter is read first (11 R295), as an engine read of 4 bytes. -/
def State.readIndex (s : State) (core i : Nat) (f : Xfer) : State :=
  let va := (bitsN (f.cmd.image.getD 0) 319 256 + 4 * f.elem) % 2 ^ 64
  if f.idxDue.isSome || s.padHeld f.cmd va then s else
  match s.hodXlate core f.q f.cmd va needR with
  | .error k => s.failRead core i f k
  | .ok pa =>
    let s0 := s.hodTries core
    match s0.unitBeat core (hodKey core i) (hodAgent core f.q f.cmd.seq) (.load false) (.hod f.nextId) pa 4 0 0 with
    | some r => r.1.setXfer core i { f with idxDue := some (f.nextId, r.2.2), nextId := f.nextId + 1 }
    | none => s0

/-- Units of a Hod's buffer in use (03 R76). -/
def Hod.held (h : Hod) : Nat :=
  h.slots.foldl (fun n x => match x.2 with
    | some f => n + f.buf.length
    | none => n) 0

/-- A transfer's next read is attempted. -/
def State.readNext (s : State) (core t : Nat) (f : Xfer) : State :=
  if f.flag.isSome then (if f.off ≥ 65536 then s else s.readPageUnit core t f)
  else if f.elem ≥ f.cmd.count then s
  else if f.cmd.op = 9 then s.readLane core t f
  else if (f.cmd.op = 2 ∨ f.cmd.op = 3) ∧ f.idx = none then s.readIndex core t f
  else
    let e := f.cmd.elemAt f.elem (f.idx.getD 0)
    let src := (e.1 + f.off) % 2 ^ 64
    let dst := (e.2.1 + f.off) % 2 ^ 64
    let rem := e.2.2 - f.off
    if rem = 0 then s.setXfer core t (f.move 0 0)
    else if f.skip then
      let k := pieceLen dst dst rem
      s.addUnit core t f { dst := dst, len := k, data := 0, psn := maskAt 0 k } (fun y => y.move k e.2.2)
    else if f.cmd.op = 6 then
      let k := pieceLen dst dst rem
      s.addUnit core t f { dst := dst, len := k, data := patBytes (bitsN (f.cmd.image.getD 0) 351 320) k, psn := 0 } (fun y => y.move k e.2.2)
    else
      let k := if f.cmd.op = 7 then pieceLen src src rem else pieceLen src dst rem
      s.readUnit core t f src k dst (fun y => y.move k e.2.2)
        (fun st kk => st.failRead core t f (st.pieceStatus core f kk))

/-- 03 R76, R81: units of a source arrive in the Hod's buffer, and with a buffer unit free and the Hod's attempt of the clk unused
the next unit is read. -/
def execHodUnitRead (core t : Nat) (s0 : State) : Host.Outcome State Fault Refusal :=
  .next <|
    let s := (s0.dueDecs core t false).unitsCome core t
    match (s.hod core).slot t with
    | none => s
    | some f =>
      if f.phase ≠ .moving ∨ f.stop = true ∨ f.walk.isSome = true ∨ (s.hod core).held ≥ 64 ∨ s.hodMay core = false then s
      else s.readNext core t f

/-! ### Writing -/

/-- Units have gone out and left `rest`: their bytes count, and the barrier decrement falls due at `due` (03 R90; 05 R133). -/
def State.unitDone (s : State) (core i : Nat) (f : Xfer) (rest : List BufUnit) (n due : Nat) : State :=
  (s.countHod core (fun k => { k with bytes := satAdd k.bytes n 64 })).setXfer core i
    { f with buf := rest, bytes := f.bytes + n, decq := f.decq ++ [(due, n)], wait := max f.wait due, tried := none }

/-- An Ashlar context: core × 2 + context (12 R307). -/
def State.ash (s : State) (ax : Nat) : AshCtx := sget {} s.ashs ax
/-- Replaces an Ashlar context. -/
def State.setAsh (s : State) (ax : Nat) (c : AshCtx) : State := { s with ashs := sput {} s.ashs ax c }

/-- The Ashlar context of the half of a team that issues on cores like `core` (12 R308). -/
def State.ashOf (s : State) (core team : Nat) : Option Nat :=
  (s.ashs.find? (fun x => x.2.team == some team && (match s.team team with
    | some t => !t.pair || x.2.half == b2n (bitN core 4)
    | none => true))).map (·.1)

/-- The first `n` bytes of the units in a buffer, and what is left of them. -/
def takeHeld : Nat → List BufUnit → Option (Nat × List BufUnit)
  | 0, us => some (0, us)
  | _ + 1, [] => none
  | n + 1, u :: us =>
    if u.stage ≠ .held then none
    else if u.len ≤ n + 1 then (takeHeld (n + 1 - u.len) us).map (fun r => (u.data + r.1 * 2 ^ (8 * u.len), r.2))
    else some (u.data % 2 ^ (8 * (n + 1)),
      { u with len := u.len - (n + 1), data := u.data / 2 ^ (8 * (n + 1)), psn := u.psn / 2 ^ (n + 1) } :: us)

/-- 32 bytes for a metadata queue (12 R330): the Hod waits while it is full, or while the team's context is saved (12 R323). What a failure
leaves of a 32-byte unit goes nowhere. -/
def State.metaUnit (s : State) (core i : Nat) (f : Xfer) : State :=
  let stall (st : State) : State := st.countHod core (fun y => { y with mstall := satAdd y.mstall 1 32 })
  match takeHeld 32 f.buf with
  | none => if f.stop && f.buf.all (fun u => u.stage == .held) then s.setXfer core i { f with buf := [] } else s
  | some (x, rest) =>
    match f.cmd.team.bind s.team with
    | none => s.unitDone core i f rest 32 s.clk
    | some tm =>
      if tm.status == .saved || tm.restoring then stall s
      else match s.ashOf core (f.cmd.team.getD 0) with
        | none => s.unitDone core i f rest 32 s.clk
        | some k =>
          let c : AshCtx := s.ash k
          let mq := bitsN (f.cmd.image.getD 0) 351 350
          let have_ := sget [] c.mq mq
          if have_.length + 32 > 4096 then stall s
          else
            let bs := (List.range 32).map (fun j => bytesAt x j 1)
            (s.setAsh k { c with mq := sput [] c.mq mq (have_ ++ bs) }).unitDone core i f rest 32 s.clk

/-- The oldest unit goes to SRAM (03 R81), if its reservations succeed; its decrement falls due 17 clk after its last bank slot. -/
def State.writeSram (s : State) (core i : Nat) (f : Xfer) (pa : Nat) (u : BufUnit) (rest : List BufUnit) : State :=
  let s0 := s.hodTries core
  match s0.unitBeat core (hodKey core i) (hodAgent core f.q f.cmd.seq) .store .none pa u.len u.data u.psn with
  | some r => r.1.unitDone core i f rest u.len (r.2.1 + 17)
  | none => s0

/-- The oldest unit goes to LPDDR 6, if its path is free; the wait counts in `MSTALL` (03 R81). -/
def State.writeLp (s : State) (core i : Nat) (f : Xfer) (pa : Nat) (u : BufUnit) (rest : List BufUnit) : State :=
  let s0 := s.hodTries core
  match s0.sendLp core pa u.len u.data u.psn with
  | some r => r.1.unitDone core i f rest u.len r.2
  | none => s0.countHod core (fun k => { k with mstall := satAdd k.mstall 1 32 })

/-- The oldest unit goes to a link, if its path is free (03 R81, R82): `o` is what the other side makes of it. -/
def State.writeLink (s : State) (core i : Nat) (f : Xfer) (edge gap : Nat) (o : Nat × State) (u : BufUnit) (rest : List BufUnit)
    (bad : State → Nat → State) : State :=
  match s.tryPath (toEdge core edge (s.clk + 3)) with
  | none => (s.hodTries core).countHod core (fun k => { k with mstall := satAdd k.mstall 1 32 })
  | some s1 =>
    let s2 := ({ o.2 with cal := s1.cal }).hodTries core
    if o.1 = 0 ∨ o.1 ≥ 13 then s2.unitDone core i (f.fail o.1) rest u.len (s.clk + 3 + 2 * edgeHops core edge + gap) else bad s2 o.1

/-- 03 R81: the oldest unit of the buffer is written to its destination. -/
def execHodUnitWrite (core t : Nat) (s0 : State) : Host.Outcome State Fault Refusal :=
  .next <|
    let s := (s0.dueDecs core t false).unitsCome core t
    match (s.hod core).slot t with
    | none => s
    | some f =>
      match f.buf with
      | [] => s
      | u :: rest =>
        let agent := hodAgent core f.q f.cmd.seq
        let bad (st : State) (k : Nat) : State := (st.dropUnits core t).setXfer core t { f.fail k with stop := true, buf := [] }
        if f.walk.isSome ∨ f.cmd.op = 9 ∨ u.stage ≠ .held then s
        else if f.cmd.op = 7 then s.metaUnit core t f
        else if s.hodMay core = false ∨ s.padHeld f.cmd u.dst = true then s
        else if f.flag.isSome then (if f.cmd.op = 5 then s.writeLp core t f u.dst u rest else s.writeSram core t f u.dst u rest)
        else match spaceOf u.dst with
          | 2 =>
            (match s.pageFor core t f true (u.dst % 2 ^ 48 / 65536) needW with
            | (.error k, s1) => bad s1 k
            | (.ok none, s1) => s1
            | (.ok (some e), s1) =>
              let g := match (s1.hod core).slot t with
                | some g => g
                | none => f
              s1.writeLp core t g (pteAddr e u.dst) u rest)
          | 3 => s.writeLink core t f (hostStop u.dst) 0 (s.writeHost f.cmd.ctx u.dst u.len) u rest bad
          | 4 => s.writeLink core t f (s.peerStop u.dst) 17 (s.writePeer agent f.cmd.ctx u.dst u.len u.data u.psn) u rest bad
          | _ =>
            (match s.hodXlate core f.q f.cmd u.dst needW with
            | .error k => bad s k
            | .ok pa => s.writeSram core t f pa u rest)

/-- Whether a bank slot is still reserved at the backing of the page at work (03 R86, step 3). -/
def State.backingHeld (s : State) (f : Xfer) : Bool :=
  let va := f.pageVa + f.elem * 65536
  match (s.ctx f.cmd.ctx).seg? va with
  | none => false
  | some e => s.slotsHeld.any (fun b => (List.range 256).any (fun k => segPa e (va + 256 * k) / 256 == b.gran / 8))

/-- 03 R86, step 3: the wait of an eviction ends. -/
def execEvictWaitEnd (core t : Nat) (s : State) : Host.Outcome State Fault Refusal :=
  .next <|
    match (s.hod core).slot t with
    | none => s
    | some f =>
      if f.phase ≠ .evict ∨ s.clk < f.wait ∨ s.backingHeld f = true then s
      else
        let s1 := s.countHod core (fun k => { k with evicted := satAdd k.evicted 1 32 })
        if bitN (f.cmd.image.getD 0) 351 then s1.setXfer core t { f with phase := .moving }
        else s1.endPage core t f

/-! ### Completion -/

/-- Whether everything a transfer had to move has moved. -/
def Xfer.moved (f : Xfer) : Bool :=
  f.buf.isEmpty && f.walk.isNone && (f.stop || f.phase == .ended || (f.phase == .moving && f.flag.isNone && decide (f.elem ≥ f.cmd.count)))

/-- A failed transfer decrements what is left and sets `TXERR` (05 R133). -/
def State.failDecs (s : State) (f : Xfer) : State :=
  if f.status = 0 ∨ f.status > 12 then s
  else
    let s1 := match f.dbar with
      | some pa => s.barDec pa (.decIn (f.cmd.total - f.inDec) true)
      | none => s
    match f.sbar with
    | some pa => s1.barDec pa (.decOut (f.cmd.total - f.outDec) true)
    | none => s1

/-- A command's ticket completes (11 R292, R299): count, log, counters, the warp's `OC`, the HODDONE record, waiters. -/
def State.hodDone (s : State) (core q : Nat) (c : HodCmd) (st bytes : Nat) : State :=
  let s1 := s.updHod core (fun h =>
    let x := h.queue q
    h.setQueue q { x with cseq := (x.cseq + 1) % 2 ^ 18, log := (⟨c.seq, st, bytes⟩ :: x.log).take 16 })
  let s2 := s1.countHod core (fun k => { k with
    ncmd := satAdd k.ncmd 1 32, derr := if 13 ≤ st ∧ st ≤ 15 then satAdd k.derr 1 32 else k.derr })
  let s3 := if q = 16 then
      s2.journal c.jsrc c.jlaunch c.jpos 14 c.ctx (hodTicket core 16 c.seq + st * 2 ^ 32 + bytes % 2 ^ 32 * 2 ^ 64)
    else s2
  let s4 := match c.node with
    | some n => { s3 with copyDone := s3.copyDone ++ [(n.1, n.2, st)] }
    | none => s3
  let s5 := match c.team with
    | some t => if q < 16 then s4.lowerOc t c.warp c.epoch else s4
    | none => s4
  s5.wakeTickets

/-- 11 R292: a command whose transfer is over completes in queue order; before that, a page command goes on to its next page
(03 R84-R87). -/
def execHodCommandComplete (core t : Nat) (s0 : State) : Host.Outcome State Fault Refusal :=
  .next <|
    let s := s0.dueDecs core t false
    match (s.hod core).slot t with
    | none => s
    | some f =>
      if f.phase = .begin then s.beginPage core t f
      else if f.flag.isSome && f.phase == .moving && decide (f.off ≥ 65536) && f.buf.isEmpty then
        if s.clk < f.wait then s else s.endPage core t f
      else if f.q = 17 ∨ !f.moved ∨ s.clk < f.wait ∨ ((s.hod core).queue f.q).cseq ≠ f.cmd.seq ∨
          (f.cmd.op = 9 ∧ f.phase ≠ .ended) ∨ s.startHeld f.cmd = true then s
      else
        let s1 := ((s.dueDecs core t true).failDecs f).dropFlag f.kept
        let s2 := s1.updHod core (fun h => h.setSlot t none)
        s2.hodDone core f.q f.cmd f.status f.bytes

/-- 11 R297: all lanes of an HLDR are written at once. -/
def execHldrDelivery (core m : Nat) (s : State) : Host.Outcome State Fault Refusal :=
  .next <|
    match (s.hod core).slot m with
    | none => s
    | some f =>
      if f.cmd.op ≠ 9 ∨ f.phase = .ended ∨ f.got.length < f.cmd.lanes.length then s
      else
        let s1 := s.setXfer core m { f with phase := .ended }
        match f.cmd.team.bind (fun t => s.warpKey t f.cmd.warp) with
        | none => s1
        | some k => s1.deliver k (fun p => p.del == .hldr f.cmd.seq) (fun _ => f.got) (fun _ => [])

/-- A fragment whose repair failed goes to the context's handler with the status in `HST`, in a record of its fault (03 R89; 16 R422, R423). -/
def State.handFragment (s : State) (a : AutoFrag) : State :=
  match s.warpKey a.team a.warp with
  | none => s
  | some key =>
    match s.warp key, s.fragNode key a.fragId with
    | some w, some _ => s.queueFaultFrom a.after key w 1 1 (a.img + fieldN a.st 294 5) (.frag a.team a.warp a.fragId)
    | _, _ => s

/-- 03 R89, 16 R422: a repair completes; a fragment for which it was the last one resumes, or goes to the handler when some have failed. -/
def execRepairComplete (core t : Nat) (s0 : State) : Host.Outcome State Fault Refusal :=
  .next <|
    match (s0.hod core).slot t with
    | none => s0
    | some f =>
      if f.q ≠ 17 ∨ !f.moved ∨ s0.clk < f.wait ∨ f.phase = .begin then s0
      else
        let s := ((s0.dropFlag f.kept).updHod core (fun h => h.setSlot t none)).hodDone core 17 f.cmd f.status f.bytes
        let mine (a : AutoFrag) : Bool := a.core == core && a.ctx == f.cmd.ctx && a.pages.contains f.cmd.page
        let failed := decide (1 ≤ f.status ∧ f.status ≤ 12)
        let next := s.autoFrags.map (fun a =>
          if mine a then { a with pages := a.pages.filter (· != f.cmd.page), st := if failed then worse a.st f.status else a.st } else a)
        (next.filter (fun a => a.pages.isEmpty)).foldl (fun st a =>
          if a.st ≠ 0 then st.handFragment a
          else
            match st.warpKey a.team a.warp with
            | some key => (match st.fragNode key a.fragId with
              | some nid => st.resumeFrag key nid 0
              | none => st)
            | none => st) { s with autoFrags := next.filter (fun a => !a.pages.isEmpty) }

end Sys2Proof.Machine
end

