-- ==== Sys2Proof/Machine/IntOps.lean ====
section
/-! DEFINITION. Integer, logic and bit-field instructions of majors 0x05, 0x06 and 0x10-0x18 (08 R200-R207). -/
namespace Sys2Proof.Machine

/-- A signed division rounding towards minus infinity by 2^k, narrowed (08 R201, R204). -/
def sraW (a : Word) (k : Nat) : Word := BitVec.ofInt 32 (a.toInt / (2 ^ k : Nat))

/-- SHL of 08 R204. -/
def shlW (a b : Word) : Word := if b.toNat < 32 then a <<< b.toNat else 0#32
/-- SHR of 08 R204. -/
def shrW (a b : Word) : Word := if b.toNat < 32 then a >>> b.toNat else 0#32
/-- SHRA of 08 R204. -/
def shraW (a b : Word) : Word := if b.toNat < 32 then sraW a b.toNat else sraW a 31
/-- ROL of 08 R204. -/
def rolW (a b : Word) : Word := a.rotateLeft (b.toNat % 32)
/-- POPC of 08 R204. -/
def popcW (a : Word) : Word := BitVec.ofNat 32 (popN a.toNat 32)
/-- CLZ of 08 R204. -/
def clzW (a : Word) : Word := if a = 0#32 then 32#32 else BitVec.ofNat 32 (31 - Nat.log2 a.toNat)
/-- BREV of 08 R204. -/
def brevW (a : Word) : Word := a.reverse

/-- One result byte of PRMT (08 R205). -/
def prmtByte (a : Nat) (c : Nat) : Nat :=
  let b := a / 2 ^ (8 * (c % 4)) % 256
  if bitN c 3 then 0 else if bitN c 2 then (if bitN b 7 then 0xff else 0) else b

/-- PRMT of 08 R205. -/
def prmtW (a b : Word) : Word :=
  let x := a.toNat
  let c := b.toNat
  BitVec.ofNat 32 (prmtByte x (bitsN c 3 0) + 2 ^ 8 * prmtByte x (bitsN c 7 4) + 2 ^ 16 * prmtByte x (bitsN c 11 8)
    + 2 ^ 24 * prmtByte x (bitsN c 15 12))

/-- Field position of BFE and BFI (08 R205). -/
def bfPos (b : Word) : Nat := bitsN b.toNat 4 0
/-- Field length of BFE and BFI (08 R205). -/
def bfLen (b : Word) : Nat := min (bitsN b.toNat 13 8) (32 - bfPos b)

/-- BFE of 08 R205. -/
def bfeW (a b : Word) : Word :=
  let len := bfLen b
  if len = 0 then 0#32
  else
    let x := a.toNat / 2 ^ bfPos b % 2 ^ len
    if bitN b.toNat 16 then BitVec.ofInt 32 (sextN x len) else BitVec.ofNat 32 x

/-- BFI of 08 R207. -/
def bfiW (a b d : Word) : Word :=
  let len := bfLen b
  let pos := bfPos b
  let mask := (2 ^ len - 1) * 2 ^ pos
  BitVec.ofNat 32 ((d.toNat - (d.toNat &&& mask)) + (a.toNat % 2 ^ len) * 2 ^ pos)

/-- `IMM11` sign-extended (07 R190). -/
def imm11 (i : Nat) : Word := BitVec.ofInt 32 (sextN i 11)

/-- 08 R201 ADD.W: wrap32(a + b). -/
def execAddW (n d a b : Nat) (s : State) : Host.Outcome State Fault Refusal :=
  execIntOp s n d [a, b] false fun l => w0 l + w1 l

/-- 08 R201 SUB.W: wrap32(a - b). -/
def execSubW (n d a b : Nat) (s : State) : Host.Outcome State Fault Refusal :=
  execIntOp s n d [a, b] false fun l => w0 l - w1 l

/-- 08 R201 MUL.W: wrap32(a × b). -/
def execMulW (n d a b : Nat) (s : State) : Host.Outcome State Fault Refusal :=
  execIntOp s n d [a, b] false fun l => w0 l * w1 l

/-- 08 R201 MULHI.W: high half of the signed product. -/
def execMulhiW (n d a b : Nat) (s : State) : Host.Outcome State Fault Refusal :=
  execIntOp s n d [a, b] false fun l => BitVec.ofInt 32 ((w0 l).toInt * (w1 l).toInt / 2 ^ 32)

/-- 08 R201 MULHU.W: high half of the unsigned product. -/
def execMulhuW (n d a b : Nat) (s : State) : Host.Outcome State Fault Refusal :=
  execIntOp s n d [a, b] false fun l => BitVec.ofNat 32 ((w0 l).toNat * (w1 l).toNat / 2 ^ 32)

/-- 08 R201 MIN.W: the signed smaller. -/
def execMinW (n d a b : Nat) (s : State) : Host.Outcome State Fault Refusal :=
  execIntOp s n d [a, b] false fun l => if (w0 l).toInt ≤ (w1 l).toInt then w0 l else w1 l

/-- 08 R201 MAX.W: the signed larger. -/
def execMaxW (n d a b : Nat) (s : State) : Host.Outcome State Fault Refusal :=
  execIntOp s n d [a, b] false fun l => if (w0 l).toInt ≤ (w1 l).toInt then w1 l else w0 l

/-- 08 R201 MINU.W: the unsigned smaller. -/
def execMinuW (n d a b : Nat) (s : State) : Host.Outcome State Fault Refusal :=
  execIntOp s n d [a, b] false fun l => if (w0 l).toNat ≤ (w1 l).toNat then w0 l else w1 l

/-- 08 R201 MAXU.W: the unsigned larger. -/
def execMaxuW (n d a b : Nat) (s : State) : Host.Outcome State Fault Refusal :=
  execIntOp s n d [a, b] false fun l => if (w0 l).toNat ≤ (w1 l).toNat then w1 l else w0 l

/-- 08 R204 AND. -/
def execAnd (n d a b : Nat) (s : State) : Host.Outcome State Fault Refusal :=
  execIntOp s n d [a, b] false fun l => w0 l &&& w1 l

/-- 08 R204 OR. -/
def execOr (n d a b : Nat) (s : State) : Host.Outcome State Fault Refusal :=
  execIntOp s n d [a, b] false fun l => w0 l ||| w1 l

/-- 08 R204 XOR. -/
def execXor (n d a b : Nat) (s : State) : Host.Outcome State Fault Refusal :=
  execIntOp s n d [a, b] false fun l => w0 l ^^^ w1 l

/-- 08 R204 ANDN: a and not b. -/
def execAndn (n d a b : Nat) (s : State) : Host.Outcome State Fault Refusal :=
  execIntOp s n d [a, b] false fun l => w0 l &&& ~~~(w1 l)

/-- 08 R204 SHL. -/
def execShl (n d a b : Nat) (s : State) : Host.Outcome State Fault Refusal :=
  execIntOp s n d [a, b] false fun l => shlW (w0 l) (w1 l)

/-- 08 R204 SHR. -/
def execShr (n d a b : Nat) (s : State) : Host.Outcome State Fault Refusal :=
  execIntOp s n d [a, b] false fun l => shrW (w0 l) (w1 l)

/-- 08 R204 SHRA. -/
def execShra (n d a b : Nat) (s : State) : Host.Outcome State Fault Refusal :=
  execIntOp s n d [a, b] false fun l => shraW (w0 l) (w1 l)

/-- 08 R204 ROL. -/
def execRol (n d a b : Nat) (s : State) : Host.Outcome State Fault Refusal :=
  execIntOp s n d [a, b] false fun l => rolW (w0 l) (w1 l)

/-- 08 R205 PRMT. -/
def execPrmt (n d a b : Nat) (s : State) : Host.Outcome State Fault Refusal :=
  execIntOp s n d [a, b] false fun l => prmtW (w0 l) (w1 l)

/-- 08 R205 BFE. -/
def execBfe (n d a b : Nat) (s : State) : Host.Outcome State Fault Refusal :=
  execIntOp s n d [a, b] false fun l => bfeW (w0 l) (w1 l)

/-- 08 R204 POPC. -/
def execPopc (n d a : Nat) (s : State) : Host.Outcome State Fault Refusal :=
  execIntOp s n d [a] false fun l => popcW (w0 l)

/-- 08 R204 CLZ. -/
def execClz (n d a : Nat) (s : State) : Host.Outcome State Fault Refusal :=
  execIntOp s n d [a] false fun l => clzW (w0 l)

/-- 08 R204 BREV. -/
def execBrev (n d a : Nat) (s : State) : Host.Outcome State Fault Refusal :=
  execIntOp s n d [a] false fun l => brevW (w0 l)

/-- 08 R204 MOV. -/
def execMov (n d a : Nat) (s : State) : Host.Outcome State Fault Refusal :=
  execIntOp s n d [a] false fun l => w0 l

/-- 08 R201 LEA: wrap32(a + b × 2^(FN - 9)). -/
def execLea (n d a b k : Nat) (s : State) : Host.Outcome State Fault Refusal :=
  execIntOp s n d [a, b] false fun l => w0 l + BitVec.ofNat 32 ((w1 l).toNat * 2 ^ (k - 9))

/-- 08 R202 MAD.W: wrap32(a × b + d), D read before it is written (07 R193). -/
def execMadW (n d a b : Nat) (s : State) : Host.Outcome State Fault Refusal :=
  execIntOp s n d [a, b] true fun l => w0 l * w1 l + w2 l

/-- 08 R207 BFI: d with a field replaced by the low bits of a. -/
def execBfi (n d a b : Nat) (s : State) : Host.Outcome State Fault Refusal :=
  execIntOp s n d [a, b] true fun l => bfiW (w0 l) (w1 l) (w2 l)

/-- 08 R202 ADDI.W. -/
def execAddiW (n d a i : Nat) (s : State) : Host.Outcome State Fault Refusal :=
  execIntOp s n d [a] false fun l => w0 l + imm11 i

/-- 08 R206 ANDI. -/
def execAndi (n d a i : Nat) (s : State) : Host.Outcome State Fault Refusal :=
  execIntOp s n d [a] false fun l => w0 l &&& imm11 i

/-- 08 R206 ORI. -/
def execOri (n d a i : Nat) (s : State) : Host.Outcome State Fault Refusal :=
  execIntOp s n d [a] false fun l => w0 l ||| imm11 i

/-- 08 R206 XORI. -/
def execXori (n d a i : Nat) (s : State) : Host.Outcome State Fault Refusal :=
  execIntOp s n d [a] false fun l => w0 l ^^^ imm11 i

/-- 08 R206 SHLI. -/
def execShli (n d a k : Nat) (s : State) : Host.Outcome State Fault Refusal :=
  execIntOp s n d [a] false fun l => shlW (w0 l) (BitVec.ofNat 32 k)

/-- 08 R206 SHRI. -/
def execShri (n d a k : Nat) (s : State) : Host.Outcome State Fault Refusal :=
  execIntOp s n d [a] false fun l => shrW (w0 l) (BitVec.ofNat 32 k)

/-- 08 R206 SHRAI. -/
def execShrai (n d a k : Nat) (s : State) : Host.Outcome State Fault Refusal :=
  execIntOp s n d [a] false fun l => shraW (w0 l) (BitVec.ofNat 32 k)

/-- 08 R203 MOVI: wrap32(sext(IMM18, 18)). -/
def execMovi (n d i : Nat) (s : State) : Host.Outcome State Fault Refusal :=
  execIntOp s n d [] false fun _ => BitVec.ofInt 32 (sextN i 18)

/-- 08 R203 MOVHI: IMM18[13:0] × 2^18 + bits(dst, 17, 0); the destination is read as a source. -/
def execMovhi (d i : Nat) (s : State) : Host.Outcome State Fault Refusal :=
  execIntOp s 0 d [] true fun l => BitVec.ofNat 32 (i * 2 ^ 18 + (w0 l).toNat % 2 ^ 18)

end Sys2Proof.Machine
end

