-- ==== Sys2Proof/Machine/LaneOps.lean ====
section
/-! DEFINITION. Selection, comparison, predicates and lane instructions (08 R208-R215). -/
namespace Sys2Proof.Machine

/-- A predicate source field in every lane: number [2:0], inversion [3] (07 R183). -/
def predSrc (w : Warp) (f : Nat) : LaneMask :=
  let m := w.pAt (f % 8)
  if f / 8 % 2 = 1 then ~~~m else m

/-- 08 R208 SEL. -/
def execSel (n d a b v p : Nat) (s : State) : Host.Outcome State Fault Refusal :=
  issuing s true fun c s1 => do
    let m := predSrc c.w (p + 8 * v)
    if n = 0 ∧ isS d = true then
      need (uniSrcOk a && uniSrcOk b) trapOpnd
      if c.any then
        return s1.uniResult c (c.npc [a, b]) d (if m.getLsbD c.low then c.opndU a else c.opndU b)
      else return s1.finish c (c.npc [a, b]) .keep
    else
      need (c.srcOk a && c.srcOk b && decide (d ≤ 95)) trapOpnd
      return s1.laneResult c (c.npc [a, b]) n d
        ((lanesOf c.act).map (fun l => (l, if m.getLsbD l then c.opnd a l else c.opnd b l)))

/-- The shape of a compare: a predicate written per active lane, POISON_USE on lanes with a poisoned operand
(08 R209, 10 R260; 04 R115). -/
def execCompare (s : State) (accept : Nat → Bool) (d a b : Nat) (f : Ctx → Word → Word → Bool) :
    Host.Outcome State Fault Refusal :=
  issuing s true fun c s1 => do
    need (accept (etOf c.p.mode)) trapInstr
    need (c.srcOk a && c.srcOk b && decide (d < 7)) trapOpnd
    let ls := lanesOf c.act
    let bad := ls.filter (fun l => (c.opnd a l).psn || (c.opnd b l).psn)
    let good := ls.filter (fun l => !((c.opnd a l).psn || (c.opnd b l).psn))
    let val := maskOf (good.filter (fun l => f c (c.opnd a l).bits (c.opnd b l).bits))
    return s1.predResult c (c.npc [a, b]) d (maskOf good) val (poisonLanes bad)

/-- The conditions of CMP.W by code (08 R209). -/
def cmpW (cc : Nat) (x y : Word) : Bool :=
  match cc with
  | 0 => x == y
  | 1 => x != y
  | 2 => decide (x.toInt < y.toInt)
  | 3 => decide (x.toInt ≤ y.toInt)
  | 4 => decide (y.toInt < x.toInt)
  | 5 => decide (y.toInt ≤ x.toInt)
  | 6 => decide (x.toNat < y.toNat)
  | 7 => decide (x.toNat ≤ y.toNat)
  | 8 => decide (y.toNat < x.toNat)
  | _ => decide (y.toNat ≤ x.toNat)

/-- 08 R209 CMP.W. -/
def execCmpW (d a b cc : Nat) (s : State) : Host.Outcome State Fault Refusal :=
  execCompare s (fun _ => true) d a b fun _ x y => cmpW cc x y

/-- The shape of PAND, POR, PXOR and PNOT (08 R210). -/
def execPred (s : State) (d : Nat) (f : Warp → LaneMask) : Host.Outcome State Fault Refusal :=
  issuing s true fun c s1 => do
    need (decide (d < 7)) trapOpnd
    return s1.predResult c (c.npc []) d c.act (f c.w)

/-- 08 R210 PAND. -/
def execPand (d a b : Nat) (s : State) : Host.Outcome State Fault Refusal :=
  execPred s d fun w => predSrc w a &&& predSrc w b
/-- 08 R210 POR. -/
def execPor (d a b : Nat) (s : State) : Host.Outcome State Fault Refusal :=
  execPred s d fun w => predSrc w a ||| predSrc w b
/-- 08 R210 PXOR. -/
def execPxor (d a b : Nat) (s : State) : Host.Outcome State Fault Refusal :=
  execPred s d fun w => predSrc w a ^^^ predSrc w b
/-- 08 R210 PNOT. -/
def execPnot (d a : Nat) (s : State) : Host.Outcome State Fault Refusal :=
  execPred s d fun w => ~~~(predSrc w a)

/-- The predicates of a lane as a number; bit 7 is p7. -/
def predBits (w : Warp) (l : Nat) : Nat :=
  ((List.range 8).filter (fun i => (w.pAt i).getLsbD l)).foldl (fun a i => a + 2 ^ i) 0

/-- 08 R210 PMOVS: the predicates of each lane into a v-register or y. -/
def execPmovs (n d : Nat) (s : State) : Host.Outcome State Fault Refusal :=
  issuing s true fun c s1 => do
    need (n == 1 || decide (d < 64)) trapOpnd
    return s1.laneResult c (c.npc []) n d
      ((lanesOf c.act).map (fun l => (l, (⟨BitVec.ofNat 32 (predBits c.w l), false⟩ : Val))))

/-- 08 R210 PMOVP: predicates 0 to 6 of each lane from the bits of a that m names. -/
def execPmovp (a b : Nat) (s : State) : Host.Outcome State Fault Refusal :=
  issuing s true fun c s1 => do
    need (c.srcOk a && c.srcOk b) trapOpnd
    let ls := lanesOf c.act
    let bad := ls.filter (fun l => (c.opnd a l).psn || (c.opnd b l).psn)
    let good := ls.filter (fun l => !((c.opnd a l).psn || (c.opnd b l).psn))
    let s2 := s1.updWarp c.key (fun w => (List.range 7).foldl (fun (x : Warp) i =>
      let which := maskOf (good.filter (fun l => (c.opnd b l).bits.getLsbD i))
      x.setP i which (maskOf (good.filter (fun l => (c.opnd a l).bits.getLsbD i)))) w)
    return s2.finish c (c.npc [a, b]) .keep (poisonLanes bad)

/-- A v-register or y destination (08 R211). -/
def laneDst (n d : Nat) : Bool := n == 1 || decide (d < 64)

/-- The word selector of BALLOT and MATCH: a uniform operand below w / 32 (08 R211). A poisoned selector raises POISON_USE
on every active lane (04 R115; log 15). -/
def Ctx.selector (c : Ctx) (k : Nat) : Except Trap Nat := do
  need (uniOk k) trapOpnd
  let v := c.opndU k
  if v.psn && c.any then .error (.all 5 0) else pure ()
  need (decide (v.bits.toNat < c.w.width / 32)) trapOpnd
  return v.bits.toNat

/-- Bits of lanes 32k to 32k + 31 of a list of lanes. -/
def laneWord (k : Nat) (ls : List Nat) : Word :=
  BitVec.ofNat 32 ((ls.filter (fun l => l / 32 == k)).foldl (fun a l => a + 2 ^ (l % 32)) 0)

/-- The shape of BALLOT and MATCH: lanes with a poisoned a fault and take no part (08 R212). -/
def execMaskOf (s : State) (n d a k : Nat) (f : (Nat → Word) → Nat → Nat → Bool) : Host.Outcome State Fault Refusal :=
  issuing s true fun c s1 => do
    need (c.srcOk a && laneDst n d) trapOpnd
    let sel ← c.selector k
    let ls := lanesOf c.act
    let bad := ls.filter (fun l => (c.opnd a l).psn)
    let good := ls.filter (fun l => !(c.opnd a l).psn)
    let val (l : Nat) : Word := (c.opnd a l).bits
    return s1.laneResult c (c.npc [a, k]) n d
      (good.map (fun l => (l, (⟨laneWord sel (good.filter (f val l)), false⟩ : Val)))) (poisonLanes bad)

/-- 08 R212 BALLOT. -/
def execBallot (n d a k : Nat) (s : State) : Host.Outcome State Fault Refusal :=
  execMaskOf s n d a k fun val _ j => val j != 0#32

/-- 08 R212 MATCH. -/
def execMatch (n d a k : Nat) (s : State) : Host.Outcome State Fault Refusal :=
  execMaskOf s n d a k fun val l j => val j == val l

/-- The shape of VANY and VALL (08 R212). -/
def execVote (s : State) (d a : Nat) (f : List Bool → Bool) : Host.Outcome State Fault Refusal :=
  issuing s true fun c s1 => do
    need (c.srcOk a && decide (d < 7)) trapOpnd
    let ls := lanesOf c.act
    let bad := ls.filter (fun l => (c.opnd a l).psn)
    let good := ls.filter (fun l => !(c.opnd a l).psn)
    let r := f (good.map (fun l => (c.opnd a l).bits != 0#32))
    return s1.predResult c (c.npc [a]) d (maskOf good) (if r then maskOf good else 0#96) (poisonLanes bad)

/-- 08 R212 VANY. -/
def execVany (d a : Nat) (s : State) : Host.Outcome State Fault Refusal := execVote s d a fun bs => bs.any id
/-- 08 R212 VALL. -/
def execVall (d a : Nat) (s : State) : Host.Outcome State Fault Refusal := execVote s d a fun bs => bs.all id

/-- 08 R212 ELECT: true in the lowest-numbered active lane. -/
def execElect (d : Nat) (s : State) : Host.Outcome State Fault Refusal :=
  issuing s true fun c s1 => do
    need (decide (d < 7)) trapOpnd
    return s1.predResult c (c.npc []) d c.act (if c.any then laneBit c.low else 0#96)

/-- The shape of SHFL: the source lane by lane and b, and what a lane without a source receives (08 R213). -/
def execShfl (s : State) (n d a b : Nat) (src : Nat → Word → Option Nat) (own : Bool) :
    Host.Outcome State Fault Refusal :=
  issuing s true fun c s1 => do
    need (c.srcOk a && c.srcOk b && laneDst n d) trapOpnd
    return s1.laneResult c (c.npc [a, b]) n d ((lanesOf c.act).map (fun l =>
      let bv := c.opnd b l
      let fall : Val := if own then c.opnd a l else {}
      let r := match src l bv.bits with
        | some j => if j < c.w.width && c.act.getLsbD j then c.opnd a j else fall
        | none => fall
      (l, { r with psn := r.psn || bv.psn })))

/-- 08 R213 SHFL.IDX. -/
def execShflIdx (n d a b : Nat) (s : State) : Host.Outcome State Fault Refusal :=
  execShfl s n d a b (fun _ x => some (x.toNat % 128)) true
/-- 08 R213 SHFL.UP. -/
def execShflUp (n d a b : Nat) (s : State) : Host.Outcome State Fault Refusal :=
  execShfl s n d a b (fun l x => if x.toNat ≤ l then some (l - x.toNat) else none) false
/-- 08 R213 SHFL.DN. -/
def execShflDn (n d a b : Nat) (s : State) : Host.Outcome State Fault Refusal :=
  execShfl s n d a b (fun l x => some (l + x.toNat)) false
/-- 08 R213 SHFL.XOR. -/
def execShflXor (n d a b : Nat) (s : State) : Host.Outcome State Fault Refusal :=
  execShfl s n d a b (fun l x => some (l ^^^ (x.toNat % 128))) true

/-- 08 R214 READLANE: the a of lane k to every active lane, if lane k is in the path's mask. A poisoned k is a poisoned
uniform operand: POISON_USE on every active lane (log 15). -/
def execReadlane (n d a k : Nat) (s : State) : Host.Outcome State Fault Refusal :=
  issuing s true fun c s1 => do
    need (c.srcOk a && uniOk k && laneDst n d) trapOpnd
    let kv := c.opndU k
    if kv.psn && c.any then .error (.all 5 0) else pure ()
    let j := kv.bits.toNat
    let x : Val := if j < c.w.width && c.p.mask.getLsbD j then c.opnd a j else {}
    return s1.laneResult c (c.npc [a, k]) n d ((lanesOf c.act).map (fun l => (l, x)))

/-- 08 R214 BCAST: the a of the lowest-numbered active lane to every active lane. -/
def execBcast (n d a : Nat) (s : State) : Host.Outcome State Fault Refusal :=
  issuing s true fun c s1 => do
    need (c.srcOk a && laneDst n d) trapOpnd
    return s1.laneResult c (c.npc [a]) n d ((lanesOf c.act).map (fun l => (l, c.opnd a c.low)))

/-- One level of the tree of 08 R215: neighbours combined, an absent one passing the other through. -/
def treeLevel {α : Type} (f : α → α → α) : List (Option α) → List (Option α)
  | [] => []
  | [x] => [x]
  | x :: y :: t =>
    (match x, y with
      | some a, some b => some (f a b)
      | some a, none => some a
      | none, r => r) :: treeLevel f t

/-- The fixed pairwise tree of 08 R215 and 11 R303. -/
def treeReduce {α : Type} (f : α → α → α) : Nat → List (Option α) → Option α
  | 0, l => (l.headD none)
  | fuel + 1, l =>
    match l with
    | [] => none
    | [x] => x
    | _ => treeReduce f fuel (treeLevel f l)

/-- One node of WREDUCE: value and flags (08 R215). `op` 0 ADD, 1 MIN, 2 MAX. -/
def wredNode (et : Nat) (md : NMode) (op : Nat) (x y : Nat × Nat) : Nat × Nat :=
  let t := ety et
  match t.fmt with
  | none =>
    let a := intElem t x.1
    let b := intElem t y.1
    (match op with
      | 0 => narrowInt 32 t.signed md.sat (a + b)
      | 1 => if a ≤ b then x.1 else y.1
      | _ => if a ≤ b then y.1 else x.1, 0)
  | some f =>
    let a := f.read md.fi x.1
    let b := f.read md.fi y.1
    match op with
    | 0 =>
      let r := addFV (noRsr md).rm a b
      let e := roundFp f (noRsr md) 0 r.1
      (e.1, x.2 ||| y.2 ||| r.2 ||| e.2)
    | _ =>
      let fl (z : FV) (raw : Nat) : Nat := match z with
        | .fin neg 0 _ => f.sgn neg
        | _ => raw
      let r :=
        if a.isNan && b.isNan then f.canon
        else if a.isNan then fl b y.1
        else if b.isNan then fl a x.1
        else if op = 1 then (if cmpZ b a == .lt then fl b y.1 else fl a x.1)
        else (if cmpZ a b == .lt then fl b y.1 else fl a x.1)
      (r, x.2 ||| y.2)

/-- The shape of WREDUCE (08 R215): the fixed tree over the active lanes, one result to all of them; ARITH falls on every
active lane. -/
def execWreduce (s : State) (op n d a : Nat) : Host.Outcome State Fault Refusal :=
  issuing s true fun c s1 => do
    let et := etOf c.p.mode
    let md := nmode c.p.mode
    need (decide (et ≤ 2)) trapInstr
    need (c.srcOk a && laneDst n d) trapOpnd
    let ls := lanesOf c.act
    let q := ls.any (fun l => (c.opnd a l).psn)
    let nodes := (List.range c.w.width).map (fun l =>
      if c.act.getLsbD l then some ((c.opnd a l).bits.toNat, 0) else none)
    let r := (treeReduce (wredNode et md op) 8 nodes).getD (0, 0)
    let fl := if q then 0 else r.2
    if md.axt && fl &&& (flIV ||| flDZ ||| flOF) ≠ 0 then
      return s1.finish c (c.npc [a]) .keep (ls.map (fun l => ⟨l, 6, 0, fl⟩))
    else
      return s1.laneResult c (c.npc [a]) n d
        (ls.map (fun l => (l, (⟨BitVec.ofNat 32 r.1, q⟩ : Val)))) [] fl

/-- 08 R215 WREDUCE.ADD. -/
def execWreduceAdd (n d a : Nat) (s : State) : Host.Outcome State Fault Refusal := execWreduce s 0 n d a
/-- 08 R215 WREDUCE.MIN. -/
def execWreduceMin (n d a : Nat) (s : State) : Host.Outcome State Fault Refusal := execWreduce s 1 n d a
/-- 08 R215 WREDUCE.MAX. -/
def execWreduceMax (n d a : Nat) (s : State) : Host.Outcome State Fault Refusal := execWreduce s 2 n d a

end Sys2Proof.Machine
end

