-- ==== Sys2Proof/Machine/Typed.lean ====
section
/-! DEFINITION. Typed arithmetic, comparison, conversion, packing and dot products (10 R253-R262, R266-R271). -/
namespace Sys2Proof.Machine

/-- Integer element types. -/
def etInt (et : Nat) : Bool := decide (et ≤ 1 ∨ (5 ≤ et ∧ et ≤ 8))
/-- Floating element types. -/
def etFloat (et : Nat) : Bool := et == 2 || et == 3 || et == 4 || et == 9 || et == 10
/-- f32, f16x2, bf16x2. -/
def etWide (et : Nat) : Bool := et == 2 || et == 3 || et == 4
/-- Every element type. -/
def etAny (et : Nat) : Bool := decide (et ≤ 10)

/-- The stochastic draw of a lane for the instruction being issued (09 R246). -/
def Ctx.draw (c : Ctx) (lane : Nat) : Nat :=
  let team := match c.w.tcb with
    | some a => a / 64
    | none => c.w.teamId
  srDraw c.w.seed team c.w.warpId lane (c.w.cnt.getD lane 0)

/-- Whether flags trap under `AXT` (09 R248). -/
def trapping (md : NMode) (fl : Nat) : Bool := md.axt && (fl &&& (flIV ||| flDZ ||| flOF)) != 0

/-- Ends a typed instruction: results and flags by lane; trapping lanes take ARITH and are not written (10 R253). -/
def State.typedResult (s : State) (c : Ctx) (npc : Word) (n d : Nat) (md : NMode) (rs : List (Nat × Val × Nat)) : State :=
  let bad := rs.filter (fun r => trapping md r.2.2)
  let good := rs.filter (fun r => !trapping md r.2.2)
  s.laneResult c npc n d (good.map (fun r => (r.1, r.2.1)))
    (bad.map (fun r => ⟨r.1, 6, 0, r.2.2⟩)) (good.foldl (fun a r => a ||| r.2.2) 0)

/-- A lane of 10 R253: from the elements of the registers `codes` name, element by element, to the result with its poison, and
its flags. A poisoned lane raises no flag (04 R114). -/
def Ctx.typedLane (c : Ctx) (codes : List Nat) (f : NMode → ETy → Nat → List Nat → Nat × Nat) (l : Nat) : Val × Nat :=
  let md := nmode c.p.mode
  let t := ety (etOf c.p.mode)
  let vs := codes.map (fun code => c.opnd code l)
  let q := vs.any (·.psn)
  let dr := c.draw l
  let es := (List.range t.n).map (fun i => f md t (drawElem dr i) (vs.map (fun v => elemN v.bits.toNat t i)))
  (⟨BitVec.ofNat 32 (packN t (es.map (·.1))), q⟩, if q then 0 else es.foldl (fun a e => a ||| e.2) 0)

/-- The shape of 10 R253. -/
def execTyped (s : State) (accept : Nat → Bool) (n d : Nat) (srcs : List Nat) (readD : Bool)
    (f : NMode → ETy → Nat → List Nat → Nat × Nat) : Host.Outcome State Fault Refusal :=
  issuing s true fun c s1 => do
    need (accept (etOf c.p.mode)) trapInstr
    let all := if readD then srcs ++ [d] else srcs
    need (srcs.all c.srcOk && (if n = 1 then decide (d ≤ 95) else decide (d < 64))) trapOpnd
    return s1.typedResult c (c.npc srcs) n d (nmode c.p.mode) ((lanesOf c.act).map (fun l => (l, c.typedLane all f l)))

/-- First element. -/
def e0 (l : List Nat) : Nat := l.getD 0 0
/-- Second element. -/
def e1 (l : List Nat) : Nat := l.getD 1 0
/-- Third element. -/
def e2 (l : List Nat) : Nat := l.getD 2 0

/-- ADD, SUB and MUL of an element (10 R255). `op` 0, 1, 2. -/
def arithElem (op : Nat) (md : NMode) (t : ETy) (u : Nat) (l : List Nat) : Nat × Nat :=
  match t.fmt with
  | none =>
    let a := intElem t (e0 l)
    let b := intElem t (e1 l)
    (narrowInt t.b t.signed md.sat (match op with
      | 0 => a + b
      | 1 => a - b
      | _ => a * b), 0)
  | some f =>
    let a := f.read md.fi (e0 l)
    let b := f.read md.fi (e1 l)
    let r := match op with
      | 0 => addFV md.rm a b
      | 1 => addFV md.rm a b.neg
      | _ => mulFV a b
    let e := roundFp f md u r.1
    (e.1, r.2 ||| e.2)

/-- 10 R255 ADD. -/
def execAdd (n d a b : Nat) (s : State) : Host.Outcome State Fault Refusal :=
  execTyped s etAny n d [a, b] false (arithElem 0)
/-- 10 R255 SUB. -/
def execSub (n d a b : Nat) (s : State) : Host.Outcome State Fault Refusal :=
  execTyped s etAny n d [a, b] false (arithElem 1)
/-- 10 R255 MUL. -/
def execMul (n d a b : Nat) (s : State) : Host.Outcome State Fault Refusal :=
  execTyped s etAny n d [a, b] false (arithElem 2)
/-- 10 R255 MULHI: the high half of the product of integer elements. -/
def execMulhi (n d a b : Nat) (s : State) : Host.Outcome State Fault Refusal :=
  execTyped s etInt n d [a, b] false fun _ t _ l =>
    (wrapN (intElem t (e0 l) * intElem t (e1 l) / (2 ^ t.b : Nat)) t.b, 0)

/-- The encoding of an operand that MIN or MAX passes on: after `FI`, unrounded, NaN canonical. -/
def passElem (f : Fmt) (fi : Bool) (x : Nat) : Nat :=
  match f.read fi x with
  | .nan => f.canon
  | .fin neg 0 _ => f.sgn neg
  | _ => x

/-- MIN (mx = false) and MAX of an element (10 R256). -/
def minmaxElem (mx : Bool) (md : NMode) (t : ETy) (_u : Nat) (l : List Nat) : Nat × Nat :=
  match t.fmt with
  | none =>
    let a := intElem t (e0 l)
    let b := intElem t (e1 l)
    (if mx then (if a ≤ b then e1 l else e0 l) else (if a ≤ b then e0 l else e1 l), 0)
  | some f =>
    let a := f.read md.fi (e0 l)
    let b := f.read md.fi (e1 l)
    let pick (snd : Bool) : Nat := passElem f md.fi (if snd then e1 l else e0 l)
    (if a.isNan && b.isNan then f.canon
      else if a.isNan then pick true
      else if b.isNan then pick false
      else if mx then pick (cmpZ a b == .lt) else pick (cmpZ b a == .lt), 0)

/-- 10 R256 MIN. -/
def execMin (n d a b : Nat) (s : State) : Host.Outcome State Fault Refusal :=
  execTyped s etAny n d [a, b] false (minmaxElem false)
/-- 10 R256 MAX. -/
def execMax (n d a b : Nat) (s : State) : Host.Outcome State Fault Refusal :=
  execTyped s etAny n d [a, b] false (minmaxElem true)

/-- 10 R257 ABS: a floating element loses its sign bit; an integer element is made exact and narrowed. -/
def execAbs (n d a : Nat) (s : State) : Host.Outcome State Fault Refusal :=
  execTyped s etAny n d [a] false fun md t _ l =>
    match t.fmt with
    | some _ => (e0 l % 2 ^ (t.b - 1), 0)
    | none => (if t.signed then narrowInt t.b true md.sat (intElem t (e0 l)).natAbs else e0 l, 0)
/-- 10 R257 NEG. -/
def execNeg (n d a : Nat) (s : State) : Host.Outcome State Fault Refusal :=
  execTyped s etAny n d [a] false fun md t _ l =>
    match t.fmt with
    | some _ => (e0 l ^^^ 2 ^ (t.b - 1), 0)
    | none => (narrowInt t.b t.signed md.sat (-(intElem t (e0 l))), 0)
/-- 10 R257 COPYSIGN. -/
def execCopysign (n d a b : Nat) (s : State) : Host.Outcome State Fault Refusal :=
  execTyped s etFloat n d [a, b] false fun _ t _ l =>
    (e0 l % 2 ^ (t.b - 1) + e1 l / 2 ^ (t.b - 1) * 2 ^ (t.b - 1), 0)

/-- 10 R258 SCALE: a × 2^n, n the signed element of b. -/
def execScale (n d a b : Nat) (s : State) : Host.Outcome State Fault Refusal :=
  execTyped s etFloat n d [a, b] false fun md t u l =>
    match t.fmt with
    | none => (0, 0)
    | some f =>
      match f.read md.fi (e0 l) with
      | .fin neg m e => roundFp f md u (.fin neg m (e + sextN (e1 l) t.b))
      | x => roundFp f md u x

/-- 10 R259 GETEXP: floor(log2 |a|) as a value of the format. -/
def execGetexp (n d a : Nat) (s : State) : Host.Outcome State Fault Refusal :=
  execTyped s etWide n d [a] false fun md t _ l =>
    match t.fmt with
    | none => (0, 0)
    | some f =>
      match f.read md.fi (e0 l) with
      | .nan => (f.canon, 0)
      | .inf _ => infOut f md false
      | .fin _ m e =>
        if m = 0 then ((infOut f md true).1, flDZ)
        else roundFp f { md with rm := 0, fo := false } 0 (ofIntFV (e + Nat.log2 m))

/-- The condition of a compare on one element (10 R260). -/
def cmpElem (cc : Nat) (md : NMode) (t : ETy) (x y : Nat) : Bool :=
  match t.fmt with
  | none =>
    let a := intElem t x
    let b := intElem t y
    match cc with
    | 0 => decide (a = b)
    | 1 => decide (a ≠ b)
    | 2 => decide (a < b)
    | 3 => decide (a ≤ b)
    | 4 => decide (b < a)
    | _ => decide (b ≤ a)
  | some f =>
    let a := f.read md.fi x
    let b := f.read md.fi y
    let un := a.isNan || b.isNan
    let o := cmpFV a b
    match cc with
    | 0 => !un && o == .eq
    | 1 => !un && o != .eq
    | 2 => !un && o == .lt
    | 3 => !un && o != .gt
    | 4 => !un && o == .gt
    | 5 => !un && o != .lt
    | 6 => !un
    | 7 => un
    | 8 => un || o == .eq
    | 9 => un || o != .eq
    | 10 => un || o == .lt
    | 11 => un || o != .gt
    | 12 => un || o == .gt
    | _ => un || o != .lt

/-- 10 R260 CMP: true when the condition holds for every element. -/
def execCmp (d a b cc : Nat) (s : State) : Host.Outcome State Fault Refusal :=
  execCompare s (fun et => if cc ≤ 5 then etAny et else etFloat et) d a b fun c x y =>
    let t := ety (etOf c.p.mode)
    (List.range t.n).all (fun i => cmpElem cc (nmode c.p.mode) t (elemN x.toNat t i) (elemN y.toNat t i))

/-- The class of raw bits (10 R261). -/
def classOf (f : Fmt) (x : Nat) : Nat :=
  match f.decode x with
  | .nan => 0
  | .inf neg => if neg then 1 else 8
  | .fin neg m _ =>
    if m = 0 then (if neg then 4 else 5)
    else if f.subnormal x then (if neg then 3 else 6)
    else (if neg then 2 else 7)

/-- 10 R261 CLASS: true when, for every element, the bit of m for its class is set. -/
def execClassOf (d a b : Nat) (s : State) : Host.Outcome State Fault Refusal :=
  execCompare s etFloat d a b fun c x y =>
    let t := ety (etOf c.p.mode)
    match t.fmt with
    | none => false
    | some f => (List.range t.n).all (fun i => bitN y.toNat (classOf f (elemN x.toNat t i)))

/-- One element of the FMA forms (10 R262): one rounding of the exact ±a × b ± c. -/
def fmaElem (np na : Bool) (md : NMode) (t : ETy) (u : Nat) (l : List Nat) : Nat × Nat :=
  match t.fmt with
  | none => (0, 0)
  | some f =>
    let a := f.read md.fi (e0 l)
    let b := f.read md.fi (e1 l)
    let c0 := f.read md.fi (e2 l)
    let p0 := mulFV a b
    let p := if np then p0.1.neg else p0.1
    let c := if na then c0.neg else c0
    let r := addFV md.rm p c
    let e := roundFp f md u r.1
    (e.1, p0.2 ||| r.2 ||| e.2)

/-- 10 R262 FMA. -/
def execFma (n d a b : Nat) (s : State) : Host.Outcome State Fault Refusal :=
  execTyped s etFloat n d [a, b] true (fmaElem false false)
/-- 10 R262 FMS. -/
def execFms (n d a b : Nat) (s : State) : Host.Outcome State Fault Refusal :=
  execTyped s etFloat n d [a, b] true (fmaElem false true)
/-- 10 R262 FNMA. -/
def execFnma (n d a b : Nat) (s : State) : Host.Outcome State Fault Refusal :=
  execTyped s etFloat n d [a, b] true (fmaElem true false)
/-- 10 R262 FNMS. -/
def execFnms (n d a b : Nat) (s : State) : Host.Outcome State Fault Refusal :=
  execTyped s etFloat n d [a, b] true (fmaElem true true)

/-- An integral value of a format, with the sign a zero result keeps (10 R266). -/
def integral (f : Fmt) (rm : Nat) (neg : Bool) (m : Nat) (e : Int) (raw : Nat) : Nat :=
  if e ≥ 0 then raw
  else
    let r := roundInt rm neg 0 m (-e).toNat
    if r.1 = 0 then f.sgn neg else (roundFp f plainMode 0 (.fin neg r.1 0)).1

/-- FLR, CEIL, RND and TRUNC of an element: `rm` is the direction (10 R266). -/
def rndElem (pick : NMode → Nat) (md : NMode) (t : ETy) (_u : Nat) (l : List Nat) : Nat × Nat :=
  match t.fmt with
  | none => (0, 0)
  | some f =>
    match f.read md.fi (e0 l) with
    | .nan => nanOut f md
    | .inf neg => infOut f md neg
    | .fin neg m e => if m = 0 then (f.sgn neg, 0) else
      let x := integral f (pick md) neg m e (e0 l)
      (if md.fo && f.subnormal x then f.sgn neg else x, 0)

/-- 10 R266 FLR. -/
def execFlr (n d a : Nat) (s : State) : Host.Outcome State Fault Refusal :=
  execTyped s etFloat n d [a] false (rndElem fun _ => 2)
/-- 10 R266 CEIL. -/
def execCeil (n d a : Nat) (s : State) : Host.Outcome State Fault Refusal :=
  execTyped s etFloat n d [a] false (rndElem fun _ => 3)
/-- 10 R266 RND. -/
def execRnd (n d a : Nat) (s : State) : Host.Outcome State Fault Refusal :=
  execTyped s etFloat n d [a] false (rndElem fun md => (noRsr md).rm)
/-- 10 R266 TRUNC. -/
def execTrunc (n d a : Nat) (s : State) : Host.Outcome State Fault Refusal :=
  execTyped s etFloat n d [a] false (rndElem fun _ => 1)
/-- 10 R266 FRC: a - floor(a), exact, then rounded towards zero; -0 gives +0. -/
def execFrc (n d a : Nat) (s : State) : Host.Outcome State Fault Refusal :=
  execTyped s etFloat n d [a] false fun md t _ l =>
    match t.fmt with
    | none => (0, 0)
    | some f =>
      match f.read md.fi (e0 l) with
      | .nan => nanOut f md
      | .inf _ => let r := nanOut f md; (r.1, r.2 ||| flIV)
      | .fin neg m e =>
        if m = 0 ∨ e ≥ 0 then (0, 0)
        else
          let k := (-e).toNat
          let r := m % 2 ^ k
          roundFp f { md with rm := 1 } 0 (.fin false (if r = 0 then 0 else if neg then 2 ^ k - r else r) e)

/-- One element converted (10 R268). -/
def cvtElem (md : NMode) (src dst : ETy) (u x : Nat) : Nat × Nat :=
  match src.fmt, dst.fmt with
  | some f, some g => roundFp g md u (f.read md.fi x)
  | some f, none => toIntFV md.rm u dst.b dst.signed (f.read md.fi x)
  | none, some g => roundFp g md u (ofIntFV (intElem src x))
  | none, none => (narrowInt dst.b dst.signed md.sat (intElem src x), 0)

/-- A lane of CVT (10 R267): the elements of a, or part `h` of them, or those of a and b, converted one by one; missing
elements are 0. -/
def Ctx.cvtLane (c : Ctx) (a b st h l : Nat) : Val × Nat :=
  let md := nmode c.p.mode
  let dt := ety (etOf c.p.mode)
  let sty := ety st
  let va := c.opnd a l
  let vb : Val := if dt.n > sty.n then c.opnd b l else {}
  let q := va.psn || vb.psn
  let dr := c.draw l
  let es := (List.range dt.n).map (fun i =>
    if dt.n ≤ sty.n then cvtElem md sty dt (drawElem dr i) (elemN va.bits.toNat sty (i + dt.n * h))
    else if i < sty.n then cvtElem md sty dt (drawElem dr i) (elemN va.bits.toNat sty i)
    else if i < 2 * sty.n then cvtElem md sty dt (drawElem dr i) (elemN vb.bits.toNat sty (i - sty.n))
    else (0, 0))
  (⟨BitVec.ofNat 32 (packN dt (es.map (·.1))), q⟩, if q then 0 else es.foldl (fun x e => x ||| e.2) 0)

/-- The field number `h` of CVT to fewer elements (10 R267), and whether it is poisoned, which makes the results poisoned (R253). -/
def Ctx.cvtField (c : Ctx) (b n : Nat) : Except Trap (Nat × Bool) := do
  need (uniOk b) trapOpnd
  let v := c.opndU b
  need (decide (v.bits.toNat < n)) trapOpnd
  pure (v.bits.toNat, v.psn)

/-- A lane's result and flags under a poisoned uniform operand (04 R114). -/
def poisonResult (psn : Bool) (r : Val × Nat) : Val × Nat := if psn then ({ r.1 with psn := true }, 0) else r

/-- 10 R267 CVT: from the type of `FN` to the type in force, with the element counts of its table. -/
def execCvt (n d a b st : Nat) (s : State) : Host.Outcome State Fault Refusal :=
  issuing s true fun c s1 => do
    let md := nmode c.p.mode
    let dt := ety (etOf c.p.mode)
    let sty := ety st
    need (dt.n != sty.n || b == 0) trapInstr
    need (decide (st ≤ 10)) trapInstr
    need (c.srcOk a && (dt.n == sty.n || c.srcOk b) && (if n = 1 then true else decide (d < 64))) trapOpnd
    let h ← (if dt.n < sty.n then c.cvtField b (sty.n / dt.n) else pure (0, false))
    let codes := if dt.n = sty.n then [a] else [a, b]
    return s1.typedResult c (c.npc codes) n d md ((lanesOf c.act).map (fun l => (l, poisonResult h.2 (c.cvtLane a b st h.1 l))))

/-- The shape of PACK and UNPACK: bits moved by whole words under the types accepted (10 R269, R270). -/
def execMove (s : State) (accept : Nat → Bool) (n d : Nat) (srcs : List Nat) (readD : Bool)
    (f : NMode → Nat → List Word → Word) : Host.Outcome State Fault Refusal :=
  issuing s true fun c s1 => do
    let et := etOf c.p.mode
    need (accept et) trapInstr
    let all := if readD then srcs ++ [d] else srcs
    need (srcs.all c.srcOk && (if n = 1 then decide (d ≤ 95) else decide (d < 64))) trapOpnd
    let rs := (lanesOf c.act).map (fun l =>
      let vs := all.map (fun code => c.opnd code l)
      (l, (⟨f (nmode c.p.mode) et (vs.map (·.bits)), vs.any (·.psn)⟩ : Val)))
    return s1.laneResult c (c.npc srcs) n d rs

/-- 10 R269 PACK2. -/
def execPack2 (n d a b : Nat) (s : State) : Host.Outcome State Fault Refusal :=
  execMove s etAny n d [a, b] false fun _ _ l =>
    BitVec.ofNat 32 ((w0 l).toNat % 2 ^ 16 + (w1 l).toNat % 2 ^ 16 * 2 ^ 16)
/-- 10 R269 PACK4. -/
def execPack4 (n d a b : Nat) (s : State) : Host.Outcome State Fault Refusal :=
  execMove s etAny n d [a, b] true fun _ _ l =>
    BitVec.ofNat 32 ((w0 l).toNat % 2 ^ 8 + (w1 l).toNat % 2 ^ 8 * 2 ^ 8 + (w2 l).toNat % 2 ^ 16 * 2 ^ 16)

/-- The widened half of a packed word (10 R270). -/
def unpackHalf (hi : Bool) (md : NMode) (et : Nat) (x : Nat) : Nat :=
  let t := ety et
  match t.fmt with
  | some f =>
    if t.n = 2 then (roundFp fp32 plainMode 0 (f.read md.fi (elemN x t (b2n hi)))).1
    else
      let e (i : Nat) : Nat := (roundFp fp16 plainMode 0 (f.read md.fi (elemN x t (i + 2 * b2n hi)))).1
      e 0 + 2 ^ 16 * e 1
  | none =>
    if t.n = 2 then wrapN (intElem t (elemN x t (b2n hi))) 32
    else
      let e (i : Nat) : Nat := wrapN (intElem t (elemN x t (i + 2 * b2n hi))) 16
      e 0 + 2 ^ 16 * e 1

/-- The types UNPACK accepts (10 R254). -/
def etPacked (et : Nat) : Bool := decide (3 ≤ et ∧ et ≤ 10)

/-- 10 R270 UNPACKLO. -/
def execUnpacklo (n d a : Nat) (s : State) : Host.Outcome State Fault Refusal :=
  execMove s etPacked n d [a] false fun md et l => BitVec.ofNat 32 (unpackHalf false md et (w0 l).toNat)
/-- 10 R270 UNPACKHI. -/
def execUnpackhi (n d a : Nat) (s : State) : Host.Outcome State Fault Refusal :=
  execMove s etPacked n d [a] false fun md et l => BitVec.ofNat 32 (unpackHalf true md et (w0 l).toNat)

/-- The exact sum of values, NaN and infinities as 10 R271 gives: IV for 0 × ∞ and for infinities of opposite sign. -/
def sumFV (rm : Nat) (l : List (FV × Nat)) : FV × Nat :=
  let nanIn := l.any (fun x => x.1.isNan && x.2 == 0)
  let iv := l.any (fun x => x.2 != 0)
  let pos := l.any (fun x => x.1 == .inf false)
  let ng := l.any (fun x => x.1 == .inf true)
  if iv then (.nan, flIV)
  else if nanIn then (.nan, if pos && ng then flIV else 0)
  else if pos && ng then (.nan, flIV)
  else if pos then (.inf false, 0)
  else if ng then (.inf true, 0)
  else match l with
    | [] => (.fin false 0 0, 0)
    | h :: t => (t.foldl (fun a x => (addFV rm a x.1).1) h.1, 0)

/-- A lane of DOT2 and DOT4 (10 R271): one rounding of the exact sum of products and the addend. -/
def Ctx.dotLane (c : Ctx) (a b d l : Nat) : Val × Nat :=
  let md := nmode c.p.mode
  let t := ety (etOf c.p.mode)
  let va := c.opnd a l
  let vb := c.opnd b l
  let vd := c.opnd d l
  let q := va.psn || vb.psn || vd.psn
  let r := match t.fmt with
    | some f =>
      let ps := (List.range t.n).map (fun i =>
        mulFV (f.read md.fi (elemN va.bits.toNat t i)) (f.read md.fi (elemN vb.bits.toNat t i)))
      let sm := sumFV md.rm (ps ++ [(fp32.read md.fi vd.bits.toNat, 0)])
      let e := roundFp fp32 md (drawElem (c.draw l) 0) sm.1
      (e.1, sm.2 ||| e.2)
    | none =>
      let sm : Int := (List.range t.n).foldl (fun acc i =>
        acc + intElem t (elemN va.bits.toNat t i) * intElem t (elemN vb.bits.toNat t i))
        (intElem ⟨1, 32, none, t.signed⟩ vd.bits.toNat)
      (narrowInt 32 t.signed md.sat sm, 0)
  (⟨BitVec.ofNat 32 r.1, q⟩, if q then 0 else r.2)

/-- The shape of DOT2 and DOT4 (10 R271). -/
def execDot (s : State) (accept : Nat → Bool) (n d a b : Nat) : Host.Outcome State Fault Refusal :=
  issuing s true fun c s1 => do
    need (accept (etOf c.p.mode)) trapInstr
    need (c.srcOk a && c.srcOk b && (if n = 1 then decide (d ≤ 95) else decide (d < 64))) trapOpnd
    return s1.typedResult c (c.npc [a, b]) n d (nmode c.p.mode) ((lanesOf c.act).map (fun l => (l, c.dotLane a b d l)))

/-- 10 R271 DOT2. -/
def execDot2 (n d a b : Nat) (s : State) : Host.Outcome State Fault Refusal :=
  execDot s (fun et => decide (3 ≤ et ∧ et ≤ 6)) n d a b
/-- 10 R271 DOT4. -/
def execDot4 (n d a b : Nat) (s : State) : Host.Outcome State Fault Refusal :=
  execDot s (fun et => decide (7 ≤ et ∧ et ≤ 10)) n d a b

end Sys2Proof.Machine
end

