-- ==== Sys2Proof/Machine/Matrix.lean ====
section
/-! DEFINITION. Ashlar arithmetic: tile elements, block sums, drain conversions (09 R239, R240, R251; 12 R309-R312, R329,
R330, R334). -/
namespace Sys2Proof.Machine

/-! ### Control words -/

/-- `FMT` of a tile control word. -/
def tcFmt (w : Nat) : Nat := bitsN w 30 27
/-- Rows of a tile. -/
def tcRows (w : Nat) : Nat := bitsN w 26 21 + 1
/-- Logical K. -/
def tcK (w : Nat) : Nat := 16 * bitsN w 19 16
/-- `SP`. -/
def tcSp (w : Nat) : Bool := bitN w 20
/-- Stored elements per row (12 R310). -/
def tcKs (w : Nat) : Nat := if tcSp w then tcK w / 2 else tcK w
/-- Element size in half bytes (12 R310). -/
def fmtHalf (f : Nat) : Nat := if f = 4 ∨ f = 5 then 4 else if f = 10 then 1 else if f = 11 ∨ f = 12 then 8 else 2
/-- Whether a format is MX. -/
def fmtMx (f : Nat) : Bool := decide (6 ≤ f ∧ f ≤ 10)
/-- Bits of an MX element in memory (02 R60). -/
def mxBits (f : Nat) : Nat := if f ≤ 7 then 8 else if f ≤ 9 then 6 else 4
/-- The element format of a code (12 R309, R331). -/
def fmtOf (f : Nat) : Fmt :=
  match f with
  | 2 => fE4M3
  | 3 => fE5M2
  | 4 => bf16
  | 5 => fp16
  | 6 => fE4M3
  | 7 => fE5M2
  | 8 => fE2M3
  | 9 => fE3M2
  | 10 => fE2M1
  | _ => fp32
/-- Accepted tile control words (12 R310). -/
def tcOk (w : Nat) : Bool :=
  w == 0 || (bitN w 31 && decide (tcFmt w ≤ 10 ∧ 1 ≤ bitsN w 19 16 ∧ bitsN w 19 16 ≤ 8 ∧ bitsN w 15 0 = 0
    ∧ tcKs w * fmtHalf (tcFmt w) ≤ 128) && (!fmtMx (tcFmt w) || tcK w % 32 == 0))
/-- Accumulator rows M and columns N. -/
def awM (w : Nat) : Nat := bitsN w 5 0 + 1
/-- Accumulator columns. -/
def awN (w : Nat) : Nat := bitsN w 11 6 + 1

/-! ### Tiles and accumulators -/

/-- Code of a tile element (12 R310). -/
def tileCode (m : Memory) (t fmt i k : Nat) : Nat :=
  let row := 4096 * t + 64 * i
  match fmtHalf fmt with
  | 1 => (memByte m (row + k / 2)).toNat / 16 ^ (k % 2) % 16
  | 4 => memRead m (row + 2 * k) 2
  | _ => (memByte m (row + k)).toNat

/-- Writes a tile element. -/
def tilePut (m : Memory) (t fmt i k x : Nat) : Memory :=
  let row := 4096 * t + 64 * i
  match fmtHalf fmt with
  | 1 =>
    let old := (memByte m (row + k / 2)).toNat
    let new := if k % 2 = 0 then old / 16 * 16 + x % 16 else old % 16 + x % 16 * 16
    memSet m (row + k / 2) (BitVec.ofNat 8 new)
  | 4 => memWrite m (row + 2 * k) 2 x
  | _ => memSet m (row + k) (BitVec.ofNat 8 x)

/-- Key of a half-row's poison. -/
def halfKey (t i h : Nat) : Nat := t * 128 + i * 2 + h
/-- Any poisoned half-row of a tile row. -/
def rowPsn (p : Sparse Bool) (t i : Nat) : Bool := sget false p (halfKey t i 0) || sget false p (halfKey t i 1)
/-- A scale of a tile (12 R311). -/
def scaleAt (sc : Sparse Nat) (t j : Nat) : Nat := sget 127 sc (t * 256 + j)
/-- Accumulator element. -/
def AshCtx.accAt (c : AshCtx) (d i j : Nat) : Val := sget {} c.acc (d * 4096 + i * 64 + j)
/-- Writes an accumulator element. -/
def AshCtx.setAcc (c : AshCtx) (d i j : Nat) (v : Val) : AshCtx := { c with acc := sput {} c.acc (d * 4096 + i * 64 + j) v }
/-- Sets bits of `AST`. -/
def AshCtx.orAst (c : AshCtx) (b : Nat) : AshCtx := { c with ast := c.ast ||| b }

/-! ### Sums -/

/-- An exact value times a power of two. -/
def FV.scale (x : FV) (k : Int) : FV :=
  match x with
  | .fin n m e => .fin n m (e + k)
  | y => y

/-- The block value of 09 R251: the exact sum of products, scaled, rounded once; a NaN scale makes it NaN. -/
def blockVal (ps : List (FV × Nat)) (nanScale : Bool) (k : Int) : Nat :=
  if nanScale then fp32.canon
  else (roundFp fp32 plainMode 0 ((sumFV 0 ps).1.scale k)).1

/-- A B operand: tile image, tile number in it, control word, poison of half-rows, scales, scale poison. -/
structure BOper where
  rows : Memory
  t : Nat
  word : Nat
  psn : Sparse Bool
  scales : Sparse Nat
  epsn : Bool

/-- The stored products of A row r with B row c that lie in logical block j: pairs of stored index in A and logical index
(12 R329); `meta` gives the metadata nibbles of a sparse A row. -/
def prodIx (sp : Bool) (k bs j : Nat) (nib : Nat → Nat) : List (Nat × Nat) :=
  if sp then
    ((List.range (k / 4)).flatMap (fun g =>
      let n := nib g
      [(2 * g, 4 * g + n % 4), (2 * g + 1, 4 * g + n / 4 % 4)])).filter (fun x => x.2 / bs == j)
  else (List.range k).filterMap (fun x => if x / bs = j then some (x, x) else none)

/-- One accumulator element after an MMA or MMAS (12 R329, 09 R251). -/
def mmaElem (c : AshCtx) (op : AshOp) (b : BOper) (bc : Nat) (r : Nat) (nib : Nat → Nat) (old : Val) : Val :=
  let fa := tcFmt op.ta
  let fb := tcFmt b.word
  let k := tcK op.ta
  let bs := if fa = 4 ∨ fa = 5 then 16 else 32
  let mx := fmtMx fa
  let sa (j : Nat) : Nat := if mx then scaleAt c.scales op.a (4 * r + j) else 127
  let sb (j : Nat) : Nat := if mx then scaleAt b.scales b.t (4 * bc + j) else 127
  let acc := (List.range ((k + bs - 1) / bs)).foldl (fun (x : Nat) j =>
    let ix := prodIx (tcSp op.ta) k bs j nib
    if bitN op.aw 30 then
      let int (f code : Nat) : Int := if f = 0 then sextN code 8 else (code : Int)
      let sm := ix.foldl (fun (a : Int) p =>
        a + int fa (tileCode c.tiles op.a fa r p.1) * int fb (tileCode b.rows b.t fb bc p.2)) 0
      wrapN ((x : Int) + sm) 32
    else
      let ps := ix.map (fun p => mulFV ((fmtOf fa).decode (tileCode c.tiles op.a fa r p.1))
        ((fmtOf fb).decode (tileCode b.rows b.t fb bc p.2)))
      fadd32 x (blockVal ps (sa j == 255 || sb j == 255) ((sa j : Int) + sb j - 254))) old.bits.toNat
  let psn := old.psn || rowPsn c.tpsn op.a r || rowPsn b.psn b.t bc || (mx && (sget false c.epsn op.a || b.epsn))
  ⟨BitVec.ofNat 32 acc, psn⟩

/-- An MMA or MMAS takes effect (12 R329): `bs` are the B operands in column order; sparse A rows take their indices from the
head of the metadata queue (12 R330). -/
def AshCtx.runMma (c : AshCtx) (op : AshOp) (bs : List BOper) : AshCtx :=
  let m := awM op.aw
  let k := tcK op.ta
  let sparse := op.kind == .mmas
  let q := sget [] c.mq op.mq
  let nib (r g : Nat) : Nat := let n := r * (k / 4) + g; (q.getD (n / 2) 0) / 16 ^ (n % 2) % 16
  let cols := (bs.flatMap (fun b => (List.range (tcRows b.word)).map (fun x => (b, x)))).take (awN op.aw)
  let c1 := if sparse then { c with mq := sput [] c.mq op.mq (q.drop (m * k / 8)) } else c
  let res := (List.range m).flatMap (fun r => (cols.zip (List.range cols.length)).map (fun x =>
    (r, x.2, mmaElem c op x.1.1 x.1.2 r (nib r) (c.accAt op.t r x.2))))
  let c2 := res.foldl (fun (a : AshCtx) x => a.setAcc op.t x.1 x.2.1 x.2.2) c1
  if res.any (fun x => x.2.2.psn) then c2.orAst 1 else c2

/-- Whether an MMAS finds its metadata queued (12 R330). -/
def AshCtx.metaReady (c : AshCtx) (op : AshOp) : Bool :=
  op.kind != .mmas || decide ((sget [] c.mq op.mq).length ≥ awM op.aw * tcK op.ta / 8)

/-- Whether two operand formats are compatible (12 R328). -/
def fmtPair (a b : Nat) : Bool :=
  (decide (a ≤ 1) && decide (b ≤ 1)) || ((a == 2 || a == 3) && (b == 2 || b == 3)) || (fmtMx a && fmtMx b) || a == b

/-- The checks of 12 R328; `pairTeam` says whether the team is a pair team. -/
def mmaOk (op : AshOp) (pairTeam : Bool) : Bool :=
  bitN op.ta 31 && bitN op.tb 31 && (tcSp op.ta == (op.kind == .mmas)) && !tcSp op.tb
    && fmtPair (tcFmt op.ta) (tcFmt op.tb) && tcK op.ta == tcK op.tb
    && bitN op.aw 31 && awM op.aw == tcRows op.ta && (bitN op.aw 30 == decide (tcFmt op.ta ≤ 1))
    && (if op.pair then decide (awN op.aw > tcRows op.tb) && pairTeam else awN op.aw == tcRows op.tb)

/-! ### Drain conversion -/

/-- `e_max` of 09 R239. -/
def mxEmax (f : Nat) : Int :=
  match f with
  | 6 => 8
  | 7 => 15
  | 9 => 4
  | _ => 2

/-- floor (log2 |x|) of a nonzero finite value. -/
def FV.log2 : FV → Int
  | .fin _ m e => e + Nat.log2 m
  | _ => 0

/-- The quantisation of 09 R240: scale, element codes, flags. IV and OF are raised for a NaN and an infinity replaced, with `NSAT` or
without (R248). -/
def mxQuant (f : Nat) (md : NMode) (xs : List FV) : Nat × List Nat × Nat :=
  let fm := fmtOf f
  let nan := xs.any FV.isNan
  let inf := xs.any (fun x => x == .inf false || x == .inf true)
  let replaced := (if nan then flIV else 0) ||| (if inf then flOF else 0)
  if (nan || inf) && !md.nsat then (255, xs.map (fun _ => 0), replaced)
  else
    let fins := xs.filter (fun x => match x with
      | .fin _ m _ => m != 0
      | _ => false)
    let top := fins.foldl (fun (a : Option Int) x => some (match a with
      | none => x.log2
      | some y => max y x.log2)) none
    let se : Int := match top with
      | none => 0
      | some t => max (-127) (min 127 (t - mxEmax f))
    let one (x : FV) : Nat × Nat :=
      match x with
      | .nan => (0, 0)
      | .inf neg => (fm.sgn neg + fm.maxEnc, 0)
      | .fin neg m e =>
        let r := roundFp fm (noRsr md) 0 (.fin neg m (e - se))
        if r.2 &&& flOF ≠ 0 then (fm.sgn neg + fm.maxEnc, flNX) else r
    let rs := xs.map one
    ((se + 127).toNat, rs.map (·.1), rs.foldl (fun a r => a ||| r.2) replaced)

/-- `convert` of 12 R334 for one element that is not MX: the code and its flags. -/
def drainConv (i32 : Bool) (fmt : Nat) (md : NMode) (x : Nat) : Nat × Nat :=
  if i32 then
    (match fmt with
      | 0 => narrowInt 8 true true (sextN x 32)
      | 1 => narrowInt 8 false true (sextN x 32)
      | _ => x, 0)
  else roundFp (fmtOf fmt) md 0 (fp32.decode x)

end Sys2Proof.Machine
end

