-- ==== Sys2Proof/Machine/Ashlar.lean ====
section
/-! DEFINITION. The Ashlar: its instructions, joint issue, the operation queue, transfers, the clip-in latch (12 R309-R337). -/
namespace Sys2Proof.Machine

/-! ### Power and gang faults -/

/-- `CREC` (17 R450): charges of the last 64 clk of the cluster's clock. -/
def Cluster.crec (c : Cluster) (clk : Nat) : Nat :=
  (c.recent.filter (fun x => decide (x.1 ≤ clk ∧ arithClk c.rail x.1 (clk - x.1) < 64))).foldl (fun a x => a + x.2) 0
/-- Whether 17 R452 holds heavy work back. -/
def State.throttled (s : State) (core : Nat) : Bool :=
  let c := s.cluster (clusterOf core)
  decide (c.crec s.clk > c.clim)
/-- Charges a cluster (17 R450). The charges of the last 97 mesh clk are kept, which hold 64 clk of either rail. -/
def State.charge (s : State) (core n : Nat) : State :=
  if n = 0 then s else s.updCluster (clusterOf core) (fun c => { c with
    recent := (c.recent.filter (fun x => decide (s.clk < x.1 + 97))) ++ [(s.clk, n)] })

/-- RENDEZVOUS_TIMEOUT (12 R322; 16 R418): every warp of the team parks at its next boundary; one record is made. -/
def State.gangFault (s : State) (tk cause : Nat) : State :=
  match s.team tk with
  | none => s
  | some t =>
    if t.gangPark.isSome then s
    else
      let s1 := s.setTeam tk (some { t with gangPark := some cause })
      match t.keys with
      | [] => s1
      | k :: _ =>
        match s1.warp k with
        | none => s1
        | some w => s1.queueFault k w 32 cause (faultImage s1 k w.lastPath w 2 32 cause 0 0 0 0 0 (s1.liveLanes k)) (.gang tk)

/-! ### Contexts and members -/

/-- The index of a warp in its half. -/
def halfIndex (w : Warp) : Nat := if w.half = 1 then w.warpId - w.nwarps / 2 else w.warpId
/-- Members of the gang that have not exited (12 R317, R318). -/
def AshCtx.members (c : AshCtx) : List Nat := (List.range c.n).filter (fun i => bitN c.gmask i && !bitN c.gone i)
/-- Whether a warp holds an unmatched arrival. -/
def AshCtx.arrived (c : AshCtx) (i : Nat) : Bool := c.arrivals.any (fun a => a.warp == i)
/-- An operation enters the queue in a clk: behind those there, but before what greater sub-cores have entered in the same clk (12 R314). -/
def AshCtx.enter (c : AshCtx) (clk sub : Nat) (op : AshOp) : AshCtx :=
  let later (o : AshOp) : Bool := o.entered == clk && decide (sub < o.sub)
  { c with ops := c.ops.filter (fun o => !later o) ++ { op with id := c.nextId, entered := clk, sub := sub } :: c.ops.filter later
           nextId := c.nextId + 1 }
/-- The control words an operation names, captured (12 R314). -/
def AshCtx.capture (c : AshCtx) (op : AshOp) : AshOp :=
  { op with ta := sget 0 c.tc op.a, tb := sget 0 c.tc op.b, aw := sget 0 c.aw op.t }

/-- The shape of the Ashlar instructions (12 R325): without an active lane nothing happens; a team without a context raises
ILLEGAL_INSTRUCTION; an instruction whose warp waits for a joint operation, or an operation that finds the queue full, does not
issue (12 R314, R318). -/
def execAsh (s : State) (chk : Bool) (queued joins : Bool) (codes : List Nat)
    (body : Ctx → State → Nat → AshCtx → Except Trap State) : Host.Outcome State Fault Refusal :=
  issuing s true fun c s1 => do
    need chk trapOpnd
    if !c.any then return s1.finish c (c.npc codes) .kill
    else match s1.ashOf (coreOf c.key) c.w.team with
      | none => .error trapInstr
      | some ax =>
        let a := s1.ash ax
        if (joins && a.arrived (halfIndex c.w)) || (queued && decide (a.ops.length ≥ 8)) then return s1
        else body c s1 ax a

/-- 12 R309, R326 TCTL. -/
def execTctl (t q : Nat) (s : State) : Host.Outcome State Fault Refusal :=
  execAsh s (uniOk q) false true [q] fun c s1 ax a => do
    let w ← c.uval q
    need (tcOk w) trapOpnd
    return (s1.setAsh ax { a with tc := sput 0 a.tc t w }).finish c (c.npc [q]) .kill

/-- 12 R326 TRDC. -/
def execTrdc (p k i : Nat) (s : State) : Host.Outcome State Fault Refusal :=
  execAsh s (isS p && !(k == 1 && decide (i > 7))) false true [] fun c s1 ax a =>
    let x := match k with
      | 0 => sget 0 a.tc i
      | 1 => sget 0 a.aw i
      | _ => a.ast
    let s2 := if k = 3 then s1.setAsh ax { a with ast := 0 } else s1
    return (s2.putResult c p x).finish c (c.npc []) .kill

/-- 12 R327 TZERO. -/
def execTzero (t : Nat) (s : State) : Host.Outcome State Fault Refusal :=
  execAsh s true true true [] fun c s1 ax a =>
    return (s1.setAsh ax (a.enter s1.clk (subOf c.key) { id := 0, kind := .tzero, t := t })).finish c (c.npc []) .kill

/-- 12 R327 TSCL. -/
def execTscl (t q : Nat) (s : State) : Host.Outcome State Fault Refusal :=
  execAsh s (uniOk q) true true [q] fun c s1 ax a => do
    let k ← c.uval q
    need (decide (k < 256)) trapOpnd
    return (s1.setAsh ax (a.enter s1.clk (subOf c.key) { id := 0, kind := .tscl, t := t, arg := k })).finish c (c.npc [q]) .kill

/-- 12 R318, R327 GANG. -/
def execGang (q : Nat) (s : State) : Host.Outcome State Fault Refusal :=
  execAsh s (uniOk q) false false [q] fun c s1 ax a => do
    let g ← c.uval q
    need (g / 2 ^ a.n == 0 && a.arrivals.isEmpty) trapOpnd
    return (s1.setAsh ax { a with gmask := g }).finish c (c.npc [q]) .kill

/-! ### Joint issue -/

/-- A joint operation enters, or its check fails (12 R319): whether it entered, and the context. -/
def AshCtx.joint (a : AshCtx) (clk sub : Nat) (op : AshOp) (pairTeam : Bool) : Bool × AshCtx :=
  let op1 := a.capture op
  let a1 := { a with arrivals := [] }
  if mmaOk op1 pairTeam then (true, a1.enter clk sub op1) else (false, a1)

/-- The joint operation of some arrivals: it waits for each of them as for a fork (12 R337). -/
def AshOp.ofArrivals (op : AshOp) (l : List Arrival) : AshOp :=
  { op with ready := l.foldl (fun m x => max m x.op.ready) 0, forks := l.flatMap (fun x => x.op.forks) }

/-- ILLEGAL_OPERAND on the warps of a team's half that hold arrivals and have not exited (12 R319), all but one. -/
def State.parkArrived (s : State) (tk half : Nat) (is : List Nat) : State :=
  match s.team tk with
  | none => s
  | some t => t.keys.foldl (fun st k => match st.warp k with
      | some w => if w.status != .exited && w.half == half && is.contains (halfIndex w) then st.parkWarp k w.lastPath 17 0 0 (st.liveLanes k) 0 else st
      | none => st) s

/-- MMA and MMAS (12 R318, R319, R328). -/
def execMmaOp (op : AshOp) (s : State) : Host.Outcome State Fault Refusal :=
  execAsh s true true true [] fun c s1 ax a =>
    let i := halfIndex c.w
    let pairTeam := match s1.team c.w.team with
      | some t => t.pair
      | none => false
    let op1 := { op with ready := max s1.clk c.w.releaseAt, forks := [(c.w.warpId, s1.clk)], core := coreOf c.key }
    let sub := subOf c.key
    if !a.members.contains i then
      let r := { a with arrivals := [] }.joint s1.clk sub op1 pairTeam
      if r.1 then return (s1.setAsh ax { r.2 with arrivals := a.arrivals }).finish c (c.npc []) .kill
      else .error trapOpnd
    else
      let same := match a.arrivals with
        | f :: _ => decide (f.op.kind = op.kind ∧ f.op.t = op.t ∧ f.op.a = op.a ∧ f.op.b = op.b ∧ f.op.mq = op.mq ∧ f.op.pair = op.pair)
        | [] => true
      if !same then .error trapOpnd
      else
        let all := a.arrivals ++ [⟨i, op1, 0⟩]
        if a.members.all (fun m => all.any (fun x => x.warp == m)) then
          let r := a.joint s1.clk sub (op1.ofArrivals all) pairTeam
          let s2 := s1.setAsh ax r.2
          if r.1 then return s2.finish c (c.npc []) .kill
          else
            return (s2.parkArrived c.w.team c.w.half (a.arrivals.map (·.warp))).takeTrap c.key c.nid c.act trapOpnd
        else return (s1.setAsh ax { a with arrivals := all }).finish c (c.npc []) .kill

/-- 12 R328 MMA. -/
def execMma (d a p b : Nat) (s : State) : Host.Outcome State Fault Refusal :=
  execMmaOp { id := 0, kind := .mma, t := d, a := a, b := b, pair := p != 0 } s
/-- 12 R328 MMAS. -/
def execMmas (k d a p b : Nat) (s : State) : Host.Outcome State Fault Refusal :=
  execMmaOp { id := 0, kind := .mmas, t := d, a := a, b := b, mq := k, pair := p != 0 } s

/-- A member's exit (12 R318): it leaves the gang, its own arrival standing, and the operation enters when the members left all hold
arrivals. -/
def State.ashExit (s : State) (tk half i sub : Nat) : State :=
  match s.ashs.find? (fun x => x.2.team == some tk && x.2.half == half) with
  | none => s
  | some (ax, a0) =>
    let a := { a0 with gone := a0.gone ||| 2 ^ i }
    match a.arrivals with
    | [] => s.setAsh ax a
    | f :: _ =>
      if a.members.all (fun m => a.arrived m) then
        let pairTeam := match s.team tk with
          | some t => t.pair
          | none => false
        let r := a.joint s.clk sub (f.op.ofArrivals a.arrivals) pairTeam
        if r.1 then s.setAsh ax r.2
        else (s.setAsh ax r.2).parkArrived tk half (a.arrivals.map (·.warp))
      else s.setAsh ax a

/-! ### Tensor windows -/

/-- `FMT` of a shape record (12 R331). -/
def shFmt (x : Nat) : Nat := bitsN x 383 379
/-- The barrier of a shape record. -/
def shBar (x : Nat) : Option Nat := if bitN x 342 then some (bitsN x 371 344 * 16 + (if bitN x 343 then 2 ^ 32 else 0)) else none

/-- Malformed shape records (12 R331, R332), but for the tile's format. -/
def shapeBad (x pos : Nat) : Bool :=
  let f := shFmt x
  let cols := bitsN x 431 416
  let row := if fmtMx f then cols / 32 * 33 else cols * fmtHalf f / 2
  bitsN x 341 0 != 0 || decide (1 < spaceOf (bitsN x 511 448) ∨ f > 12 ∨ bitsN x 378 377 > 1 ∨ bitsN x 376 374 > 4 ∨ bitsN x 447 432 = 0 ∨ cols = 0
    ∨ bitsN x 511 448 % 8 ≠ 0 ∨ bitsN x 415 384 % 8 ≠ 0 ∨ bitsN x 415 384 < row)
    || (fmtMx f && (cols % 32 != 0 || pos % 65536 % 32 != 0))

/-- The runs of bytes a window touches inside the tensor (12 R332, R333): tile row, granule or 0, address, bytes. -/
def windowRuns (x pos rows cols scaleCols : Nat) : List (Nat × Nat × Nat × Nat) :=
  let f := shFmt x
  let row0 := pos / 65536
  let col0 := pos % 65536
  let tr := bitsN x 447 432
  let tcols := bitsN x 431 416
  (List.range rows).flatMap (fun i =>
    if row0 + i ≥ tr then []
    else
      let base := bitsN x 511 448 + (row0 + i) * bitsN x 415 384
      if fmtMx f then
        (List.range ((max cols scaleCols + 31) / 32)).filterMap (fun g =>
          if col0 + 32 * g < tcols then some (i, g, (base + 33 * (col0 / 32 + g)) % 2 ^ 64, 33) else none)
      else
        let n := min cols (tcols - col0)
        if n = 0 ∨ col0 ≥ tcols then [] else [(i, 0, (base + col0 * fmtHalf f / 2) % 2 ^ 64, n * fmtHalf f / 2)])

/-- Columns of scales that a tile of a format takes: K for MX, none otherwise (12 R311). -/
def scaleCols (w : Nat) : Nat := if fmtMx (tcFmt w) then tcK w else 0

/-- The check of every byte of a window for an instruction that issued at `at_` (12 R332): the first failure. -/
def State.windowFault (s : State) (at_ key nd : Nat) (runs : List (Nat × Nat × Nat × Nat)) : Option (Nat × Nat) :=
  runs.findSome? (fun r => (spanPieces 256 (r.2.2.2 + 1) r.2.2.1 0 r.2.2.2).findSome? (fun p =>
    match s.translateAt at_ key p.1 1 nd with
    | .ok _ => none
    | .error k => some (k, p.1)))

/-- Pairings of ADRAIN (12 R334). -/
def drainOk (op : AshOp) (x : Nat) : Bool :=
  let f := shFmt x
  bitN op.aw 31 && (if bitN op.aw 30 then f == 0 || f == 1 || f == 12 else decide (2 ≤ f ∧ f ≤ 11))
    && (bitsN x 378 377 != 1 || f == 11 || f == 12) && (!fmtMx f || (awN op.aw % 32 == 0))

/-- Whether TLD, TST or ADRAIN may run with a record (12 R332-R334): what it captured at issue is valid and agrees with the record, which is
well formed. -/
def AshOp.shapeOk (o : AshOp) (x : Nat) : Bool :=
  (if o.kind = .adrain then drainOk o x else bitN o.ta 31 && shFmt x == tcFmt o.ta) && !shapeBad x o.arg

/-- Whether an ADRAIN combines with what it finds (12 R334 `DOP`). -/
def AshOp.combines (o : AshOp) : Bool := o.kind == .adrain && bitsN o.image 378 377 == 1

/-- The access need of TLD, TST and ADRAIN (12 R332). -/
def AshOp.need (o : AshOp) : Nat := if o.kind = .tld then needR else if o.combines then needWAT else needW

/-- The runs of bytes that TLD, TST or ADRAIN moves (12 R333, R334). -/
def AshOp.runs (o : AshOp) : List (Nat × Nat × Nat × Nat) :=
  match o.kind with
  | .tld => windowRuns o.image o.arg (tcRows o.ta) (tcKs o.ta) (scaleCols o.ta)
  | .tst => windowRuns o.image o.arg (tcRows o.ta) (tcKs o.ta) 0
  | .adrain => windowRuns o.image o.arg (awM o.aw) (awN o.aw) 0
  | _ => []

/-- TLD, TST and ADRAIN at issue (12 R332): the operation takes its place in the queue, and the instruction `i` waits for its record, which
`State.shapeBack` checks. -/
def execShape (s : State) (i : Instr) (q u : Nat) (mk : AshCtx → AshOp) : Host.Outcome State Fault Refusal :=
  execAsh s (uaddrOk q && uniOk u) true true [u] fun c s1 ax a => do
    let pos ← c.uval u
    let x := c.addr q 0
    need (!x.2) (.all 5 x.1)
    match s1.translate c.key x.1 64 needR with
    | .error k => .error (.all k x.1)
    | .ok pa =>
      let op := { mk a with arg := pos, core := coreOf c.key, warp := c.w.warpId, held := true,
                            ready := max s1.clk c.w.releaseAt, forks := [(c.w.warpId, s1.clk)] }
      return (s1.setAsh ax (a.enter s1.clk (subOf c.key) op)).sendRead c pa 64 { instr := i, at_ := s1.clk, va := x.1, op := a.nextId }

/-- An operation leaves its queue. -/
def AshCtx.leave (c : AshCtx) (id : Nat) : AshCtx := { c with ops := c.ops.filter (fun e => e.id != id) }

/-- The fault that the record of a TLD, TST or ADRAIN brings (12 R332), if any. -/
def State.shapeFault (s : State) (c : Ctx) (h : HalfIssue) (o : AshOp) : Option Trap :=
  if !o.shapeOk h.img then some trapOpnd
  else match s.windowFault h.at_ c.key { o with image := h.img }.need { o with image := h.img }.runs with
    | some f => some (.all f.1 f.2)
    | none => (match shBar h.img with
      | some va => (match s.translateAt h.at_ c.key va 16 needRWAT with
        | .error k => some (.all k va)
        | .ok _ => none)
      | none => none)

/-- The record of a TLD, TST or ADRAIN has come (12 R332): the operation stands in the queue with it and the path goes on, or it leaves the
queue and the path takes its fault. -/
def State.shapeBack (s : State) (c : Ctx) (u : Nat) (h : HalfIssue) : State :=
  match s.ashOf (coreOf c.key) c.w.team with
  | none => s
  | some ax =>
    match (s.ash ax).ops.find? (fun o => o.id == h.op) with
    | none => s
    | some o =>
      match (if h.psn then some (.all 5 h.va) else s.shapeFault c h o) with
      | some t => (s.setAsh ax ((s.ash ax).leave o.id)).stepFault c t
      | none =>
        let put (e : AshOp) : AshOp := if e.id = o.id then { e with image := h.img, held := false } else e
        ((s.setAsh ax { s.ash ax with ops := (s.ash ax).ops.map put }).finish c (c.npc [u]) .keep).updNode c.key c.nid
          (fun n => { n with step := none })

/-- 12 R333 TLD. -/
def execTld (t q u : Nat) (s : State) : Host.Outcome State Fault Refusal :=
  execShape s (.tld t q u) q u (fun a => { id := 0, kind := .tld, t := t, ta := sget 0 a.tc t })

/-- 12 R333 TST. -/
def execTst (t q u : Nat) (s : State) : Host.Outcome State Fault Refusal :=
  execShape s (.tst t q u) q u (fun a => { id := 0, kind := .tst, t := t, ta := sget 0 a.tc t })

/-- 12 R334 ADRAIN. -/
def execAdrain (z d q u : Nat) (s : State) : Host.Outcome State Fault Refusal :=
  execShape s (.adrain z d q u) q u (fun a => { id := 0, kind := .adrain, t := d, z := z != 0, aw := sget 0 a.aw d })

/-! ### Accumulator operations -/

/-- 12 R335 AZERO: the state word at issue, the elements when it runs. -/
def execAzero (d q : Nat) (s : State) : Host.Outcome State Fault Refusal :=
  execAsh s (uniOk q) true true [q] fun c s1 ax a => do
    let x ← c.uval q
    need (bitN x 31 == false && bitsN x 29 12 == 0) trapOpnd
    let a1 := { a with aw := sput 0 a.aw d (2 ^ 31 + x) }
    return (s1.setAsh ax (a1.enter s1.clk (subOf c.key) { id := 0, kind := .azero, t := d })).finish c (c.npc [q]) .kill

/-- 12 R335 AREAD: the destination is pending until delivery. -/
def execAread (p q d : Nat) (s : State) : Host.Outcome State Fault Refusal :=
  execAsh s (decide (p < 64) && uniOk q) true true [q] fun c s1 ax a => do
    let rc ← c.uval q
    need (bitsN rc 7 6 == 0 && rc / 2 ^ 14 == 0 && bitN (sget 0 a.aw d) 31) trapOpnd
    let op : AshOp := { id := 0, kind := .aread, t := d, aw := sget 0 a.aw d, arg := rc, warp := c.w.warpId, core := coreOf c.key
                        got := (lanesOf c.act).map (fun l => (l, {})) }
    let pd : Pend := { nid := c.nid, dst := p, num := 1, mask := c.act, wb := c.p.wb, due := 0, del := .aread a.nextId }
    return ((s1.setAsh ax (a.enter s1.clk (subOf c.key) op)).updWarp c.key (fun w => { w with pend := w.pend ++ [pd] })).finish c (c.npc [q]) .kill

/-- 12 R335 AWRITE. -/
def execAwrite (p q d : Nat) (s : State) : Host.Outcome State Fault Refusal :=
  execAsh s (decide (p < 64) && uniOk q) true true [q] fun c s1 ax a => do
    let rc ← c.uval q
    need (bitsN rc 7 6 == 0 && rc / 2 ^ 14 == 0 && bitN (sget 0 a.aw d) 31) trapOpnd
    let op : AshOp := { id := 0, kind := .awrite, t := d, aw := sget 0 a.aw d, arg := rc
                        vals := (lanesOf c.act).map (fun l => (l, c.opnd p l)) }
    return (s1.setAsh ax (a.enter s1.clk (subOf c.key) op)).finish c (c.npc [q]) .kill

/-! ### Starting operations -/

/-- Resources of an operation (12 R315): tiles 0-15, scales 16-31, accumulators 32-39, metadata queues 40-43; read, written. -/
def AshOp.uses (o : AshOp) : List Nat × List Nat :=
  let mxT := if fmtMx (tcFmt o.ta) then [16 + o.t] else []
  let mxAB := if fmtMx (tcFmt o.ta) then [16 + o.a, 16 + o.b] else []
  match o.kind with
  | .tzero => ([], [o.t, 16 + o.t])
  | .tscl => ([], [16 + o.t])
  | .tld => ([], o.t :: mxT)
  | .tst => (o.t :: mxT, [])
  | .mma => ([o.a, o.b, 32 + o.t] ++ mxAB, [32 + o.t])
  | .mmas => ([o.a, o.b, 32 + o.t, 40 + o.mq] ++ mxAB, [32 + o.t, 40 + o.mq])
  | .azero => ([], [32 + o.t])
  | .adrain => ([32 + o.t], if o.z then [32 + o.t] else [])
  | .aread => ([32 + o.t], [])
  | .awrite => ([], [32 + o.t])

/-- Whether two operations conflict (12 R315). -/
def AshOp.conflicts (e o : AshOp) : Bool :=
  let a := e.uses
  let b := o.uses
  a.2.any (fun x => b.1.contains x || b.2.contains x) || a.1.any (fun x => b.2.contains x)

/-- Whether an operation is of the array. -/
def AshOp.isArray (o : AshOp) : Bool := o.kind == .mma || o.kind == .mmas

/-- The chaining exception of 12 R315. -/
def AshOp.chains (e o : AshOp) : Bool :=
  e.isArray && o.isArray && e.started && e.t == o.t && awM e.aw == awM o.aw && awN e.aw == awN o.aw

/-- Whether the hazards of 12 R315 are clear for an operation, given those before it. -/
def hazardsClear (before : List AshOp) (o : AshOp) : Bool :=
  let prev := if o.prevDone then none else before.reverse.find? AshOp.isArray
  before.all (fun e => !e.conflicts o || (prev == some e && e.chains o))

/-- The operations before one in the queue. -/
def AshCtx.before (c : AshCtx) (id : Nat) : List AshOp := c.ops.takeWhile (fun o => o.id != id)

/-- Whether the forks of an operation are over (04 R107; 12 R337): every memory instruction that its warps issued before them has reached
write-back. -/
def State.opForked (s : State) (c : AshCtx) (o : AshOp) : Bool :=
  decide (o.ready ≤ s.clk) && o.forks.all (fun f => s.forkFree (c.team.getD 0) f.1 f.2)

/-- Whether an operation of a context is ready but for the latch and its unit (12 R321). -/
def State.opReady (s : State) (c : AshCtx) (o : AshOp) : Bool :=
  !o.started && !o.held && s.opForked c o && hazardsClear (c.before o.id) o && c.metaReady o

/-- Whether an operation occupies its unit (12 R316). -/
def AshOp.occupies (o : AshOp) (clk : Nat) : Bool := o.started && (decide (clk < o.busy) || !o.todo.isEmpty)

/-- The lower core of a core's pair (02 R39). -/
def pairLow (core : Nat) : Nat := min core (partner core)
/-- The latch of a core's pair. -/
def State.latch (s : State) (core : Nat) : Latch := sget .empty s.latches (pairLow core)
/-- Replaces the latch of a core's pair. -/
def State.setLatch (s : State) (core : Nat) (l : Latch) : State := { s with latches := sput .empty s.latches (pairLow core) l }

/-- For a paired operation: the B operands in the latch, when it is joined for it and has not started (12 R321). -/
def Latch.images (l : Latch) (ax id : Nat) : Option (LatchImg × LatchImg) :=
  match l with
  | .joined a0 i0 a1 i1 m0 m1 st0 st1 =>
    if (a0 = ax ∧ i0 = id ∧ st0 = false) ∨ (a1 = ax ∧ i1 = id ∧ st1 = false) then some (m0, m1) else none
  | _ => none

/-- Whether an operation may start now (12 R315, R316, R321; 17 R452). -/
def State.opStartable (s : State) (ax : Nat) (o : AshOp) : Bool :=
  let c := s.ash ax
  let core := ax / 2
  let both := (s.ash (2 * core)).ops ++ (s.ash (2 * core + 1)).ops
  s.opReady c o
    && both.all (fun e => !(e.isArray == o.isArray && e.occupies s.clk))
    && (!o.isArray || !s.throttled core)
    && (!(o.isArray && o.pair) || ((s.latch core).images ax o.id).isSome)

/-- The first startable operation of a context on each unit. -/
def State.startable (s : State) (ax : Nat) (array : Bool) : Option AshOp :=
  (s.ash ax).ops.find? (fun o => o.isArray == array && s.opStartable ax o)

/-- The operation that starts: round robin between the contexts of a core (12 R316). -/
def State.pickOp (s : State) (ax : Nat) : Option AshOp :=
  let turn (array : Bool) : Option AshOp :=
    match s.startable ax array with
    | none => none
    | some o =>
      if (s.startable (ax ^^^ 1) array).isSome && sget 0 s.ashTurn (ax / 2 * 2 + b2n array) == ax + 1 then none else some o
  match turn true with
  | some o => some o
  | none => turn false

/-- Translation of an operation's access when it runs (12 R332). -/
def State.opXlate (s : State) (tk core va nd : Nat) : Option Nat :=
  match s.team tk with
  | none => none
  | some t =>
    match (if spaceOf va = 0 then (s.ctx t.ctx).xlateS va nd else if spaceOf va = 1 then t.xlateL core (va - 2 ^ 32) nd else .error 2) with
    | .ok pa => some pa
    | .error _ => none

/-! ### The port -/

/-- What a run of TST writes (12 R333, R336): data, and a poison bit per byte. -/
def AshCtx.tstRun (c : AshCtx) (o : AshOp) (w : Nat × Nat × Nat × Nat) : Nat × Nat :=
  let f := tcFmt o.ta
  if fmtMx f then
    let bits := (List.range 32).foldl (fun n k => n + tileCode c.tiles o.t f w.1 (32 * w.2.1 + k) % 2 ^ mxBits f * 2 ^ (mxBits f * k)) 0
    let half := 32 * w.2.1 * fmtHalf f / 2 / 32
    let bad := sget false c.tpsn (halfKey o.t w.1 half) || sget false c.epsn o.t
    (bits + scaleAt c.scales o.t (4 * w.1 + w.2.1) * 2 ^ 256, if bad then maskAt 0 33 else 0)
  else
    (memRead c.tiles (4096 * o.t + 64 * w.1) w.2.2.2,
      (List.range 2).foldl (fun n h => if sget false c.tpsn (halfKey o.t w.1 h) then n + maskAt (32 * h) 32 else n) 0)

/-- What a run of ADRAIN writes or combines (12 R334, R336): data, a poison bit per byte, flags. -/
def AshCtx.drainRun (c : AshCtx) (o : AshOp) (w : Nat × Nat × Nat × Nat) : Nat × Nat × Nat :=
  let x := o.image
  let f := shFmt x
  let md : NMode := { rm := bitsN x 376 374, fo := bitN x 373, nsat := bitN x 372 }
  if fmtMx f then
    let vs := (List.range 32).map (fun k => c.accAt o.t w.1 (32 * w.2.1 + k))
    let q := mxQuant f md (vs.map (fun v => fp32.decode v.bits.toNat))
    let bits := (q.2.1.zip (List.range 32)).foldl (fun n e => n + e.1 % 2 ^ mxBits f * 2 ^ (mxBits f * e.2)) 0
    (bits + q.1 * 2 ^ 256, if vs.any (·.psn) then maskAt 0 33 else 0, if vs.any (·.psn) then 0 else q.2.2)
  else
    let zb := fmtHalf f / 2
    (List.range (w.2.2.2 / zb)).foldl (fun (n : Nat × Nat × Nat) j =>
      let v := c.accAt o.t w.1 j
      let e := if o.combines then (v.bits.toNat, 0) else drainConv (bitN o.aw 30) f md v.bits.toNat
      (n.1 + e.1 * 2 ^ (8 * zb * j), if v.psn then n.2.1 + maskAt (zb * j) zb else n.2.1, if v.psn then n.2.2 else n.2.2 ||| e.2)) (0, 0, 0)

/-- What a run of an operation writes: data, a poison bit per byte, flags. -/
def AshCtx.runData (c : AshCtx) (o : AshOp) (w : Nat × Nat × Nat × Nat) : Nat × Nat × Nat :=
  match o.kind with
  | .tst => let r := c.tstRun o w; (r.1, r.2, 0)
  | .adrain => c.drainRun o w
  | _ => (0, 0, 0)

/-- An operation with the pieces that it has to move, and what its data puts into `AST` (12 R316, R333, R334, R336). -/
def AshCtx.withPieces (c : AshCtx) (o : AshOp) : AshOp :=
  (o.runs.zip (List.range o.runs.length)).foldl (fun (a : AshOp) r =>
    let w := r.1
    let d := c.runData o w
    let ps := (spanPieces (if o.combines then 4 else 256) (w.2.2.2 + 1) w.2.2.1 0 w.2.2.2).map (fun p =>
      (⟨r.2, p.2.1, p.1, p.2.2, bytesAt d.1 p.2.1 p.2.2, d.2.1 / 2 ^ p.2.1 % 2 ^ p.2.2⟩ : PortPiece))
    { a with todo := a.todo ++ ps, ast := a.ast ||| (if d.2.1 % 2 ^ w.2.2.2 != 0 then 1 else 0) ||| d.2.2 * 256 }) o

/-- The next beat of the port (12 R316): pieces in order, of at most 256 bytes together, with their physical addresses, and what is left. -/
def State.portBeat (s : State) (tk : Nat) (o : AshOp) : Nat → List PortPiece → List (PortPiece × Nat) × List PortPiece
  | _, [] => ([], [])
  | n, p :: ps =>
    if 256 < n + p.n then ([], p :: ps)
    else match s.opXlate tk o.core p.va o.need with
      | none => ([], p :: ps)
      | some pa => let r := s.portBeat tk o (n + p.n) ps; ((p, pa) :: r.1, r.2)

/-- The bank words of a beat of the port, each with its parts: the byte of the run and the run (`cmp`), the data. A word that is combined takes
two bank accesses (02 R47). -/
def beatParts (atomic : Bool) (ps : List (PortPiece × Nat)) : List AccPart :=
  ps.flatMap (fun p => (spanPieces (if atomic then 4 else 32) (p.1.n + 1) p.2 0 p.1.n).map (fun q =>
    { lane := p.1.off + q.2.1, pa := q.1, n := q.2.2, x := bytesAt p.1.x q.2.1 q.2.2, cmp := p.1.run
      psn := p.1.psn / 2 ^ q.2.1 % 2 ^ q.2.2 != 0 }))

/-- The operation that moves bytes through the port of a core, with its context. -/
def State.portOp (s : State) (core : Nat) : Option (Nat × AshOp) :=
  [2 * core, 2 * core + 1].findSome? (fun ax => ((s.ash ax).ops.find? (fun o => o.started && !o.todo.isEmpty)).map (fun o => (ax, o)))

/-- The port's attempt of a clk (12 R316): the next beat reserves, and its accesses are on their way to their bank slots. Pieces whose
translation fails now are passed over and lost (R332). -/
def State.portAttempt (s : State) (core : Nat) : State :=
  match s.portOp core with
  | none => s
  | some (ax, o) =>
    let tk := (s.ash ax).team.getD 0
    let lost := o.todo.takeWhile (fun p => (s.opXlate tk o.core p.va o.need).isNone)
    let o1 := { o with todo := o.todo.drop lost.length, ast := if lost.isEmpty then o.ast else o.ast ||| 2 }
    let put (st : State) (e : AshOp) : State := st.setAsh ax { st.ash ax with ops := (st.ash ax).ops.map (fun y => if y.id = o.id then e else y) }
    let b := s.portBeat tk o1 0 o1.todo
    if b.1.isEmpty then put s { o1 with busy := max o1.busy s.clk, till := max o1.till s.clk }
    else
      let parts := (beatParts o.combines b.1).map (fun p => (0, p))
      let gs := parts.map (fun p => granOf p.2.pa)
      let accs := if o.combines then gs.flatMap (fun g => [(0, g), (0, g)]) else gs.eraseDups.map (fun g => (0, g))
      let start : Nat → Nat := fun _ => s.clk
      if !s.clear none 0 start core 1 accs then put s o1
      else
        let sl := slotsFrom start core accs
        let last := sl.foldl (fun m x => max m x.2.2) s.clk
        let back := s.clk + latencyL core 1 accs
        let agent := ashAgent ax o.id
        let op : AccOp := if o.kind = .tld then .load false else if o.combines then .atomic (if shFmt o.image = 11 then 10 else 0) else .store
        let f : Flight := ⟨2 ^ 21 + ax, agent, op, if op = .store then .none else .ash ax o.id, 0#96,
          if o.combines then atomicAccs sl parts else bankAccs sl parts, []⟩
        let s1 := s.reserveFrom start core 1 none accs
        let s2 := { s1 with flights := s1.flights ++ [f] }
        let s3 := if op = .store then sl.foldl (fun (st : State) a => st.setMem (st.mem.notePlain s.clk a.2.1 agent a.2.2)) s2 else s2
        put s3 { o1 with todo := b.2, busy := max o1.busy (if o.kind = .tld then back else last), till := max o1.till (if o.kind = .tld then back else last + 17)
                         moved := if o.kind = .tst ∨ op = .store then o1.moved + b.1.foldl (fun n p => n + p.1.n) 0 else o1.moved }

/-- What the parts of an operation have found of a run: data, a poison bit per byte, the bytes found. -/
def runGot (ps : List AccPart) (run : Nat) : Nat × Nat × Nat :=
  (ps.filter (fun p => p.cmp == run)).foldl (fun a p =>
    (a.1 + p.got % 2 ^ (8 * p.n) * 2 ^ (8 * p.lane), if p.psn then a.2.1 + maskAt p.lane p.n else a.2.1, a.2.2 + maskAt p.lane p.n)) (0, 0, 0)

/-- A context once a TLD has all its bytes (12 R333, R336): the window is in the tile, zero outside the tensor, and zero with poison where an access
has failed (R332). -/
def AshCtx.tldDone (c0 : AshCtx) (o : AshOp) (ps : List AccPart) : AshCtx :=
  let f := tcFmt o.ta
  let ks := tcKs o.ta
  let rows := tcRows o.ta
  let bytes := (ks * fmtHalf f + 1) / 2
  let t1 := (List.range rows).foldl (fun (m : Memory) i => memWrite m (4096 * o.t + 64 * i) bytes 0) c0.tiles
  let p1 := (List.range rows).foldl (fun (p : Sparse Bool) i =>
    (List.range ((bytes + 31) / 32)).foldl (fun (q : Sparse Bool) h => sput false q (halfKey o.t i h) false) p) c0.tpsn
  let sc1 := if fmtMx f then (List.range rows).foldl (fun (m : Sparse Nat) i =>
      (List.range (tcK o.ta / 32)).foldl (fun (q : Sparse Nat) j => sput 127 q (o.t * 256 + 4 * i + j) 127) m) c0.scales
    else c0.scales
  let c1 := { c0 with tiles := t1, tpsn := p1, scales := sc1, epsn := if fmtMx f then sput false c0.epsn o.t false else c0.epsn }
  (o.runs.zip (List.range o.runs.length)).foldl (fun (c : AshCtx) r =>
    let w := r.1
    let g := runGot ps r.2
    let x := g.1
    let bad := g.2.1 + (maskAt 0 w.2.2.2 - g.2.2)
    let i := w.1
    let c2 : AshCtx :=
      if fmtMx f then
        let els := (List.range 32).filter (fun k => decide (32 * w.2.1 + k < ks))
        let tl := els.foldl (fun (m : Memory) k => tilePut m o.t f i (32 * w.2.1 + k) (x / 2 ^ (mxBits f * k) % 2 ^ mxBits f)) c.tiles
        let pz := if bad % 2 ^ (4 * mxBits f) != 0 then els.foldl (fun (p : Sparse Bool) k =>
          sput false p (halfKey o.t i ((32 * w.2.1 + k) * fmtHalf f / 2 / 32)) true) c.tpsn else c.tpsn
        { c with tiles := tl, tpsn := pz, scales := sput 127 c.scales (o.t * 256 + 4 * i + w.2.1) (bytesAt x 32 1)
                 epsn := if bitN bad 32 then sput false c.epsn o.t true else c.epsn }
      else
        { c with tiles := memWrite c.tiles (4096 * o.t + 64 * i) w.2.2.2 x
                 tpsn := (List.range 2).foldl (fun (p : Sparse Bool) h =>
                   if bad / 2 ^ (32 * h) % 2 ^ 32 != 0 then sput false p (halfKey o.t i h) true else p) c.tpsn }
    if bad != 0 then c2.orAst 1 else c2) c1

/-- A context once an operation that moves bytes is complete, `ps` being what its accesses found, and the bytes its barrier counts (12 R333, R334,
R336). -/
def AshCtx.portDone (c : AshCtx) (o : AshOp) (ps : List AccPart) : AshCtx × Nat :=
  match o.kind with
  | .tld => ((c.tldDone o ps).orAst o.ast, o.runs.foldl (fun n w => n + w.2.2.2) 0)
  | .adrain =>
    let c1 := if o.z then { c with acc := c.acc.filter (fun e => e.1 / 4096 != o.t) } else c
    ((c1.orAst o.ast).orAst (if ps.any (·.psn) then 1 else 0), if o.combines then 4 * (ps.filter (fun p => !p.psn)).length else o.moved)
  | _ => (c.orAst o.ast, o.moved)

/-- The B operand of an operation that is not paired. -/
def AshCtx.ownB (c : AshCtx) (o : AshOp) : BOper := ⟨c.tiles, o.b, o.tb, c.tpsn, c.scales, sget false c.epsn o.b⟩
/-- A B operand from the latch: its image is kept as tile 0. -/
def LatchImg.oper (m : LatchImg) : BOper := ⟨m.rows, 0, m.word, m.psn, m.scales, m.epsn⟩

/-- D of 12 R316 and R338. -/
def opD (o : AshOp) (n : Nat) : Nat :=
  let kc := if o.ta = 0 then 32 else if tcFmt o.ta = 4 ∨ tcFmt o.ta = 5 then 16 else if tcFmt o.ta = 10 ∧ tcFmt o.tb = 10 then 64 else 32
  ((awM o.aw + 15) / 16) * ((n + 15) / 16) * ((tcKs o.ta + kc - 1) / kc)

/-- A context after TZERO, TSCL, AZERO, AREAD or AWRITE (12 R327, R335). -/
def AshCtx.runShort (c : AshCtx) (o : AshOp) : AshCtx :=
  let row := bitsN o.arg 5 0
  let base := bitsN o.arg 13 8
  let inside (l : Nat) : Bool := decide (row < awM o.aw ∧ base + l < awN o.aw)
  match o.kind with
  | .tzero => { c with
      tiles := c.tiles.filter (fun e => e.1 / 4096 != o.t), tpsn := c.tpsn.filter (fun e => e.1 / 128 != o.t)
      scales := c.scales.filter (fun e => e.1 / 256 != o.t), epsn := sput false c.epsn o.t false }
  | .tscl => { c with
      scales := (List.range 256).foldl (fun (m : Sparse Nat) j => sput 127 m (o.t * 256 + j) o.arg) c.scales
      epsn := sput false c.epsn o.t false }
  | .azero => { c with acc := c.acc.filter (fun e => e.1 / 4096 != o.t) }
  | .awrite =>
    let c1 := (o.vals.filter (fun v => inside v.1)).foldl (fun (a : AshCtx) v => a.setAcc o.t row (base + v.1) v.2) c
    if o.vals.any (fun v => inside v.1 && v.2.psn) then c1.orAst 1 else c1
  | .aread =>
    let vs := o.got.map (fun v => (v.1, if inside v.1 then c.accAt o.t row (base + v.1) else {}))
    let c1 := if vs.any (fun v => v.2.psn) then c.orAst 1 else c
    { c1 with ops := c1.ops.map (fun e => if e.id = o.id then { e with got := vs } else e) }
  | _ => c

/-- Marks an operation started. -/
def AshCtx.mark (c : AshCtx) (o : AshOp) (busy till : Nat) : AshCtx :=
  { c with ops := c.ops.map (fun e => if e.id = o.id then { e with started := true, busy := busy, till := till, todo := o.todo, ast := o.ast } else e) }

/-- The latch once a half's paired operation has started; empty after both (12 R321). -/
def Latch.start (l : Latch) (ax : Nat) : Latch :=
  match l with
  | .joined a0 i0 a1 i1 m0 m1 st0 st1 =>
    let x0 := st0 || a0 == ax
    let x1 := st1 || a1 == ax
    if x0 && x1 then .empty else .joined a0 i0 a1 i1 m0 m1 x0 x1
  | l => l

/-- The charges of the array's busy clk (17 R450): 256 in each of `d` clk of its core. -/
def State.chargeArray (s : State) (core d : Nat) : State :=
  s.updCluster (clusterOf core) (fun c => { c with
    recent := (c.recent.filter (fun x => decide (s.clk < x.1 + 97))) ++ (List.range d).map (fun j => (s.coreClk core j, 256)) })

/-- 12 R315, R316: an operation starts: on the array with its effect at once, on the port with the bytes it has to move, or its effect on
the context. -/
def execAshlarOpStart (ax : Nat) (s : State) : Host.Outcome State Fault Refusal :=
  .next <|
    match s.pickOp ax with
    | some o =>
      let s0 := { s with ashTurn := sput 0 s.ashTurn (ax / 2 * 2 + b2n o.isArray) (ax + 1) }
      let c := s0.ash ax
      let core := ax / 2
      if o.isArray then
        let imgs := if o.pair then (s0.latch core).images ax o.id else none
        let bs := match imgs with
          | some (m0, m1) => [m0.oper, m1.oper]
          | none => [c.ownB o]
        let n := bs.foldl (fun a b => a + tcRows b.word) 0
        let d := opD o n
        let c1 := (c.runMma o bs).mark o (s.coreClk core d) (s.coreClk core (d + 8))
        let s1 := (s0.setAsh ax c1).chargeArray core d
        if o.pair then s1.setLatch core ((s1.latch core).start ax) else s1
      else match o.kind with
        | .tld | .tst | .adrain => s0.setAsh ax (c.mark (c.withPieces o) s.clk s.clk)
        | k => s0.setAsh ax ((c.runShort o).mark o (s.coreClk core 2) (s.coreClk core (if k = .aread then 6 else 2)))
    | none => s

/-- An operation of a context leaves the queue complete: an array operation just behind it has nothing left to chain to (12 R315). -/
def AshCtx.retire (c : AshCtx) (o : AshOp) : AshCtx :=
  let next := ((c.ops.dropWhile (fun e => e.id != o.id)).drop 1).find? AshOp.isArray
  let mark (e : AshOp) : AshOp := if o.isArray && next.map (·.id) == some e.id then { e with prevDone := true } else e
  { c with ops := (c.ops.filter (fun e => e.id != o.id)).map mark }

/-- Whether the instruction that reads the record of an operation still stands (12 R332). -/
def State.recordAwaited (s : State) (tk : Nat) (o : AshOp) : Bool :=
  match s.warpKey tk o.warp with
  | some k => (64 :: s.entries k).any (fun i => (s.node k i).kind == .path && ((s.node k i).step.map (fun h => (h.op, h.at_))) == some (o.id, o.entered))
  | none => false

/-- Whether an AREAD still has registers to deliver to (12 R335). -/
def State.areadAwaited (s : State) (tk : Nat) (o : AshOp) : Bool :=
  match s.warpKey tk o.warp with
  | some k => (match s.warp k with
    | some w => w.pend.any (fun p => p.del == .aread o.id)
    | none => false)
  | none => false

/-- Whether an operation leaves its queue in this clk, with nothing or with its effect (12 R316, R332, R335): one that has run for its time; one
whose instruction is gone before its record came; an AREAD, for which all before it are gone, that no register awaits. -/
def State.opOver (s : State) (c : AshCtx) (o : AshOp) : Bool :=
  let tk := c.team.getD 0
  (o.started && o.kind != .aread && o.todo.isEmpty && decide (o.till ≤ s.clk)) || (o.held && !s.recordAwaited tk o)
    || (o.kind == .aread && (c.ops.head?.map (·.id)) == some o.id && !s.areadAwaited tk o)

/-- Whether a command of a team that fills a metadata queue, or may fill it, is still on its way (12 R330). -/
def State.metaComing (s : State) (tk mq : Nat) : Bool :=
  s.hods.any (fun h =>
    h.2.qs.any (fun q => q.2.cmds.any (fun k => k.op == 7 && k.team == some tk))
      || h.2.slots.any (fun t => match t.2 with
        | some f => f.cmd.op == 7 && f.cmd.team == some tk && bitsN (f.cmd.image.getD 0) 351 350 == mq
        | none => false))

/-- Whether no operation of a team's Ashlar contexts can still start or run (12 R317, R323): none runs or is ready, and none waits for
its record, for a fork, or for metadata that is still on its way. -/
def State.ashEnded (s : State) (tk : Nat) : Bool :=
  (s.ashs.filter (fun x => x.2.team == some tk && decide (x.1 < 384))).all (fun x => x.2.ops.all (fun o =>
    !o.started && !o.held && s.opForked x.2 o && !s.opReady x.2 o && (x.2.metaReady o || !s.metaComing tk o.mq)))

/-- A team's Ashlar contexts leave the machine, with what they hold of a latch; what they have in flight finds nobody. -/
def State.clearAsh (s : State) (tk : Nat) : State :=
  let axs := (s.ashs.filter (fun e => e.2.team == some tk)).map (·.1)
  let mine (f : Flight) : Bool := match f.dst with
    | .ash ax _ => axs.contains ax
    | _ => false
  axs.foldl (fun st ax =>
    let st1 := match st.latch (ax / 2) with
      | .held a _ _ _ => if a = ax then st.setLatch (ax / 2) .empty else st
      | .joined a _ b _ _ _ _ _ => if a = ax ∨ b = ax then st.setLatch (ax / 2) .empty else st
      | .empty => st
    st1.setAsh ax {}) { s with flights := s.flights.map (fun (f : Flight) => if mine f then { f with dst := .none } else f) }

/-- An ended team of which nothing is left leaves the machine: its end is observed, its meshlet handed over, and every operation that can
still start is complete (12 R323; 14 R371). -/
def State.dropEnded (s : State) (tk : Nat) : State :=
  match s.team tk with
  | some t => if t.gone = 2 && (t.stage != 1 || t.handed) && s.ashEnded tk then (s.clearAsh tk).setTeam tk none else s
  | none => s

/-- 12 R316, R333, R337: an operation leaves the queue; what TLD, TST and ADRAIN have moved takes effect on the context, and the barrier of their
record is decremented, if it still translates (R332). -/
def State.opComplete (s : State) (ax : Nat) : State :=
    let c := s.ash ax
    match c.ops.find? (s.opOver c) with
    | none => s
    | some o =>
      if !o.started || !(o.kind == .tld || o.kind == .tst || o.kind == .adrain) then s.setAsh ax (c.retire o)
      else
        let mine (f : Flight) : Bool := f.dst == .ash ax o.id
        let r := c.portDone o (((s.flights.filter mine).flatMap (·.accs)).flatMap (·.parts))
        let s1 := { s with flights := s.flights.filter (fun f => !mine f) }
        match shBar o.image with
        | none => s1.setAsh ax (r.1.retire o)
        | some va =>
          match s1.opXlate (c.team.getD 0) o.core va needRWAT with
          | none => s1.setAsh ax ((r.1.orAst 2).retire o)
          | some pa => (s1.barDec pa (if o.kind = AshKind.tld then .decOut r.2 false else .decIn r.2 false)).setAsh ax (r.1.retire o)

/-- 12 R316, R323, R333, R337: an operation of a context completes, and with the last of an ended team the team is gone. -/
def execAshlarOpComplete (ax : Nat) (s : State) : Host.Outcome State Fault Refusal :=
  .next <|
    match (s.ash ax).team with
    | some tk => (s.opComplete ax).dropEnded tk
    | none => s.opComplete ax

/-- 12 R335: an AREAD is delivered once every operation that entered before it has completed. -/
def execAreadDelivery (k m : Nat) (s : State) : Host.Outcome State Fault Refusal :=
  .next <|
    match s.warp k with
    | none => s
    | some w =>
      match s.ashOf (coreOf k) w.team with
      | none => s
      | some ax =>
        match (s.ash ax).ops with
        | o :: rest =>
          if o.kind = .aread ∧ o.started = true ∧ o.till ≤ s.clk ∧ o.warp = w.warpId ∧ w.pend.any (fun p => p.nid == m && p.del == .aread o.id) = true then
            (s.setAsh ax { s.ash ax with ops := rest }).deliver k (fun p => p.del == .aread o.id)
              (fun _ => o.got.map (fun v => (v.1, [v.2]))) (fun _ => [])
          else s
        | [] => s

/-! ### The clip-in latch -/

/-- Whether every warp of a team has exited (12 R321). -/
def State.allExited (s : State) (t : Team) : Bool :=
  t.keys.all (fun k => match s.warp k with
    | some w => w.status == .exited
    | none => true)

/-- Whether a latch is held by a context, or joined for it (12 R321). -/
def Latch.names (l : Latch) (ax : Nat) : Bool :=
  match l with
  | .empty => false
  | .held a _ _ _ => a == ax
  | .joined a _ b _ _ _ _ _ => a == ax || b == ax

/-- The last row of 12 R321: once every warp of a team has exited, a latch held or joined for it is empty, and the team's paired
operations that have not started are dropped. -/
def State.dropLatched (s : State) (tk : Nat) : State :=
  match s.team tk with
  | none => s
  | some t =>
    let axs := (s.ashs.filter (fun x => x.2.team == some tk && decide (x.1 < 384))).map (·.1)
    match axs.find? (fun ax => (s.latch (ax / 2)).names ax) with
    | none => s
    | some ax0 =>
      if !s.allExited t then s
      else axs.foldl (fun (st : State) ax =>
        st.setAsh ax { st.ash ax with ops := (st.ash ax).ops.filter (fun o => !(o.isArray && o.pair && !o.started)) })
        (s.setLatch (ax0 / 2) .empty)

/-- Lanes leave a warp (08 R224) and, where the warp exits, its gang (12 R318, R321). -/
def State.leaveLanes (s : State) (key nid : Nat) (m : LaneMask) : State :=
  let s1 := s.exitLanes key nid m
  match s.warp key, s1.warp key with
  | some w, some w1 =>
    if w.status != .exited && w1.status == .exited then (s1.ashExit w1.team w1.half (halfIndex w1) (subOf key)).dropLatched w1.team else s1
  | _, _ => s1

/-- The first paired operation of a context that is ready (12 R321). -/
def State.pairedReady (s : State) (ax : Nat) : Option AshOp :=
  (s.ash ax).ops.find? (fun o => o.isArray && o.pair && s.opReady (s.ash ax) o)

/-- The B operand of an operation as the latch keeps it. -/
def AshCtx.image (c : AshCtx) (o : AshOp) : LatchImg :=
  { word := o.tb
    rows := (c.tiles.filter (fun e => e.1 / 4096 == o.b)).map (fun e => (e.1 % 4096, e.2))
    psn := (c.tpsn.filter (fun e => e.1 / 128 == o.b)).map (fun e => (e.1 % 128, e.2))
    scales := (c.scales.filter (fun e => e.1 / 256 == o.b)).map (fun e => (e.1 % 256, e.2))
    epsn := sget false c.epsn o.b }

/-- 12 R321: a ready paired operation of a core takes the empty latch. -/
def execLatchHold (core : Nat) (s : State) : Host.Outcome State Fault Refusal :=
  .next <|
    match s.latch core with
    | .empty =>
      (match [2 * core, 2 * core + 1].findSome? (fun ax => (s.pairedReady ax).map (fun o => (ax, o))) with
      | some (ax, o) =>
        let s1 := s.setLatch core (.held ax o.id ((s.ash ax).image o) 0)
        (match (s.ash ax).team with
        | some tk => s1.dropLatched tk
        | none => s1)
      | none => s)
    | _ => s

/-- The match of 12 R322. -/
def latchMatch (a b : AshOp) : Bool :=
  let n := tcRows a.tb + tcRows b.tb
  a.kind == b.kind && awN a.aw == n && awN b.aw == n
    && [a, b].all (fun x => fmtPair (tcFmt x.ta) (tcFmt a.tb) && fmtPair (tcFmt x.ta) (tcFmt b.tb)
      && tcK x.ta == tcK a.tb && tcK x.ta == tcK b.tb)

/-- Drops an operation from a context's queue. -/
def State.dropOp (s : State) (ax id : Nat) : State :=
  s.setAsh ax { s.ash ax with ops := (s.ash ax).ops.filter (fun o => o.id != id) }

/-- The lower core of a pair by its number 0 to 95. -/
def pairCore (pr : Nat) : Nat := pr % 16 + 32 * (pr / 16)

/-- 12 R321, R322: the partner's paired operation becomes ready: the halves join, or do not match. -/
def execLatchJoin (pr : Nat) (s : State) : Host.Outcome State Fault Refusal :=
  .next <|
    let core := pairCore pr
    match s.latch core with
    | .held ax id img _ =>
      let h := s.ash ax
      (match h.team, h.ops.find? (fun o => o.id == id) with
      | some tk, some o =>
        let pc := partner (ax / 2)
        (match [2 * pc, 2 * pc + 1].find? (fun x => (s.ash x).team == some tk) with
        | none => s
        | some bx =>
          match s.pairedReady bx with
          | none => s
          | some p =>
            if latchMatch o p then
              let pi := (s.ash bx).image p
              s.setLatch core (if h.half = 0 then .joined ax id bx p.id img pi false false else .joined bx p.id ax id pi img false false)
            else (((s.setLatch core .empty).dropOp ax id).dropOp bx p.id).gangFault tk 1)
      | _, _ => s.setLatch core .empty)
    | _ => s

/-- 12 R321, R322: 2^20 clk of residency have passed: below 96 the latch of a pair, from 96 an unmatched arrival of an Ashlar
context, which alone is dropped. -/
def execRendezvousTimeout (pr : Nat) (s : State) : Host.Outcome State Fault Refusal :=
  .next <|
    if pr < 96 then
      match s.latch (pairCore pr) with
      | .held ax id _ n =>
        if n < 2 ^ 20 then s
        else match (s.ash ax).team with
          | some tk => ((s.setLatch (pairCore pr) .empty).dropOp ax id).gangFault tk 0
          | none => s.setLatch (pairCore pr) .empty
      | _ => s
    else
      let ax := pr - 96
      let c := s.ash ax
      match c.team with
      | some tk => (match c.arrivals.find? (fun a => decide (2 ^ 20 ≤ a.held)) with
        | some a => (s.setAsh ax { c with arrivals := c.arrivals.filter (fun e => e.warp != a.warp) }).gangFault tk 0
        | none => s)
      | none => s

end Sys2Proof.Machine
end

