-- ==== Sys2Proof/WellFormed.lean ====
section
/-! DEFINITION. WellFormed: the field values an encoded instruction may carry (07 R183, R187, R189-R192, R194 checks
1 to 3). An event has no word and is well formed as it stands. -/
namespace Sys2Proof

/-- The fields fit their places and hold no value that checks 1 to 3 of R194 reject. -/
def Instr.WellFormed : Instr → Prop
  | .nop => True
  | .exit => True
  | .trap c => c < 64
  | .bkpt t => t < 64
  | .srd d s => d < 128 ∧ s < 64
  | .swr a s => a < 128 ∧ s < 64
  | .clk d s => d < 128 ∧ s < 64
  | .yield c => c < 64
  | .spin => True
  | .hint h => h < 64
  | .timer a => a < 128
  | .idem e => e < 64
  | .mode m => m < 65536
  | .modex s => s < 128
  | .bra v p o => v < 2 ∧ p < 8 ∧ o < 4194304
  | .call f o => f < 64 ∧ o < 1048576
  | .brx a => a < 128
  | .callx a f => a < 128 ∧ f < 64
  | .ret => True
  | .join => True
  | .await a n => a < 128 ∧ n < 64
  | .spawn d a => d < 128 ∧ a < 128
  | .tsignal a => a < 128
  | .tcond v a => v < 128 ∧ a < 128
  | .movi n d i => n < 2 ∧ d < 128 ∧ i < 262144 ∧ (n = 1 → d = 0)
  | .movhi d i => d < 128 ∧ i < 16384
  | .add n d a b => n < 2 ∧ d < 128 ∧ a < 128 ∧ b < 128 ∧ (n = 1 → d = 0)
  | .sub n d a b => n < 2 ∧ d < 128 ∧ a < 128 ∧ b < 128 ∧ (n = 1 → d = 0)
  | .mul n d a b => n < 2 ∧ d < 128 ∧ a < 128 ∧ b < 128 ∧ (n = 1 → d = 0)
  | .mulhi n d a b => n < 2 ∧ d < 128 ∧ a < 128 ∧ b < 128 ∧ (n = 1 → d = 0)
  | .min n d a b => n < 2 ∧ d < 128 ∧ a < 128 ∧ b < 128 ∧ (n = 1 → d = 0)
  | .max n d a b => n < 2 ∧ d < 128 ∧ a < 128 ∧ b < 128 ∧ (n = 1 → d = 0)
  | .abs n d a => n < 2 ∧ d < 128 ∧ a < 128 ∧ (n = 1 → d = 0)
  | .neg n d a => n < 2 ∧ d < 128 ∧ a < 128 ∧ (n = 1 → d = 0)
  | .scale n d a b => n < 2 ∧ d < 128 ∧ a < 128 ∧ b < 128 ∧ (n = 1 → d = 0)
  | .copysign n d a b => n < 2 ∧ d < 128 ∧ a < 128 ∧ b < 128 ∧ (n = 1 → d = 0)
  | .getexp n d a => n < 2 ∧ d < 128 ∧ a < 128 ∧ (n = 1 → d = 0)
  | .cmp d a b c => d < 8 ∧ a < 128 ∧ b < 128 ∧ c < 16 ∧ c ≤ 13
  | .classOf d a b => d < 8 ∧ a < 128 ∧ b < 128
  | .fma n d a b => n < 2 ∧ d < 128 ∧ a < 128 ∧ b < 128
  | .fms n d a b => n < 2 ∧ d < 128 ∧ a < 128 ∧ b < 128
  | .fnma n d a b => n < 2 ∧ d < 128 ∧ a < 128 ∧ b < 128
  | .fnms n d a b => n < 2 ∧ d < 128 ∧ a < 128 ∧ b < 128
  | .rcp n d a => n < 2 ∧ d < 128 ∧ a < 128 ∧ (n = 1 → d = 0)
  | .rsq n d a => n < 2 ∧ d < 128 ∧ a < 128 ∧ (n = 1 → d = 0)
  | .sqrt n d a => n < 2 ∧ d < 128 ∧ a < 128 ∧ (n = 1 → d = 0)
  | .ex2 n d a => n < 2 ∧ d < 128 ∧ a < 128 ∧ (n = 1 → d = 0)
  | .lg2 n d a => n < 2 ∧ d < 128 ∧ a < 128 ∧ (n = 1 → d = 0)
  | .sin n d a => n < 2 ∧ d < 128 ∧ a < 128 ∧ (n = 1 → d = 0)
  | .cos n d a => n < 2 ∧ d < 128 ∧ a < 128 ∧ (n = 1 → d = 0)
  | .tanh n d a => n < 2 ∧ d < 128 ∧ a < 128 ∧ (n = 1 → d = 0)
  | .frc n d a => n < 2 ∧ d < 128 ∧ a < 128 ∧ (n = 1 → d = 0)
  | .flr n d a => n < 2 ∧ d < 128 ∧ a < 128 ∧ (n = 1 → d = 0)
  | .ceil n d a => n < 2 ∧ d < 128 ∧ a < 128 ∧ (n = 1 → d = 0)
  | .rnd n d a => n < 2 ∧ d < 128 ∧ a < 128 ∧ (n = 1 → d = 0)
  | .trunc n d a => n < 2 ∧ d < 128 ∧ a < 128 ∧ (n = 1 → d = 0)
  | .cvt n d a b t => n < 2 ∧ d < 128 ∧ a < 128 ∧ b < 128 ∧ t < 16 ∧ (n = 1 → d = 0) ∧ t ≤ 10
  | .pack2 n d a b => n < 2 ∧ d < 128 ∧ a < 128 ∧ b < 128 ∧ (n = 1 → d = 0)
  | .pack4 n d a b => n < 2 ∧ d < 128 ∧ a < 128 ∧ b < 128
  | .unpacklo n d a => n < 2 ∧ d < 128 ∧ a < 128 ∧ (n = 1 → d = 0)
  | .unpackhi n d a => n < 2 ∧ d < 128 ∧ a < 128 ∧ (n = 1 → d = 0)
  | .dot2 n d a b => n < 2 ∧ d < 128 ∧ a < 128 ∧ b < 128
  | .dot4 n d a b => n < 2 ∧ d < 128 ∧ a < 128 ∧ b < 128
  | .addW n d a b => n < 2 ∧ d < 128 ∧ a < 128 ∧ b < 128 ∧ (n = 1 → d = 0)
  | .subW n d a b => n < 2 ∧ d < 128 ∧ a < 128 ∧ b < 128 ∧ (n = 1 → d = 0)
  | .mulW n d a b => n < 2 ∧ d < 128 ∧ a < 128 ∧ b < 128 ∧ (n = 1 → d = 0)
  | .mulhiW n d a b => n < 2 ∧ d < 128 ∧ a < 128 ∧ b < 128 ∧ (n = 1 → d = 0)
  | .mulhuW n d a b => n < 2 ∧ d < 128 ∧ a < 128 ∧ b < 128 ∧ (n = 1 → d = 0)
  | .minW n d a b => n < 2 ∧ d < 128 ∧ a < 128 ∧ b < 128 ∧ (n = 1 → d = 0)
  | .maxW n d a b => n < 2 ∧ d < 128 ∧ a < 128 ∧ b < 128 ∧ (n = 1 → d = 0)
  | .minuW n d a b => n < 2 ∧ d < 128 ∧ a < 128 ∧ b < 128 ∧ (n = 1 → d = 0)
  | .maxuW n d a b => n < 2 ∧ d < 128 ∧ a < 128 ∧ b < 128 ∧ (n = 1 → d = 0)
  | .lea n d a b k => n < 2 ∧ d < 128 ∧ a < 128 ∧ b < 128 ∧ k < 16 ∧ (n = 1 → d = 0) ∧ 9 ≤ k ∧ k ≤ 13
  | .madW n d a b => n < 2 ∧ d < 128 ∧ a < 128 ∧ b < 128
  | .addiW n d a i => n < 2 ∧ d < 128 ∧ a < 128 ∧ i < 2048 ∧ (n = 1 → d = 0)
  | .and n d a b => n < 2 ∧ d < 128 ∧ a < 128 ∧ b < 128 ∧ (n = 1 → d = 0)
  | .or n d a b => n < 2 ∧ d < 128 ∧ a < 128 ∧ b < 128 ∧ (n = 1 → d = 0)
  | .xor n d a b => n < 2 ∧ d < 128 ∧ a < 128 ∧ b < 128 ∧ (n = 1 → d = 0)
  | .andn n d a b => n < 2 ∧ d < 128 ∧ a < 128 ∧ b < 128 ∧ (n = 1 → d = 0)
  | .shl n d a b => n < 2 ∧ d < 128 ∧ a < 128 ∧ b < 128 ∧ (n = 1 → d = 0)
  | .shr n d a b => n < 2 ∧ d < 128 ∧ a < 128 ∧ b < 128 ∧ (n = 1 → d = 0)
  | .shra n d a b => n < 2 ∧ d < 128 ∧ a < 128 ∧ b < 128 ∧ (n = 1 → d = 0)
  | .rol n d a b => n < 2 ∧ d < 128 ∧ a < 128 ∧ b < 128 ∧ (n = 1 → d = 0)
  | .popc n d a => n < 2 ∧ d < 128 ∧ a < 128 ∧ (n = 1 → d = 0)
  | .clz n d a => n < 2 ∧ d < 128 ∧ a < 128 ∧ (n = 1 → d = 0)
  | .brev n d a => n < 2 ∧ d < 128 ∧ a < 128 ∧ (n = 1 → d = 0)
  | .prmt n d a b => n < 2 ∧ d < 128 ∧ a < 128 ∧ b < 128 ∧ (n = 1 → d = 0)
  | .bfe n d a b => n < 2 ∧ d < 128 ∧ a < 128 ∧ b < 128 ∧ (n = 1 → d = 0)
  | .mov n d a => n < 2 ∧ d < 128 ∧ a < 128 ∧ (n = 1 → d = 0)
  | .andi n d a i => n < 2 ∧ d < 128 ∧ a < 128 ∧ i < 2048 ∧ (n = 1 → d = 0)
  | .ori n d a i => n < 2 ∧ d < 128 ∧ a < 128 ∧ i < 2048 ∧ (n = 1 → d = 0)
  | .xori n d a i => n < 2 ∧ d < 128 ∧ a < 128 ∧ i < 2048 ∧ (n = 1 → d = 0)
  | .shli n d a c => n < 2 ∧ d < 128 ∧ a < 128 ∧ c < 32 ∧ (n = 1 → d = 0)
  | .shri n d a c => n < 2 ∧ d < 128 ∧ a < 128 ∧ c < 32 ∧ (n = 1 → d = 0)
  | .shrai n d a c => n < 2 ∧ d < 128 ∧ a < 128 ∧ c < 32 ∧ (n = 1 → d = 0)
  | .bfi n d a b => n < 2 ∧ d < 128 ∧ a < 128 ∧ b < 128
  | .sel n d a b v p => n < 2 ∧ d < 128 ∧ a < 128 ∧ b < 128 ∧ v < 2 ∧ p < 8 ∧ (n = 1 → d = 0)
  | .cmpW d a b c => d < 8 ∧ a < 128 ∧ b < 128 ∧ c < 16 ∧ c ≤ 9
  | .pand d a b => d < 8 ∧ a < 16 ∧ b < 16
  | .por d a b => d < 8 ∧ a < 16 ∧ b < 16
  | .pxor d a b => d < 8 ∧ a < 16 ∧ b < 16
  | .pnot d a => d < 8 ∧ a < 16
  | .pmovs n d => n < 2 ∧ d < 128 ∧ (n = 1 → d = 0)
  | .pmovp a b => a < 128 ∧ b < 128
  | .ballot n d a k => n < 2 ∧ d < 128 ∧ a < 128 ∧ k < 128 ∧ (n = 1 → d = 0)
  | .vany d a => d < 8 ∧ a < 128
  | .vall d a => d < 8 ∧ a < 128
  | .shflIdx n d a b => n < 2 ∧ d < 128 ∧ a < 128 ∧ b < 128 ∧ (n = 1 → d = 0)
  | .shflUp n d a b => n < 2 ∧ d < 128 ∧ a < 128 ∧ b < 128 ∧ (n = 1 → d = 0)
  | .shflDn n d a b => n < 2 ∧ d < 128 ∧ a < 128 ∧ b < 128 ∧ (n = 1 → d = 0)
  | .shflXor n d a b => n < 2 ∧ d < 128 ∧ a < 128 ∧ b < 128 ∧ (n = 1 → d = 0)
  | .elect d => d < 8
  | .readlane n d a k => n < 2 ∧ d < 128 ∧ a < 128 ∧ k < 128 ∧ (n = 1 → d = 0)
  | .bcast n d a => n < 2 ∧ d < 128 ∧ a < 128 ∧ (n = 1 → d = 0)
  | .match n d a k => n < 2 ∧ d < 128 ∧ a < 128 ∧ k < 128 ∧ (n = 1 → d = 0)
  | .wreduceAdd n d a => n < 2 ∧ d < 128 ∧ a < 128 ∧ (n = 1 → d = 0)
  | .wreduceMin n d a => n < 2 ∧ d < 128 ∧ a < 128 ∧ (n = 1 → d = 0)
  | .wreduceMax n d a => n < 2 ∧ d < 128 ∧ a < 128 ∧ (n = 1 → d = 0)
  | .ld d a o z => d < 128 ∧ a < 128 ∧ o < 32 ∧ z < 8 ∧ z ≤ 4
  | .st d a o z => d < 128 ∧ a < 128 ∧ o < 32 ∧ z < 8 ∧ z ≤ 4
  | .ldaq d a o z c => d < 128 ∧ a < 128 ∧ o < 32 ∧ z < 8 ∧ c < 8 ∧ z ≤ 4 ∧ c ≤ 4
  | .strl d a o z c => d < 128 ∧ a < 128 ∧ o < 32 ∧ z < 8 ∧ c < 8 ∧ z ≤ 4 ∧ c ≤ 4
  | .atomDv d a b o => d < 128 ∧ a < 128 ∧ b < 128 ∧ o < 16
  | .atomTm d a b o => d < 128 ∧ a < 128 ∧ b < 128 ∧ o < 16
  | .redDv a b o => a < 128 ∧ b < 128 ∧ o < 16 ∧ o ≠ 8 ∧ o ≠ 9
  | .redTm a b o => a < 128 ∧ b < 128 ∧ o < 16 ∧ o ≠ 8 ∧ o ≠ 9
  | .waitc a => a < 128
  | .fence s => s < 32 ∧ s ≤ 4
  | .pchk p q => p < 8 ∧ q < 128
  | .binit q s => q < 128 ∧ s < 128
  | .announceIn q s => q < 128 ∧ s < 128
  | .announceOut q s => q < 128 ∧ s < 128
  | .arrive p q => p < 128 ∧ q < 128
  | .bwait p q s => p < 128 ∧ q < 128 ∧ s < 128
  | .btest p q s => p < 8 ∧ q < 128 ∧ s < 128
  | .semwaitDraw p q => p < 128 ∧ q < 128
  | .semwait q s => q < 128 ∧ s < 128
  | .sempost q s => q < 128 ∧ s < 128
  | .rpushRsv p q => p < 128 ∧ q < 128
  | .rpushPub q s => q < 128 ∧ s < 128 ∧ s ≠ 0
  | .rpopTake p q => p < 128 ∧ q < 128
  | .rpopFree q s => q < 128 ∧ s < 128 ∧ s ≠ 0
  | .rpeek p q => p < 128 ∧ q < 128
  | .hcopy p q => p < 128 ∧ q < 128
  | .hcopys p q => p < 128 ∧ q < 128
  | .hgather p q => p < 128 ∧ q < 128
  | .hscatter p q => p < 128 ∧ q < 128
  | .hstage p q => p < 128 ∧ q < 128
  | .hevict p q => p < 128 ∧ q < 128
  | .hfill p q => p < 128 ∧ q < 128
  | .hmeta p q => p < 128 ∧ q < 128
  | .hquery p q => p < 128 ∧ q < 128
  | .hldr p q z => p < 128 ∧ q < 128 ∧ z < 8
  | .rring p q => p < 128 ∧ q < 128
  | .rtree p q => p < 128 ∧ q < 128
  | .rstat p q => p < 128 ∧ q < 128
  | .tctl t q => t < 16 ∧ q < 128
  | .trdc p k i => p < 128 ∧ k < 4 ∧ i < 16
  | .tzero t => t < 16
  | .tscl t q => t < 16 ∧ q < 128
  | .gang q => q < 128
  | .tld t q s => t < 16 ∧ q < 128 ∧ s < 128
  | .tst t q s => t < 16 ∧ q < 128 ∧ s < 128
  | .mma d a p b => d < 8 ∧ a < 16 ∧ p < 2 ∧ b < 16
  | .mmas k d a p b => k < 4 ∧ d < 8 ∧ a < 16 ∧ p < 2 ∧ b < 16
  | .azero d q => d < 8 ∧ q < 128
  | .adrain z d q s => z < 2 ∧ d < 8 ∧ q < 128 ∧ s < 128
  | .aread p q d => p < 128 ∧ q < 128 ∧ d < 8
  | .awrite p q d => p < 128 ∧ q < 128 ∧ d < 8
  | .tex p q s => p < 128 ∧ q < 128 ∧ s < 128
  | .texb p q s => p < 128 ∧ q < 128 ∧ s < 128
  | .texq p q s => p < 128 ∧ q < 128 ∧ s < 128
  | .hgf p q s => p < 128 ∧ q < 128 ∧ s < 128
  | .hgsFast p q s => p < 128 ∧ q < 128 ∧ s < 128
  | .hgsExact p q s => p < 128 ∧ q < 128 ∧ s < 128
  | .trace q s => q < 128 ∧ s < 128
  | .rsort p q s => p < 128 ∧ q < 128 ∧ s < 128
  | .hitget p q => p < 128 ∧ q < 128
  | .emitv p q s => p < 128 ∧ q < 128 ∧ s < 128
  | .emitp p s => p < 128 ∧ s < 128
  | .msetc p q s => p < 128 ∧ q < 128 ∧ s < 128
  | .discard => True
  | .srate q => q < 128
  | .fqpop p q => p < 128 ∧ q < 128
  | .finfo p q s => p < 128 ∧ q < 128 ∧ s < 128
  | .fresume p q s => p < 128 ∧ q < 128 ∧ s < 128
  | .fkill p q => p < 128 ∧ q < 128
  | .memoryWriteback _ => True
  | .attemptUrgent _ => True
  | .warpRelease _ => True
  | .frameMoveDone _ _ => True
  | .monitorWake _ => True
  | .monitorRecheck _ _ => True
  | .deadline _ => True
  | .yieldExpiry _ _ => True
  | .ticketAnswer _ _ => True
  | .fragDelivery _ _ => True
  | .hldrDelivery _ _ => True
  | .textureSegmentAttempt _ _ => True
  | .traceComplete _ _ => True
  | .hodRecordRead _ _ => True
  | .hodCommandStart _ => True
  | .hodUnitRead _ _ => True
  | .hodUnitWrite _ _ => True
  | .pageWalk _ _ => True
  | .evictWaitEnd _ _ => True
  | .hodCommandComplete _ _ => True
  | .repairComplete _ _ => True
  | .lpddrAccessStart _ _ => True
  | .refreshSlotDue _ => True
  | .perBankRefresh _ => True
  | .allBankRefresh _ => True
  | .refreshRatePoll _ _ => True
  | .lpddrScrub _ => True
  | .patrolScrub _ => True
  | .hostApertureRead _ _ => True
  | .hostApertureWrite _ _ _ _ => True
  | .registerWrite _ _ => True
  | .ticketsWrite _ _ => True
  | .tbStep => True
  | .tbIncWrite _ => True
  | .ppsCapture => True
  | .refLockLoss => True
  | .launchAccept _ => True
  | .distributorDecision => True
  | .teamStart _ => True
  | .launchComplete _ => True
  | .graphPlace _ => True
  | .traverseNodeDone _ _ => True
  | .condRecheck _ _ => True
  | .waittimeExpiry _ _ => True
  | .frameStart _ => True
  | .meshletHandoff _ => True
  | .binNodeComplete _ => True
  | .binNodeLate _ => True
  | .plumbReserve _ => True
  | .chainRelease _ => True
  | .nodeSlotFree _ => True
  | .chainNodeDone _ _ => True
  | .chainLate _ => True
  | .pixelWarpLaunch _ => True
  | .fragmentCommit _ => True
  | .stripConsumerTake _ _ => True
  | .lineScan _ => True
  | .obuWrite _ _ => True
  | .latchHold _ => True
  | .latchJoin _ => True
  | .rendezvousTimeout _ => True
  | .ashlarOpStart _ => True
  | .ashlarOpComplete _ => True
  | .areadDelivery _ _ => True
  | .faultRecordWrite _ => True
  | .handlerLaunchStart _ => True
  | .teamSave _ => True
  | .teamResume _ _ => True
  | .teamDiscard _ => True
  | .protectRelease _ => True
  | .segCommitDone _ => True
  | .shootdownDone _ => True
  | .peerRequest _ _ _ _ => True
  | .chunkMessage _ _ _ => True
  | .chunkComplete _ _ => True
  | .portDown _ => True
  | .portUp _ => True
  | .dpHotplug _ _ => True
  | .sensorSample _ _ _ => True
  | .forceClear _ => True
  | .lowRailIdle _ => True
  | .railSwitch _ _ => True
  | .marginStep _ _ => True
  | .powerUp => True
  | .wipeComplete => True
  | .fwgo => True
  | .fwVerifyDone => True
  | .ctxCreate => True
  | .ctxDestroy => True
  | .segCommit => True
  | .shootdown => True
  | .hwinSet => True
  | .exportSet => True
  | .routeSet => True
  | .hodPlace => True
  | .ringSet => True
  | .pipeSet => True
  | .pipeEnable => True
  | .pipeDisable => True
  | .resume => True
  | .kill => True
  | .pswap => True
  | .margin => True
  | .lifecycle => True
  | .dpTrain => True
  | .auxXfer => True
  | .attest => True
  | .reductionCommandStart _ => True
  | .refLockGained => True
  | .memberStopsAnswering _ _ => True

/-- Well-formedness as a test. -/
def Instr.wellFormed : Instr → Bool
  | .nop => true
  | .exit => true
  | .trap c => decide (c < 64)
  | .bkpt t => decide (t < 64)
  | .srd d s => decide (d < 128 ∧ s < 64)
  | .swr a s => decide (a < 128 ∧ s < 64)
  | .clk d s => decide (d < 128 ∧ s < 64)
  | .yield c => decide (c < 64)
  | .spin => true
  | .hint h => decide (h < 64)
  | .timer a => decide (a < 128)
  | .idem e => decide (e < 64)
  | .mode m => decide (m < 65536)
  | .modex s => decide (s < 128)
  | .bra v p o => decide (v < 2 ∧ p < 8 ∧ o < 4194304)
  | .call f o => decide (f < 64 ∧ o < 1048576)
  | .brx a => decide (a < 128)
  | .callx a f => decide (a < 128 ∧ f < 64)
  | .ret => true
  | .join => true
  | .await a n => decide (a < 128 ∧ n < 64)
  | .spawn d a => decide (d < 128 ∧ a < 128)
  | .tsignal a => decide (a < 128)
  | .tcond v a => decide (v < 128 ∧ a < 128)
  | .movi n d i => decide (n < 2 ∧ d < 128 ∧ i < 262144 ∧ (n = 1 → d = 0))
  | .movhi d i => decide (d < 128 ∧ i < 16384)
  | .add n d a b => decide (n < 2 ∧ d < 128 ∧ a < 128 ∧ b < 128 ∧ (n = 1 → d = 0))
  | .sub n d a b => decide (n < 2 ∧ d < 128 ∧ a < 128 ∧ b < 128 ∧ (n = 1 → d = 0))
  | .mul n d a b => decide (n < 2 ∧ d < 128 ∧ a < 128 ∧ b < 128 ∧ (n = 1 → d = 0))
  | .mulhi n d a b => decide (n < 2 ∧ d < 128 ∧ a < 128 ∧ b < 128 ∧ (n = 1 → d = 0))
  | .min n d a b => decide (n < 2 ∧ d < 128 ∧ a < 128 ∧ b < 128 ∧ (n = 1 → d = 0))
  | .max n d a b => decide (n < 2 ∧ d < 128 ∧ a < 128 ∧ b < 128 ∧ (n = 1 → d = 0))
  | .abs n d a => decide (n < 2 ∧ d < 128 ∧ a < 128 ∧ (n = 1 → d = 0))
  | .neg n d a => decide (n < 2 ∧ d < 128 ∧ a < 128 ∧ (n = 1 → d = 0))
  | .scale n d a b => decide (n < 2 ∧ d < 128 ∧ a < 128 ∧ b < 128 ∧ (n = 1 → d = 0))
  | .copysign n d a b => decide (n < 2 ∧ d < 128 ∧ a < 128 ∧ b < 128 ∧ (n = 1 → d = 0))
  | .getexp n d a => decide (n < 2 ∧ d < 128 ∧ a < 128 ∧ (n = 1 → d = 0))
  | .cmp d a b c => decide (d < 8 ∧ a < 128 ∧ b < 128 ∧ c < 16 ∧ c ≤ 13)
  | .classOf d a b => decide (d < 8 ∧ a < 128 ∧ b < 128)
  | .fma n d a b => decide (n < 2 ∧ d < 128 ∧ a < 128 ∧ b < 128)
  | .fms n d a b => decide (n < 2 ∧ d < 128 ∧ a < 128 ∧ b < 128)
  | .fnma n d a b => decide (n < 2 ∧ d < 128 ∧ a < 128 ∧ b < 128)
  | .fnms n d a b => decide (n < 2 ∧ d < 128 ∧ a < 128 ∧ b < 128)
  | .rcp n d a => decide (n < 2 ∧ d < 128 ∧ a < 128 ∧ (n = 1 → d = 0))
  | .rsq n d a => decide (n < 2 ∧ d < 128 ∧ a < 128 ∧ (n = 1 → d = 0))
  | .sqrt n d a => decide (n < 2 ∧ d < 128 ∧ a < 128 ∧ (n = 1 → d = 0))
  | .ex2 n d a => decide (n < 2 ∧ d < 128 ∧ a < 128 ∧ (n = 1 → d = 0))
  | .lg2 n d a => decide (n < 2 ∧ d < 128 ∧ a < 128 ∧ (n = 1 → d = 0))
  | .sin n d a => decide (n < 2 ∧ d < 128 ∧ a < 128 ∧ (n = 1 → d = 0))
  | .cos n d a => decide (n < 2 ∧ d < 128 ∧ a < 128 ∧ (n = 1 → d = 0))
  | .tanh n d a => decide (n < 2 ∧ d < 128 ∧ a < 128 ∧ (n = 1 → d = 0))
  | .frc n d a => decide (n < 2 ∧ d < 128 ∧ a < 128 ∧ (n = 1 → d = 0))
  | .flr n d a => decide (n < 2 ∧ d < 128 ∧ a < 128 ∧ (n = 1 → d = 0))
  | .ceil n d a => decide (n < 2 ∧ d < 128 ∧ a < 128 ∧ (n = 1 → d = 0))
  | .rnd n d a => decide (n < 2 ∧ d < 128 ∧ a < 128 ∧ (n = 1 → d = 0))
  | .trunc n d a => decide (n < 2 ∧ d < 128 ∧ a < 128 ∧ (n = 1 → d = 0))
  | .cvt n d a b t => decide (n < 2 ∧ d < 128 ∧ a < 128 ∧ b < 128 ∧ t < 16 ∧ (n = 1 → d = 0) ∧ t ≤ 10)
  | .pack2 n d a b => decide (n < 2 ∧ d < 128 ∧ a < 128 ∧ b < 128 ∧ (n = 1 → d = 0))
  | .pack4 n d a b => decide (n < 2 ∧ d < 128 ∧ a < 128 ∧ b < 128)
  | .unpacklo n d a => decide (n < 2 ∧ d < 128 ∧ a < 128 ∧ (n = 1 → d = 0))
  | .unpackhi n d a => decide (n < 2 ∧ d < 128 ∧ a < 128 ∧ (n = 1 → d = 0))
  | .dot2 n d a b => decide (n < 2 ∧ d < 128 ∧ a < 128 ∧ b < 128)
  | .dot4 n d a b => decide (n < 2 ∧ d < 128 ∧ a < 128 ∧ b < 128)
  | .addW n d a b => decide (n < 2 ∧ d < 128 ∧ a < 128 ∧ b < 128 ∧ (n = 1 → d = 0))
  | .subW n d a b => decide (n < 2 ∧ d < 128 ∧ a < 128 ∧ b < 128 ∧ (n = 1 → d = 0))
  | .mulW n d a b => decide (n < 2 ∧ d < 128 ∧ a < 128 ∧ b < 128 ∧ (n = 1 → d = 0))
  | .mulhiW n d a b => decide (n < 2 ∧ d < 128 ∧ a < 128 ∧ b < 128 ∧ (n = 1 → d = 0))
  | .mulhuW n d a b => decide (n < 2 ∧ d < 128 ∧ a < 128 ∧ b < 128 ∧ (n = 1 → d = 0))
  | .minW n d a b => decide (n < 2 ∧ d < 128 ∧ a < 128 ∧ b < 128 ∧ (n = 1 → d = 0))
  | .maxW n d a b => decide (n < 2 ∧ d < 128 ∧ a < 128 ∧ b < 128 ∧ (n = 1 → d = 0))
  | .minuW n d a b => decide (n < 2 ∧ d < 128 ∧ a < 128 ∧ b < 128 ∧ (n = 1 → d = 0))
  | .maxuW n d a b => decide (n < 2 ∧ d < 128 ∧ a < 128 ∧ b < 128 ∧ (n = 1 → d = 0))
  | .lea n d a b k => decide (n < 2 ∧ d < 128 ∧ a < 128 ∧ b < 128 ∧ k < 16 ∧ (n = 1 → d = 0) ∧ 9 ≤ k ∧ k ≤ 13)
  | .madW n d a b => decide (n < 2 ∧ d < 128 ∧ a < 128 ∧ b < 128)
  | .addiW n d a i => decide (n < 2 ∧ d < 128 ∧ a < 128 ∧ i < 2048 ∧ (n = 1 → d = 0))
  | .and n d a b => decide (n < 2 ∧ d < 128 ∧ a < 128 ∧ b < 128 ∧ (n = 1 → d = 0))
  | .or n d a b => decide (n < 2 ∧ d < 128 ∧ a < 128 ∧ b < 128 ∧ (n = 1 → d = 0))
  | .xor n d a b => decide (n < 2 ∧ d < 128 ∧ a < 128 ∧ b < 128 ∧ (n = 1 → d = 0))
  | .andn n d a b => decide (n < 2 ∧ d < 128 ∧ a < 128 ∧ b < 128 ∧ (n = 1 → d = 0))
  | .shl n d a b => decide (n < 2 ∧ d < 128 ∧ a < 128 ∧ b < 128 ∧ (n = 1 → d = 0))
  | .shr n d a b => decide (n < 2 ∧ d < 128 ∧ a < 128 ∧ b < 128 ∧ (n = 1 → d = 0))
  | .shra n d a b => decide (n < 2 ∧ d < 128 ∧ a < 128 ∧ b < 128 ∧ (n = 1 → d = 0))
  | .rol n d a b => decide (n < 2 ∧ d < 128 ∧ a < 128 ∧ b < 128 ∧ (n = 1 → d = 0))
  | .popc n d a => decide (n < 2 ∧ d < 128 ∧ a < 128 ∧ (n = 1 → d = 0))
  | .clz n d a => decide (n < 2 ∧ d < 128 ∧ a < 128 ∧ (n = 1 → d = 0))
  | .brev n d a => decide (n < 2 ∧ d < 128 ∧ a < 128 ∧ (n = 1 → d = 0))
  | .prmt n d a b => decide (n < 2 ∧ d < 128 ∧ a < 128 ∧ b < 128 ∧ (n = 1 → d = 0))
  | .bfe n d a b => decide (n < 2 ∧ d < 128 ∧ a < 128 ∧ b < 128 ∧ (n = 1 → d = 0))
  | .mov n d a => decide (n < 2 ∧ d < 128 ∧ a < 128 ∧ (n = 1 → d = 0))
  | .andi n d a i => decide (n < 2 ∧ d < 128 ∧ a < 128 ∧ i < 2048 ∧ (n = 1 → d = 0))
  | .ori n d a i => decide (n < 2 ∧ d < 128 ∧ a < 128 ∧ i < 2048 ∧ (n = 1 → d = 0))
  | .xori n d a i => decide (n < 2 ∧ d < 128 ∧ a < 128 ∧ i < 2048 ∧ (n = 1 → d = 0))
  | .shli n d a c => decide (n < 2 ∧ d < 128 ∧ a < 128 ∧ c < 32 ∧ (n = 1 → d = 0))
  | .shri n d a c => decide (n < 2 ∧ d < 128 ∧ a < 128 ∧ c < 32 ∧ (n = 1 → d = 0))
  | .shrai n d a c => decide (n < 2 ∧ d < 128 ∧ a < 128 ∧ c < 32 ∧ (n = 1 → d = 0))
  | .bfi n d a b => decide (n < 2 ∧ d < 128 ∧ a < 128 ∧ b < 128)
  | .sel n d a b v p => decide (n < 2 ∧ d < 128 ∧ a < 128 ∧ b < 128 ∧ v < 2 ∧ p < 8 ∧ (n = 1 → d = 0))
  | .cmpW d a b c => decide (d < 8 ∧ a < 128 ∧ b < 128 ∧ c < 16 ∧ c ≤ 9)
  | .pand d a b => decide (d < 8 ∧ a < 16 ∧ b < 16)
  | .por d a b => decide (d < 8 ∧ a < 16 ∧ b < 16)
  | .pxor d a b => decide (d < 8 ∧ a < 16 ∧ b < 16)
  | .pnot d a => decide (d < 8 ∧ a < 16)
  | .pmovs n d => decide (n < 2 ∧ d < 128 ∧ (n = 1 → d = 0))
  | .pmovp a b => decide (a < 128 ∧ b < 128)
  | .ballot n d a k => decide (n < 2 ∧ d < 128 ∧ a < 128 ∧ k < 128 ∧ (n = 1 → d = 0))
  | .vany d a => decide (d < 8 ∧ a < 128)
  | .vall d a => decide (d < 8 ∧ a < 128)
  | .shflIdx n d a b => decide (n < 2 ∧ d < 128 ∧ a < 128 ∧ b < 128 ∧ (n = 1 → d = 0))
  | .shflUp n d a b => decide (n < 2 ∧ d < 128 ∧ a < 128 ∧ b < 128 ∧ (n = 1 → d = 0))
  | .shflDn n d a b => decide (n < 2 ∧ d < 128 ∧ a < 128 ∧ b < 128 ∧ (n = 1 → d = 0))
  | .shflXor n d a b => decide (n < 2 ∧ d < 128 ∧ a < 128 ∧ b < 128 ∧ (n = 1 → d = 0))
  | .elect d => decide (d < 8)
  | .readlane n d a k => decide (n < 2 ∧ d < 128 ∧ a < 128 ∧ k < 128 ∧ (n = 1 → d = 0))
  | .bcast n d a => decide (n < 2 ∧ d < 128 ∧ a < 128 ∧ (n = 1 → d = 0))
  | .match n d a k => decide (n < 2 ∧ d < 128 ∧ a < 128 ∧ k < 128 ∧ (n = 1 → d = 0))
  | .wreduceAdd n d a => decide (n < 2 ∧ d < 128 ∧ a < 128 ∧ (n = 1 → d = 0))
  | .wreduceMin n d a => decide (n < 2 ∧ d < 128 ∧ a < 128 ∧ (n = 1 → d = 0))
  | .wreduceMax n d a => decide (n < 2 ∧ d < 128 ∧ a < 128 ∧ (n = 1 → d = 0))
  | .ld d a o z => decide (d < 128 ∧ a < 128 ∧ o < 32 ∧ z < 8 ∧ z ≤ 4)
  | .st d a o z => decide (d < 128 ∧ a < 128 ∧ o < 32 ∧ z < 8 ∧ z ≤ 4)
  | .ldaq d a o z c => decide (d < 128 ∧ a < 128 ∧ o < 32 ∧ z < 8 ∧ c < 8 ∧ z ≤ 4 ∧ c ≤ 4)
  | .strl d a o z c => decide (d < 128 ∧ a < 128 ∧ o < 32 ∧ z < 8 ∧ c < 8 ∧ z ≤ 4 ∧ c ≤ 4)
  | .atomDv d a b o => decide (d < 128 ∧ a < 128 ∧ b < 128 ∧ o < 16)
  | .atomTm d a b o => decide (d < 128 ∧ a < 128 ∧ b < 128 ∧ o < 16)
  | .redDv a b o => decide (a < 128 ∧ b < 128 ∧ o < 16 ∧ o ≠ 8 ∧ o ≠ 9)
  | .redTm a b o => decide (a < 128 ∧ b < 128 ∧ o < 16 ∧ o ≠ 8 ∧ o ≠ 9)
  | .waitc a => decide (a < 128)
  | .fence s => decide (s < 32 ∧ s ≤ 4)
  | .pchk p q => decide (p < 8 ∧ q < 128)
  | .binit q s => decide (q < 128 ∧ s < 128)
  | .announceIn q s => decide (q < 128 ∧ s < 128)
  | .announceOut q s => decide (q < 128 ∧ s < 128)
  | .arrive p q => decide (p < 128 ∧ q < 128)
  | .bwait p q s => decide (p < 128 ∧ q < 128 ∧ s < 128)
  | .btest p q s => decide (p < 8 ∧ q < 128 ∧ s < 128)
  | .semwaitDraw p q => decide (p < 128 ∧ q < 128)
  | .semwait q s => decide (q < 128 ∧ s < 128)
  | .sempost q s => decide (q < 128 ∧ s < 128)
  | .rpushRsv p q => decide (p < 128 ∧ q < 128)
  | .rpushPub q s => decide (q < 128 ∧ s < 128 ∧ s ≠ 0)
  | .rpopTake p q => decide (p < 128 ∧ q < 128)
  | .rpopFree q s => decide (q < 128 ∧ s < 128 ∧ s ≠ 0)
  | .rpeek p q => decide (p < 128 ∧ q < 128)
  | .hcopy p q => decide (p < 128 ∧ q < 128)
  | .hcopys p q => decide (p < 128 ∧ q < 128)
  | .hgather p q => decide (p < 128 ∧ q < 128)
  | .hscatter p q => decide (p < 128 ∧ q < 128)
  | .hstage p q => decide (p < 128 ∧ q < 128)
  | .hevict p q => decide (p < 128 ∧ q < 128)
  | .hfill p q => decide (p < 128 ∧ q < 128)
  | .hmeta p q => decide (p < 128 ∧ q < 128)
  | .hquery p q => decide (p < 128 ∧ q < 128)
  | .hldr p q z => decide (p < 128 ∧ q < 128 ∧ z < 8)
  | .rring p q => decide (p < 128 ∧ q < 128)
  | .rtree p q => decide (p < 128 ∧ q < 128)
  | .rstat p q => decide (p < 128 ∧ q < 128)
  | .tctl t q => decide (t < 16 ∧ q < 128)
  | .trdc p k i => decide (p < 128 ∧ k < 4 ∧ i < 16)
  | .tzero t => decide (t < 16)
  | .tscl t q => decide (t < 16 ∧ q < 128)
  | .gang q => decide (q < 128)
  | .tld t q s => decide (t < 16 ∧ q < 128 ∧ s < 128)
  | .tst t q s => decide (t < 16 ∧ q < 128 ∧ s < 128)
  | .mma d a p b => decide (d < 8 ∧ a < 16 ∧ p < 2 ∧ b < 16)
  | .mmas k d a p b => decide (k < 4 ∧ d < 8 ∧ a < 16 ∧ p < 2 ∧ b < 16)
  | .azero d q => decide (d < 8 ∧ q < 128)
  | .adrain z d q s => decide (z < 2 ∧ d < 8 ∧ q < 128 ∧ s < 128)
  | .aread p q d => decide (p < 128 ∧ q < 128 ∧ d < 8)
  | .awrite p q d => decide (p < 128 ∧ q < 128 ∧ d < 8)
  | .tex p q s => decide (p < 128 ∧ q < 128 ∧ s < 128)
  | .texb p q s => decide (p < 128 ∧ q < 128 ∧ s < 128)
  | .texq p q s => decide (p < 128 ∧ q < 128 ∧ s < 128)
  | .hgf p q s => decide (p < 128 ∧ q < 128 ∧ s < 128)
  | .hgsFast p q s => decide (p < 128 ∧ q < 128 ∧ s < 128)
  | .hgsExact p q s => decide (p < 128 ∧ q < 128 ∧ s < 128)
  | .trace q s => decide (q < 128 ∧ s < 128)
  | .rsort p q s => decide (p < 128 ∧ q < 128 ∧ s < 128)
  | .hitget p q => decide (p < 128 ∧ q < 128)
  | .emitv p q s => decide (p < 128 ∧ q < 128 ∧ s < 128)
  | .emitp p s => decide (p < 128 ∧ s < 128)
  | .msetc p q s => decide (p < 128 ∧ q < 128 ∧ s < 128)
  | .discard => true
  | .srate q => decide (q < 128)
  | .fqpop p q => decide (p < 128 ∧ q < 128)
  | .finfo p q s => decide (p < 128 ∧ q < 128 ∧ s < 128)
  | .fresume p q s => decide (p < 128 ∧ q < 128 ∧ s < 128)
  | .fkill p q => decide (p < 128 ∧ q < 128)
  | .memoryWriteback _ => true
  | .attemptUrgent _ => true
  | .warpRelease _ => true
  | .frameMoveDone _ _ => true
  | .monitorWake _ => true
  | .monitorRecheck _ _ => true
  | .deadline _ => true
  | .yieldExpiry _ _ => true
  | .ticketAnswer _ _ => true
  | .fragDelivery _ _ => true
  | .hldrDelivery _ _ => true
  | .textureSegmentAttempt _ _ => true
  | .traceComplete _ _ => true
  | .hodRecordRead _ _ => true
  | .hodCommandStart _ => true
  | .hodUnitRead _ _ => true
  | .hodUnitWrite _ _ => true
  | .pageWalk _ _ => true
  | .evictWaitEnd _ _ => true
  | .hodCommandComplete _ _ => true
  | .repairComplete _ _ => true
  | .lpddrAccessStart _ _ => true
  | .refreshSlotDue _ => true
  | .perBankRefresh _ => true
  | .allBankRefresh _ => true
  | .refreshRatePoll _ _ => true
  | .lpddrScrub _ => true
  | .patrolScrub _ => true
  | .hostApertureRead _ _ => true
  | .hostApertureWrite _ _ _ _ => true
  | .registerWrite _ _ => true
  | .ticketsWrite _ _ => true
  | .tbStep => true
  | .tbIncWrite _ => true
  | .ppsCapture => true
  | .refLockLoss => true
  | .launchAccept _ => true
  | .distributorDecision => true
  | .teamStart _ => true
  | .launchComplete _ => true
  | .graphPlace _ => true
  | .traverseNodeDone _ _ => true
  | .condRecheck _ _ => true
  | .waittimeExpiry _ _ => true
  | .frameStart _ => true
  | .meshletHandoff _ => true
  | .binNodeComplete _ => true
  | .binNodeLate _ => true
  | .plumbReserve _ => true
  | .chainRelease _ => true
  | .nodeSlotFree _ => true
  | .chainNodeDone _ _ => true
  | .chainLate _ => true
  | .pixelWarpLaunch _ => true
  | .fragmentCommit _ => true
  | .stripConsumerTake _ _ => true
  | .lineScan _ => true
  | .obuWrite _ _ => true
  | .latchHold _ => true
  | .latchJoin _ => true
  | .rendezvousTimeout _ => true
  | .ashlarOpStart _ => true
  | .ashlarOpComplete _ => true
  | .areadDelivery _ _ => true
  | .faultRecordWrite _ => true
  | .handlerLaunchStart _ => true
  | .teamSave _ => true
  | .teamResume _ _ => true
  | .teamDiscard _ => true
  | .protectRelease _ => true
  | .segCommitDone _ => true
  | .shootdownDone _ => true
  | .peerRequest _ _ _ _ => true
  | .chunkMessage _ _ _ => true
  | .chunkComplete _ _ => true
  | .portDown _ => true
  | .portUp _ => true
  | .dpHotplug _ _ => true
  | .sensorSample _ _ _ => true
  | .forceClear _ => true
  | .lowRailIdle _ => true
  | .railSwitch _ _ => true
  | .marginStep _ _ => true
  | .powerUp => true
  | .wipeComplete => true
  | .fwgo => true
  | .fwVerifyDone => true
  | .ctxCreate => true
  | .ctxDestroy => true
  | .segCommit => true
  | .shootdown => true
  | .hwinSet => true
  | .exportSet => true
  | .routeSet => true
  | .hodPlace => true
  | .ringSet => true
  | .pipeSet => true
  | .pipeEnable => true
  | .pipeDisable => true
  | .resume => true
  | .kill => true
  | .pswap => true
  | .margin => true
  | .lifecycle => true
  | .dpTrain => true
  | .auxXfer => true
  | .attest => true
  | .reductionCommandStart _ => true
  | .refLockGained => true
  | .memberStopsAnswering _ _ => true

end Sys2Proof
end

