-- ==== Sys2Proof/Decode.lean ====
section
/-! DEFINITION. Decode: the word of an instruction read as 07 R189-R194 give it (checks 1 to 3 of R194; the later checks
depend on the machine's state and stand with the meanings), and after it the encoder, written from the same tables. -/
namespace Sys2Proof

/-- Why a word is not an instruction: the first of checks 1 to 3 of R194 that fails. `redDest` is the nonzero `D` of a RED,
for which R283 names ILLEGAL_OPERAND instead of ILLEGAL_INSTRUCTION. `short` is fewer than four bytes. -/
inductive Reject where
  | major
  | minor
  | zeroField
  | redDest
  | short
deriving DecidableEq, Repr

/-- Bits [hi:lo] of a word, as a number (R5). -/
def fld (w hi lo : Nat) : Nat := w / 2 ^ lo % 2 ^ (hi + 1 - lo)

/-- Major 0x00 of R192. -/
def decodeMaj00 (w : Nat) : Except Reject Instr :=
  match fld w 25 20 with
  | 0 => if fld w 19 0 = 0 then .ok .nop else .error .zeroField
  | 1 => if fld w 19 0 = 0 then .ok .exit else .error .zeroField
  | 2 => if fld w 19 6 = 0 then .ok (.trap (fld w 5 0)) else .error .zeroField
  | 3 => if fld w 19 6 = 0 then .ok (.bkpt (fld w 5 0)) else .error .zeroField
  | 4 => if fld w 12 6 = 0 then .ok (.srd (fld w 19 13) (fld w 5 0)) else .error .zeroField
  | 5 => if fld w 19 13 = 0 then .ok (.swr (fld w 12 6) (fld w 5 0)) else .error .zeroField
  | 6 => if fld w 12 6 = 0 then .ok (.clk (fld w 19 13) (fld w 5 0)) else .error .zeroField
  | 7 => if fld w 19 6 = 0 then .ok (.yield (fld w 5 0)) else .error .zeroField
  | 8 => if fld w 19 0 = 0 then .ok .spin else .error .zeroField
  | 9 => if fld w 19 6 = 0 then .ok (.hint (fld w 5 0)) else .error .zeroField
  | 10 => if fld w 19 13 = 0 ∧ fld w 5 0 = 0 then .ok (.timer (fld w 12 6)) else .error .zeroField
  | 11 => if fld w 19 6 = 0 then .ok (.idem (fld w 5 0)) else .error .zeroField
  | _ => .error .minor

/-- Major 0x01 of R192. -/
def decodeMaj01 (w : Nat) : Except Reject Instr :=
  match fld w 17 16 with
  | 0 => if fld w 25 18 = 0 then .ok (.mode (fld w 15 0)) else .error .zeroField
  | 1 => if fld w 25 18 = 0 ∧ fld w 15 7 = 0 then .ok (.modex (fld w 6 0)) else .error .zeroField
  | _ => .error .minor

/-- Major 0x02 of R192. -/
def decodeMaj02 (w : Nat) : Except Reject Instr :=
  .ok (.bra (fld w 25 25) (fld w 24 22) (fld w 21 0))

/-- Major 0x03 of R192. -/
def decodeMaj03 (w : Nat) : Except Reject Instr :=
  .ok (.call (fld w 25 20) (fld w 19 0))

/-- Major 0x04 of R192. -/
def decodeMaj04 (w : Nat) : Except Reject Instr :=
  match fld w 25 20 with
  | 0 => if fld w 19 13 = 0 ∧ fld w 5 0 = 0 then .ok (.brx (fld w 12 6)) else .error .zeroField
  | 1 => if fld w 19 13 = 0 then .ok (.callx (fld w 12 6) (fld w 5 0)) else .error .zeroField
  | 2 => if fld w 19 0 = 0 then .ok .ret else .error .zeroField
  | 3 => if fld w 19 0 = 0 then .ok .join else .error .zeroField
  | 4 => if fld w 19 13 = 0 then .ok (.await (fld w 12 6) (fld w 5 0)) else .error .zeroField
  | 5 => if fld w 5 0 = 0 then .ok (.spawn (fld w 19 13) (fld w 12 6)) else .error .zeroField
  | 6 => if fld w 19 13 = 0 ∧ fld w 5 0 = 0 then .ok (.tsignal (fld w 12 6)) else .error .zeroField
  | 7 => if fld w 5 0 = 0 then .ok (.tcond (fld w 19 13) (fld w 12 6)) else .error .zeroField
  | _ => .error .minor

/-- Major 0x05 of R192. -/
def decodeMaj05 (w : Nat) : Except Reject Instr :=
  if (fld w 25 25 = 0 ∨ fld w 24 18 = 0) then .ok (.movi (fld w 25 25) (fld w 24 18) (fld w 17 0)) else .error .zeroField

/-- Major 0x06 of R192. -/
def decodeMaj06 (w : Nat) : Except Reject Instr :=
  if fld w 25 25 = 0 ∧ fld w 17 14 = 0 then .ok (.movhi (fld w 24 18) (fld w 13 0)) else .error .zeroField

/-- Major 0x08 of R192. -/
def decodeMaj08 (w : Nat) : Except Reject Instr :=
  match fld w 3 0 with
  | 0 => if (fld w 25 25 = 0 ∨ fld w 24 18 = 0) then .ok (.add (fld w 25 25) (fld w 24 18) (fld w 17 11) (fld w 10 4)) else .error .zeroField
  | 1 => if (fld w 25 25 = 0 ∨ fld w 24 18 = 0) then .ok (.sub (fld w 25 25) (fld w 24 18) (fld w 17 11) (fld w 10 4)) else .error .zeroField
  | 2 => if (fld w 25 25 = 0 ∨ fld w 24 18 = 0) then .ok (.mul (fld w 25 25) (fld w 24 18) (fld w 17 11) (fld w 10 4)) else .error .zeroField
  | 3 => if (fld w 25 25 = 0 ∨ fld w 24 18 = 0) then .ok (.mulhi (fld w 25 25) (fld w 24 18) (fld w 17 11) (fld w 10 4)) else .error .zeroField
  | 4 => if (fld w 25 25 = 0 ∨ fld w 24 18 = 0) then .ok (.min (fld w 25 25) (fld w 24 18) (fld w 17 11) (fld w 10 4)) else .error .zeroField
  | 5 => if (fld w 25 25 = 0 ∨ fld w 24 18 = 0) then .ok (.max (fld w 25 25) (fld w 24 18) (fld w 17 11) (fld w 10 4)) else .error .zeroField
  | 6 => if fld w 10 4 = 0 ∧ (fld w 25 25 = 0 ∨ fld w 24 18 = 0) then .ok (.abs (fld w 25 25) (fld w 24 18) (fld w 17 11)) else .error .zeroField
  | 7 => if fld w 10 4 = 0 ∧ (fld w 25 25 = 0 ∨ fld w 24 18 = 0) then .ok (.neg (fld w 25 25) (fld w 24 18) (fld w 17 11)) else .error .zeroField
  | 8 => if (fld w 25 25 = 0 ∨ fld w 24 18 = 0) then .ok (.scale (fld w 25 25) (fld w 24 18) (fld w 17 11) (fld w 10 4)) else .error .zeroField
  | 9 => if (fld w 25 25 = 0 ∨ fld w 24 18 = 0) then .ok (.copysign (fld w 25 25) (fld w 24 18) (fld w 17 11) (fld w 10 4)) else .error .zeroField
  | 10 => if fld w 10 4 = 0 ∧ (fld w 25 25 = 0 ∨ fld w 24 18 = 0) then .ok (.getexp (fld w 25 25) (fld w 24 18) (fld w 17 11)) else .error .zeroField
  | _ => .error .minor

/-- Major 0x09 of R192. -/
def decodeMaj09 (w : Nat) : Except Reject Instr :=
  if fld w 3 0 ≤ 13 then
    if fld w 25 25 = 0 ∧ fld w 24 18 < 8 then .ok (.cmp (fld w 24 18) (fld w 17 11) (fld w 10 4) (fld w 3 0)) else .error .zeroField
  else if fld w 3 0 = 15 then
    if fld w 25 25 = 0 ∧ fld w 24 18 < 8 then .ok (.classOf (fld w 24 18) (fld w 17 11) (fld w 10 4)) else .error .zeroField
  else .error .minor

/-- Major 0x0a of R192. -/
def decodeMaj0a (w : Nat) : Except Reject Instr :=
  match fld w 3 0 with
  | 0 => .ok (.fma (fld w 25 25) (fld w 24 18) (fld w 17 11) (fld w 10 4))
  | 4 => .ok (.fms (fld w 25 25) (fld w 24 18) (fld w 17 11) (fld w 10 4))
  | 8 => .ok (.fnma (fld w 25 25) (fld w 24 18) (fld w 17 11) (fld w 10 4))
  | 12 => .ok (.fnms (fld w 25 25) (fld w 24 18) (fld w 17 11) (fld w 10 4))
  | _ => .error .minor

/-- Major 0x0b of R192. -/
def decodeMaj0b (w : Nat) : Except Reject Instr :=
  match fld w 3 0 with
  | 0 => if fld w 10 4 = 0 ∧ (fld w 25 25 = 0 ∨ fld w 24 18 = 0) then .ok (.rcp (fld w 25 25) (fld w 24 18) (fld w 17 11)) else .error .zeroField
  | 1 => if fld w 10 4 = 0 ∧ (fld w 25 25 = 0 ∨ fld w 24 18 = 0) then .ok (.rsq (fld w 25 25) (fld w 24 18) (fld w 17 11)) else .error .zeroField
  | 2 => if fld w 10 4 = 0 ∧ (fld w 25 25 = 0 ∨ fld w 24 18 = 0) then .ok (.sqrt (fld w 25 25) (fld w 24 18) (fld w 17 11)) else .error .zeroField
  | 3 => if fld w 10 4 = 0 ∧ (fld w 25 25 = 0 ∨ fld w 24 18 = 0) then .ok (.ex2 (fld w 25 25) (fld w 24 18) (fld w 17 11)) else .error .zeroField
  | 4 => if fld w 10 4 = 0 ∧ (fld w 25 25 = 0 ∨ fld w 24 18 = 0) then .ok (.lg2 (fld w 25 25) (fld w 24 18) (fld w 17 11)) else .error .zeroField
  | 5 => if fld w 10 4 = 0 ∧ (fld w 25 25 = 0 ∨ fld w 24 18 = 0) then .ok (.sin (fld w 25 25) (fld w 24 18) (fld w 17 11)) else .error .zeroField
  | 6 => if fld w 10 4 = 0 ∧ (fld w 25 25 = 0 ∨ fld w 24 18 = 0) then .ok (.cos (fld w 25 25) (fld w 24 18) (fld w 17 11)) else .error .zeroField
  | 7 => if fld w 10 4 = 0 ∧ (fld w 25 25 = 0 ∨ fld w 24 18 = 0) then .ok (.tanh (fld w 25 25) (fld w 24 18) (fld w 17 11)) else .error .zeroField
  | 8 => if fld w 10 4 = 0 ∧ (fld w 25 25 = 0 ∨ fld w 24 18 = 0) then .ok (.frc (fld w 25 25) (fld w 24 18) (fld w 17 11)) else .error .zeroField
  | 9 => if fld w 10 4 = 0 ∧ (fld w 25 25 = 0 ∨ fld w 24 18 = 0) then .ok (.flr (fld w 25 25) (fld w 24 18) (fld w 17 11)) else .error .zeroField
  | 10 => if fld w 10 4 = 0 ∧ (fld w 25 25 = 0 ∨ fld w 24 18 = 0) then .ok (.ceil (fld w 25 25) (fld w 24 18) (fld w 17 11)) else .error .zeroField
  | 11 => if fld w 10 4 = 0 ∧ (fld w 25 25 = 0 ∨ fld w 24 18 = 0) then .ok (.rnd (fld w 25 25) (fld w 24 18) (fld w 17 11)) else .error .zeroField
  | 12 => if fld w 10 4 = 0 ∧ (fld w 25 25 = 0 ∨ fld w 24 18 = 0) then .ok (.trunc (fld w 25 25) (fld w 24 18) (fld w 17 11)) else .error .zeroField
  | _ => .error .minor

/-- Major 0x0c of R192. -/
def decodeMaj0c (w : Nat) : Except Reject Instr :=
  if fld w 3 0 ≤ 10 then
    if (fld w 25 25 = 0 ∨ fld w 24 18 = 0) then .ok (.cvt (fld w 25 25) (fld w 24 18) (fld w 17 11) (fld w 10 4) (fld w 3 0)) else .error .zeroField
  else .error .minor

/-- Major 0x0d of R192. -/
def decodeMaj0d (w : Nat) : Except Reject Instr :=
  match fld w 3 0 with
  | 0 => if (fld w 25 25 = 0 ∨ fld w 24 18 = 0) then .ok (.pack2 (fld w 25 25) (fld w 24 18) (fld w 17 11) (fld w 10 4)) else .error .zeroField
  | 1 => .ok (.pack4 (fld w 25 25) (fld w 24 18) (fld w 17 11) (fld w 10 4))
  | 2 => if fld w 10 4 = 0 ∧ (fld w 25 25 = 0 ∨ fld w 24 18 = 0) then .ok (.unpacklo (fld w 25 25) (fld w 24 18) (fld w 17 11)) else .error .zeroField
  | 3 => if fld w 10 4 = 0 ∧ (fld w 25 25 = 0 ∨ fld w 24 18 = 0) then .ok (.unpackhi (fld w 25 25) (fld w 24 18) (fld w 17 11)) else .error .zeroField
  | 4 => .ok (.dot2 (fld w 25 25) (fld w 24 18) (fld w 17 11) (fld w 10 4))
  | 5 => .ok (.dot4 (fld w 25 25) (fld w 24 18) (fld w 17 11) (fld w 10 4))
  | _ => .error .minor

/-- Major 0x10 of R192. -/
def decodeMaj10 (w : Nat) : Except Reject Instr :=
  match fld w 3 0 with
  | 0 => if (fld w 25 25 = 0 ∨ fld w 24 18 = 0) then .ok (.addW (fld w 25 25) (fld w 24 18) (fld w 17 11) (fld w 10 4)) else .error .zeroField
  | 1 => if (fld w 25 25 = 0 ∨ fld w 24 18 = 0) then .ok (.subW (fld w 25 25) (fld w 24 18) (fld w 17 11) (fld w 10 4)) else .error .zeroField
  | 2 => if (fld w 25 25 = 0 ∨ fld w 24 18 = 0) then .ok (.mulW (fld w 25 25) (fld w 24 18) (fld w 17 11) (fld w 10 4)) else .error .zeroField
  | 3 => if (fld w 25 25 = 0 ∨ fld w 24 18 = 0) then .ok (.mulhiW (fld w 25 25) (fld w 24 18) (fld w 17 11) (fld w 10 4)) else .error .zeroField
  | 4 => if (fld w 25 25 = 0 ∨ fld w 24 18 = 0) then .ok (.mulhuW (fld w 25 25) (fld w 24 18) (fld w 17 11) (fld w 10 4)) else .error .zeroField
  | 5 => if (fld w 25 25 = 0 ∨ fld w 24 18 = 0) then .ok (.minW (fld w 25 25) (fld w 24 18) (fld w 17 11) (fld w 10 4)) else .error .zeroField
  | 6 => if (fld w 25 25 = 0 ∨ fld w 24 18 = 0) then .ok (.maxW (fld w 25 25) (fld w 24 18) (fld w 17 11) (fld w 10 4)) else .error .zeroField
  | 7 => if (fld w 25 25 = 0 ∨ fld w 24 18 = 0) then .ok (.minuW (fld w 25 25) (fld w 24 18) (fld w 17 11) (fld w 10 4)) else .error .zeroField
  | 8 => if (fld w 25 25 = 0 ∨ fld w 24 18 = 0) then .ok (.maxuW (fld w 25 25) (fld w 24 18) (fld w 17 11) (fld w 10 4)) else .error .zeroField
  | 9 => if (fld w 25 25 = 0 ∨ fld w 24 18 = 0) then .ok (.lea (fld w 25 25) (fld w 24 18) (fld w 17 11) (fld w 10 4) 9) else .error .zeroField
  | 10 => if (fld w 25 25 = 0 ∨ fld w 24 18 = 0) then .ok (.lea (fld w 25 25) (fld w 24 18) (fld w 17 11) (fld w 10 4) 10) else .error .zeroField
  | 11 => if (fld w 25 25 = 0 ∨ fld w 24 18 = 0) then .ok (.lea (fld w 25 25) (fld w 24 18) (fld w 17 11) (fld w 10 4) 11) else .error .zeroField
  | 12 => if (fld w 25 25 = 0 ∨ fld w 24 18 = 0) then .ok (.lea (fld w 25 25) (fld w 24 18) (fld w 17 11) (fld w 10 4) 12) else .error .zeroField
  | 13 => if (fld w 25 25 = 0 ∨ fld w 24 18 = 0) then .ok (.lea (fld w 25 25) (fld w 24 18) (fld w 17 11) (fld w 10 4) 13) else .error .zeroField
  | _ => .error .minor

/-- Major 0x11 of R192. -/
def decodeMaj11 (w : Nat) : Except Reject Instr :=
  match fld w 3 0 with
  | 0 => .ok (.madW (fld w 25 25) (fld w 24 18) (fld w 17 11) (fld w 10 4))
  | _ => .error .minor

/-- Major 0x12 of R192. -/
def decodeMaj12 (w : Nat) : Except Reject Instr :=
  if (fld w 25 25 = 0 ∨ fld w 24 18 = 0) then .ok (.addiW (fld w 25 25) (fld w 24 18) (fld w 17 11) (fld w 10 0)) else .error .zeroField

/-- Major 0x13 of R192. -/
def decodeMaj13 (w : Nat) : Except Reject Instr :=
  match fld w 3 0 with
  | 0 => if (fld w 25 25 = 0 ∨ fld w 24 18 = 0) then .ok (.and (fld w 25 25) (fld w 24 18) (fld w 17 11) (fld w 10 4)) else .error .zeroField
  | 1 => if (fld w 25 25 = 0 ∨ fld w 24 18 = 0) then .ok (.or (fld w 25 25) (fld w 24 18) (fld w 17 11) (fld w 10 4)) else .error .zeroField
  | 2 => if (fld w 25 25 = 0 ∨ fld w 24 18 = 0) then .ok (.xor (fld w 25 25) (fld w 24 18) (fld w 17 11) (fld w 10 4)) else .error .zeroField
  | 3 => if (fld w 25 25 = 0 ∨ fld w 24 18 = 0) then .ok (.andn (fld w 25 25) (fld w 24 18) (fld w 17 11) (fld w 10 4)) else .error .zeroField
  | 4 => if (fld w 25 25 = 0 ∨ fld w 24 18 = 0) then .ok (.shl (fld w 25 25) (fld w 24 18) (fld w 17 11) (fld w 10 4)) else .error .zeroField
  | 5 => if (fld w 25 25 = 0 ∨ fld w 24 18 = 0) then .ok (.shr (fld w 25 25) (fld w 24 18) (fld w 17 11) (fld w 10 4)) else .error .zeroField
  | 6 => if (fld w 25 25 = 0 ∨ fld w 24 18 = 0) then .ok (.shra (fld w 25 25) (fld w 24 18) (fld w 17 11) (fld w 10 4)) else .error .zeroField
  | 7 => if (fld w 25 25 = 0 ∨ fld w 24 18 = 0) then .ok (.rol (fld w 25 25) (fld w 24 18) (fld w 17 11) (fld w 10 4)) else .error .zeroField
  | 8 => if fld w 10 4 = 0 ∧ (fld w 25 25 = 0 ∨ fld w 24 18 = 0) then .ok (.popc (fld w 25 25) (fld w 24 18) (fld w 17 11)) else .error .zeroField
  | 9 => if fld w 10 4 = 0 ∧ (fld w 25 25 = 0 ∨ fld w 24 18 = 0) then .ok (.clz (fld w 25 25) (fld w 24 18) (fld w 17 11)) else .error .zeroField
  | 10 => if fld w 10 4 = 0 ∧ (fld w 25 25 = 0 ∨ fld w 24 18 = 0) then .ok (.brev (fld w 25 25) (fld w 24 18) (fld w 17 11)) else .error .zeroField
  | 11 => if (fld w 25 25 = 0 ∨ fld w 24 18 = 0) then .ok (.prmt (fld w 25 25) (fld w 24 18) (fld w 17 11) (fld w 10 4)) else .error .zeroField
  | 12 => if (fld w 25 25 = 0 ∨ fld w 24 18 = 0) then .ok (.bfe (fld w 25 25) (fld w 24 18) (fld w 17 11) (fld w 10 4)) else .error .zeroField
  | 13 => if fld w 10 4 = 0 ∧ (fld w 25 25 = 0 ∨ fld w 24 18 = 0) then .ok (.mov (fld w 25 25) (fld w 24 18) (fld w 17 11)) else .error .zeroField
  | _ => .error .minor

/-- Major 0x14 of R192. -/
def decodeMaj14 (w : Nat) : Except Reject Instr :=
  if (fld w 25 25 = 0 ∨ fld w 24 18 = 0) then .ok (.andi (fld w 25 25) (fld w 24 18) (fld w 17 11) (fld w 10 0)) else .error .zeroField

/-- Major 0x15 of R192. -/
def decodeMaj15 (w : Nat) : Except Reject Instr :=
  if (fld w 25 25 = 0 ∨ fld w 24 18 = 0) then .ok (.ori (fld w 25 25) (fld w 24 18) (fld w 17 11) (fld w 10 0)) else .error .zeroField

/-- Major 0x16 of R192. -/
def decodeMaj16 (w : Nat) : Except Reject Instr :=
  if (fld w 25 25 = 0 ∨ fld w 24 18 = 0) then .ok (.xori (fld w 25 25) (fld w 24 18) (fld w 17 11) (fld w 10 0)) else .error .zeroField

/-- Major 0x17 of R192. -/
def decodeMaj17 (w : Nat) : Except Reject Instr :=
  match fld w 10 7 with
  | 0 => if fld w 6 5 = 0 ∧ (fld w 25 25 = 0 ∨ fld w 24 18 = 0) then .ok (.shli (fld w 25 25) (fld w 24 18) (fld w 17 11) (fld w 4 0)) else .error .zeroField
  | 1 => if fld w 6 5 = 0 ∧ (fld w 25 25 = 0 ∨ fld w 24 18 = 0) then .ok (.shri (fld w 25 25) (fld w 24 18) (fld w 17 11) (fld w 4 0)) else .error .zeroField
  | 2 => if fld w 6 5 = 0 ∧ (fld w 25 25 = 0 ∨ fld w 24 18 = 0) then .ok (.shrai (fld w 25 25) (fld w 24 18) (fld w 17 11) (fld w 4 0)) else .error .zeroField
  | _ => .error .minor

/-- Major 0x18 of R192. -/
def decodeMaj18 (w : Nat) : Except Reject Instr :=
  match fld w 3 0 with
  | 0 => .ok (.bfi (fld w 25 25) (fld w 24 18) (fld w 17 11) (fld w 10 4))
  | _ => .error .minor

/-- Major 0x19 of R192. -/
def decodeMaj19 (w : Nat) : Except Reject Instr :=
  if (fld w 25 25 = 0 ∨ fld w 24 18 = 0) then .ok (.sel (fld w 25 25) (fld w 24 18) (fld w 17 11) (fld w 10 4) (fld w 3 3) (fld w 2 0)) else .error .zeroField

/-- Major 0x1a of R192. -/
def decodeMaj1a (w : Nat) : Except Reject Instr :=
  if fld w 3 0 ≤ 9 then
    if fld w 25 25 = 0 ∧ fld w 24 18 < 8 then .ok (.cmpW (fld w 24 18) (fld w 17 11) (fld w 10 4) (fld w 3 0)) else .error .zeroField
  else .error .minor

/-- Major 0x1b of R192. -/
def decodeMaj1b (w : Nat) : Except Reject Instr :=
  match fld w 3 0 with
  | 0 => if fld w 25 25 = 0 ∧ (fld w 24 18) < 8 ∧ (fld w 17 11) < 16 ∧ (fld w 10 4) < 16 then .ok (.pand (fld w 24 18) (fld w 17 11) (fld w 10 4)) else .error .zeroField
  | 1 => if fld w 25 25 = 0 ∧ (fld w 24 18) < 8 ∧ (fld w 17 11) < 16 ∧ (fld w 10 4) < 16 then .ok (.por (fld w 24 18) (fld w 17 11) (fld w 10 4)) else .error .zeroField
  | 2 => if fld w 25 25 = 0 ∧ (fld w 24 18) < 8 ∧ (fld w 17 11) < 16 ∧ (fld w 10 4) < 16 then .ok (.pxor (fld w 24 18) (fld w 17 11) (fld w 10 4)) else .error .zeroField
  | 3 => if fld w 25 25 = 0 ∧ fld w 10 4 = 0 ∧ (fld w 24 18) < 8 ∧ (fld w 17 11) < 16 then .ok (.pnot (fld w 24 18) (fld w 17 11)) else .error .zeroField
  | 4 => if fld w 17 4 = 0 ∧ (fld w 25 25 = 0 ∨ fld w 24 18 = 0) then .ok (.pmovs (fld w 25 25) (fld w 24 18)) else .error .zeroField
  | 5 => if fld w 25 18 = 0 then .ok (.pmovp (fld w 17 11) (fld w 10 4)) else .error .zeroField
  | _ => .error .minor

/-- Major 0x1c of R192. -/
def decodeMaj1c (w : Nat) : Except Reject Instr :=
  match fld w 3 0 with
  | 0 => if (fld w 25 25 = 0 ∨ fld w 24 18 = 0) then .ok (.ballot (fld w 25 25) (fld w 24 18) (fld w 17 11) (fld w 10 4)) else .error .zeroField
  | 1 => if fld w 25 25 = 0 ∧ fld w 10 4 = 0 ∧ (fld w 24 18) < 8 then .ok (.vany (fld w 24 18) (fld w 17 11)) else .error .zeroField
  | 2 => if fld w 25 25 = 0 ∧ fld w 10 4 = 0 ∧ (fld w 24 18) < 8 then .ok (.vall (fld w 24 18) (fld w 17 11)) else .error .zeroField
  | 3 => if (fld w 25 25 = 0 ∨ fld w 24 18 = 0) then .ok (.shflIdx (fld w 25 25) (fld w 24 18) (fld w 17 11) (fld w 10 4)) else .error .zeroField
  | 4 => if (fld w 25 25 = 0 ∨ fld w 24 18 = 0) then .ok (.shflUp (fld w 25 25) (fld w 24 18) (fld w 17 11) (fld w 10 4)) else .error .zeroField
  | 5 => if (fld w 25 25 = 0 ∨ fld w 24 18 = 0) then .ok (.shflDn (fld w 25 25) (fld w 24 18) (fld w 17 11) (fld w 10 4)) else .error .zeroField
  | 6 => if (fld w 25 25 = 0 ∨ fld w 24 18 = 0) then .ok (.shflXor (fld w 25 25) (fld w 24 18) (fld w 17 11) (fld w 10 4)) else .error .zeroField
  | 7 => if fld w 25 25 = 0 ∧ fld w 17 4 = 0 ∧ (fld w 24 18) < 8 then .ok (.elect (fld w 24 18)) else .error .zeroField
  | 8 => if (fld w 25 25 = 0 ∨ fld w 24 18 = 0) then .ok (.readlane (fld w 25 25) (fld w 24 18) (fld w 17 11) (fld w 10 4)) else .error .zeroField
  | 9 => if fld w 10 4 = 0 ∧ (fld w 25 25 = 0 ∨ fld w 24 18 = 0) then .ok (.bcast (fld w 25 25) (fld w 24 18) (fld w 17 11)) else .error .zeroField
  | 10 => if (fld w 25 25 = 0 ∨ fld w 24 18 = 0) then .ok (.match (fld w 25 25) (fld w 24 18) (fld w 17 11) (fld w 10 4)) else .error .zeroField
  | 11 => if fld w 10 4 = 0 ∧ (fld w 25 25 = 0 ∨ fld w 24 18 = 0) then .ok (.wreduceAdd (fld w 25 25) (fld w 24 18) (fld w 17 11)) else .error .zeroField
  | 12 => if fld w 10 4 = 0 ∧ (fld w 25 25 = 0 ∨ fld w 24 18 = 0) then .ok (.wreduceMin (fld w 25 25) (fld w 24 18) (fld w 17 11)) else .error .zeroField
  | 13 => if fld w 10 4 = 0 ∧ (fld w 25 25 = 0 ∨ fld w 24 18 = 0) then .ok (.wreduceMax (fld w 25 25) (fld w 24 18) (fld w 17 11)) else .error .zeroField
  | _ => .error .minor

/-- Major 0x20 of R192. -/
def decodeMaj20 (w : Nat) : Except Reject Instr :=
  if fld w 2 0 ≠ 0 then .error .minor
  else if fld w 25 25 = 0 ∧ fld w 5 3 ≤ 4 then .ok (.ld (fld w 24 18) (fld w 17 11) (fld w 10 6) (fld w 5 3)) else .error .zeroField

/-- Major 0x21 of R192. -/
def decodeMaj21 (w : Nat) : Except Reject Instr :=
  if fld w 2 0 ≠ 0 then .error .minor
  else if fld w 25 25 = 0 ∧ fld w 5 3 ≤ 4 then .ok (.st (fld w 24 18) (fld w 17 11) (fld w 10 6) (fld w 5 3)) else .error .zeroField

/-- Major 0x22 of R192. -/
def decodeMaj22 (w : Nat) : Except Reject Instr :=
  if fld w 25 25 = 0 ∧ (fld w 5 3) ≤ 4 ∧ (fld w 2 0) ≤ 4 then .ok (.ldaq (fld w 24 18) (fld w 17 11) (fld w 10 6) (fld w 5 3) (fld w 2 0)) else .error .zeroField

/-- Major 0x23 of R192. -/
def decodeMaj23 (w : Nat) : Except Reject Instr :=
  if fld w 25 25 = 0 ∧ (fld w 5 3) ≤ 4 ∧ (fld w 2 0) ≤ 4 then .ok (.strl (fld w 24 18) (fld w 17 11) (fld w 10 6) (fld w 5 3) (fld w 2 0)) else .error .zeroField

/-- Major 0x24 of R192. -/
def decodeMaj24 (w : Nat) : Except Reject Instr :=
  if fld w 25 25 = 0 then .ok (.atomDv (fld w 24 18) (fld w 17 11) (fld w 10 4) (fld w 3 0))
  else if fld w 3 0 = 8 ∨ fld w 3 0 = 9 then .error .minor
  else if fld w 24 18 = 0 then .ok (.redDv (fld w 17 11) (fld w 10 4) (fld w 3 0))
  else .error .redDest

/-- Major 0x25 of R192. -/
def decodeMaj25 (w : Nat) : Except Reject Instr :=
  if fld w 25 25 = 0 then .ok (.atomTm (fld w 24 18) (fld w 17 11) (fld w 10 4) (fld w 3 0))
  else if fld w 3 0 = 8 ∨ fld w 3 0 = 9 then .error .minor
  else if fld w 24 18 = 0 then .ok (.redTm (fld w 17 11) (fld w 10 4) (fld w 3 0))
  else .error .redDest

/-- Major 0x26 of R192. -/
def decodeMaj26 (w : Nat) : Except Reject Instr :=
  match fld w 25 20 with
  | 0 => if fld w 19 13 = 0 ∧ fld w 5 0 = 0 then .ok (.waitc (fld w 12 6)) else .error .zeroField
  | _ => .error .minor

/-- Major 0x27 of R192. -/
def decodeMaj27 (w : Nat) : Except Reject Instr :=
  match fld w 25 21 with
  | 0 => if fld w 20 0 = 0 then .ok (.fence 0) else .error .zeroField
  | 1 => if fld w 20 0 = 0 then .ok (.fence 1) else .error .zeroField
  | 2 => if fld w 20 0 = 0 then .ok (.fence 2) else .error .zeroField
  | 3 => if fld w 20 0 = 0 then .ok (.fence 3) else .error .zeroField
  | 4 => if fld w 20 0 = 0 then .ok (.fence 4) else .error .zeroField
  | 5 => if fld w 6 0 = 0 ∧ (fld w 20 14) < 8 then .ok (.pchk (fld w 20 14) (fld w 13 7)) else .error .zeroField
  | 6 => if fld w 20 14 = 0 then .ok (.binit (fld w 13 7) (fld w 6 0)) else .error .zeroField
  | 7 => if fld w 20 14 = 0 then .ok (.announceIn (fld w 13 7) (fld w 6 0)) else .error .zeroField
  | 8 => if fld w 20 14 = 0 then .ok (.announceOut (fld w 13 7) (fld w 6 0)) else .error .zeroField
  | 9 => if fld w 6 0 = 0 then .ok (.arrive (fld w 20 14) (fld w 13 7)) else .error .zeroField
  | 10 => .ok (.bwait (fld w 20 14) (fld w 13 7) (fld w 6 0))
  | 11 => if (fld w 20 14) < 8 then .ok (.btest (fld w 20 14) (fld w 13 7) (fld w 6 0)) else .error .zeroField
  | 12 => if fld w 6 0 = 0 then .ok (.semwaitDraw (fld w 20 14) (fld w 13 7)) else .error .zeroField
  | 13 => if fld w 20 14 = 0 then .ok (.semwait (fld w 13 7) (fld w 6 0)) else .error .zeroField
  | 14 => if fld w 20 14 = 0 then .ok (.sempost (fld w 13 7) (fld w 6 0)) else .error .zeroField
  | _ => .error .minor

/-- Major 0x28 of R192. -/
def decodeMaj28 (w : Nat) : Except Reject Instr :=
  match fld w 25 21 with
  | 0 => if fld w 6 0 = 0 then .ok (.rpushRsv (fld w 20 14) (fld w 13 7))
         else if fld w 20 14 = 0 then .ok (.rpushPub (fld w 13 7) (fld w 6 0)) else .error .minor
  | 1 => if fld w 6 0 = 0 then .ok (.rpopTake (fld w 20 14) (fld w 13 7))
         else if fld w 20 14 = 0 then .ok (.rpopFree (fld w 13 7) (fld w 6 0)) else .error .minor
  | 2 => if fld w 6 0 = 0 then .ok (.rpeek (fld w 20 14) (fld w 13 7)) else .error .zeroField
  | _ => .error .minor

/-- Major 0x29 of R192. -/
def decodeMaj29 (w : Nat) : Except Reject Instr :=
  match fld w 25 21 with
  | 0 => if fld w 6 0 = 0 then .ok (.hcopy (fld w 20 14) (fld w 13 7)) else .error .zeroField
  | 1 => if fld w 6 0 = 0 then .ok (.hcopys (fld w 20 14) (fld w 13 7)) else .error .zeroField
  | 2 => if fld w 6 0 = 0 then .ok (.hgather (fld w 20 14) (fld w 13 7)) else .error .zeroField
  | 3 => if fld w 6 0 = 0 then .ok (.hscatter (fld w 20 14) (fld w 13 7)) else .error .zeroField
  | 4 => if fld w 6 0 = 0 then .ok (.hstage (fld w 20 14) (fld w 13 7)) else .error .zeroField
  | 5 => if fld w 6 0 = 0 then .ok (.hevict (fld w 20 14) (fld w 13 7)) else .error .zeroField
  | 6 => if fld w 6 0 = 0 then .ok (.hfill (fld w 20 14) (fld w 13 7)) else .error .zeroField
  | 7 => if fld w 6 0 = 0 then .ok (.hmeta (fld w 20 14) (fld w 13 7)) else .error .zeroField
  | 8 => if fld w 6 0 = 0 then .ok (.hquery (fld w 20 14) (fld w 13 7)) else .error .zeroField
  | 9 => if fld w 6 3 = 0 then .ok (.hldr (fld w 20 14) (fld w 13 7) (fld w 2 0)) else .error .zeroField
  | _ => .error .minor

/-- Major 0x2a of R192. -/
def decodeMaj2a (w : Nat) : Except Reject Instr :=
  match fld w 25 21 with
  | 0 => if fld w 6 0 = 0 then .ok (.rring (fld w 20 14) (fld w 13 7)) else .error .zeroField
  | 1 => if fld w 6 0 = 0 then .ok (.rtree (fld w 20 14) (fld w 13 7)) else .error .zeroField
  | 2 => if fld w 6 0 = 0 then .ok (.rstat (fld w 20 14) (fld w 13 7)) else .error .zeroField
  | _ => .error .minor

/-- Major 0x30 of R192. -/
def decodeMaj30 (w : Nat) : Except Reject Instr :=
  match fld w 25 21 with
  | 0 => if fld w 20 18 = 0 ∧ fld w 6 0 = 0 then .ok (.tctl (fld w 17 14) (fld w 13 7)) else .error .zeroField
  | 1 => if fld w 13 13 = 0 ∧ fld w 6 0 = 0 then .ok (.trdc (fld w 20 14) (fld w 12 11) (fld w 10 7)) else .error .zeroField
  | 2 => if fld w 20 18 = 0 ∧ fld w 13 0 = 0 then .ok (.tzero (fld w 17 14)) else .error .zeroField
  | 3 => if fld w 20 18 = 0 ∧ fld w 6 0 = 0 then .ok (.tscl (fld w 17 14) (fld w 13 7)) else .error .zeroField
  | 4 => if fld w 20 14 = 0 ∧ fld w 6 0 = 0 then .ok (.gang (fld w 13 7)) else .error .zeroField
  | _ => .error .minor

/-- Major 0x31 of R192. -/
def decodeMaj31 (w : Nat) : Except Reject Instr :=
  match fld w 25 21 with
  | 0 => if fld w 20 18 = 0 then .ok (.tld (fld w 17 14) (fld w 13 7) (fld w 6 0)) else .error .zeroField
  | 1 => if fld w 20 18 = 0 then .ok (.tst (fld w 17 14) (fld w 13 7) (fld w 6 0)) else .error .zeroField
  | _ => .error .minor

/-- Major 0x32 of R192. -/
def decodeMaj32 (w : Nat) : Except Reject Instr :=
  match fld w 25 21 with
  | 0 => if fld w 20 17 = 0 ∧ fld w 13 11 = 0 ∧ fld w 6 5 = 0 then .ok (.mma (fld w 16 14) (fld w 10 7) (fld w 4 4) (fld w 3 0)) else .error .zeroField
  | 1 => if fld w 20 20 = 0 ∧ fld w 17 17 = 0 ∧ fld w 13 11 = 0 ∧ fld w 6 5 = 0 then .ok (.mmas (fld w 19 18) (fld w 16 14) (fld w 10 7) (fld w 4 4) (fld w 3 0)) else .error .zeroField
  | _ => .error .minor

/-- Major 0x33 of R192. -/
def decodeMaj33 (w : Nat) : Except Reject Instr :=
  match fld w 25 21 with
  | 0 => if fld w 20 17 = 0 ∧ fld w 6 0 = 0 then .ok (.azero (fld w 16 14) (fld w 13 7)) else .error .zeroField
  | 1 => if fld w 20 18 = 0 then .ok (.adrain (fld w 17 17) (fld w 16 14) (fld w 13 7) (fld w 6 0)) else .error .zeroField
  | 2 => if fld w 6 3 = 0 then .ok (.aread (fld w 20 14) (fld w 13 7) (fld w 2 0)) else .error .zeroField
  | 3 => if fld w 6 3 = 0 then .ok (.awrite (fld w 20 14) (fld w 13 7) (fld w 2 0)) else .error .zeroField
  | _ => .error .minor

/-- Major 0x34 of R192. -/
def decodeMaj34 (w : Nat) : Except Reject Instr :=
  match fld w 25 21 with
  | 0 => .ok (.tex (fld w 20 14) (fld w 13 7) (fld w 6 0))
  | 1 => .ok (.texb (fld w 20 14) (fld w 13 7) (fld w 6 0))
  | 2 => .ok (.texq (fld w 20 14) (fld w 13 7) (fld w 6 0))
  | _ => .error .minor

/-- Major 0x35 of R192. -/
def decodeMaj35 (w : Nat) : Except Reject Instr :=
  match fld w 25 21 with
  | 0 => .ok (.hgf (fld w 20 14) (fld w 13 7) (fld w 6 0))
  | 1 => .ok (.hgsFast (fld w 20 14) (fld w 13 7) (fld w 6 0))
  | 2 => .ok (.hgsExact (fld w 20 14) (fld w 13 7) (fld w 6 0))
  | _ => .error .minor

/-- Major 0x36 of R192. -/
def decodeMaj36 (w : Nat) : Except Reject Instr :=
  match fld w 25 21 with
  | 0 => if fld w 20 14 = 0 then .ok (.trace (fld w 13 7) (fld w 6 0)) else .error .zeroField
  | 1 => .ok (.rsort (fld w 20 14) (fld w 13 7) (fld w 6 0))
  | 2 => if fld w 6 0 = 0 then .ok (.hitget (fld w 20 14) (fld w 13 7)) else .error .zeroField
  | _ => .error .minor

/-- Major 0x37 of R192. -/
def decodeMaj37 (w : Nat) : Except Reject Instr :=
  match fld w 25 21 with
  | 0 => .ok (.emitv (fld w 20 14) (fld w 13 7) (fld w 6 0))
  | 1 => if fld w 13 7 = 0 then .ok (.emitp (fld w 20 14) (fld w 6 0)) else .error .zeroField
  | 2 => .ok (.msetc (fld w 20 14) (fld w 13 7) (fld w 6 0))
  | 3 => if fld w 20 0 = 0 then .ok .discard else .error .zeroField
  | 4 => if fld w 20 14 = 0 ∧ fld w 6 0 = 0 then .ok (.srate (fld w 13 7)) else .error .zeroField
  | _ => .error .minor

/-- Major 0x38 of R192. -/
def decodeMaj38 (w : Nat) : Except Reject Instr :=
  match fld w 25 21 with
  | 0 => if fld w 6 0 = 0 then .ok (.fqpop (fld w 20 14) (fld w 13 7)) else .error .zeroField
  | 1 => .ok (.finfo (fld w 20 14) (fld w 13 7) (fld w 6 0))
  | 2 => .ok (.fresume (fld w 20 14) (fld w 13 7) (fld w 6 0))
  | 3 => if fld w 6 0 = 0 then .ok (.fkill (fld w 20 14) (fld w 13 7)) else .error .zeroField
  | _ => .error .minor

/-- The instruction a 32-bit word stands for (R192, R194). -/
def decode (w : Nat) : Except Reject Instr :=
  match fld w 31 26 with
  | 0 => decodeMaj00 w
  | 1 => decodeMaj01 w
  | 2 => decodeMaj02 w
  | 3 => decodeMaj03 w
  | 4 => decodeMaj04 w
  | 5 => decodeMaj05 w
  | 6 => decodeMaj06 w
  | 8 => decodeMaj08 w
  | 9 => decodeMaj09 w
  | 10 => decodeMaj0a w
  | 11 => decodeMaj0b w
  | 12 => decodeMaj0c w
  | 13 => decodeMaj0d w
  | 16 => decodeMaj10 w
  | 17 => decodeMaj11 w
  | 18 => decodeMaj12 w
  | 19 => decodeMaj13 w
  | 20 => decodeMaj14 w
  | 21 => decodeMaj15 w
  | 22 => decodeMaj16 w
  | 23 => decodeMaj17 w
  | 24 => decodeMaj18 w
  | 25 => decodeMaj19 w
  | 26 => decodeMaj1a w
  | 27 => decodeMaj1b w
  | 28 => decodeMaj1c w
  | 32 => decodeMaj20 w
  | 33 => decodeMaj21 w
  | 34 => decodeMaj22 w
  | 35 => decodeMaj23 w
  | 36 => decodeMaj24 w
  | 37 => decodeMaj25 w
  | 38 => decodeMaj26 w
  | 39 => decodeMaj27 w
  | 40 => decodeMaj28 w
  | 41 => decodeMaj29 w
  | 42 => decodeMaj2a w
  | 48 => decodeMaj30 w
  | 49 => decodeMaj31 w
  | 50 => decodeMaj32 w
  | 51 => decodeMaj33 w
  | 52 => decodeMaj34 w
  | 53 => decodeMaj35 w
  | 54 => decodeMaj36 w
  | 55 => decodeMaj37 w
  | 56 => decodeMaj38 w
  | _ => .error .major

/-- The word four bytes make, little-endian (R4, R179). -/
def wordOfBytes (b0 b1 b2 b3 : BitVec 8) : Nat :=
  b0.toNat + 2 ^ 8 * b1.toNat + 2 ^ 16 * b2.toNat + 2 ^ 24 * b3.toNat

/-- Decoding of a list of bytes: the first four make the word; the rest is what follows it. -/
def decodeBytes : List (BitVec 8) → Except Reject (Instr × List (BitVec 8))
  | b0 :: b1 :: b2 :: b3 :: rest =>
    match decode (wordOfBytes b0 b1 b2 b3) with
    | .ok i => .ok (i, rest)
    | .error r => .error r
  | _ => .error .short

/-- The bytes a word occupies in memory, lowest address first (R4). -/
def bytesOfWord (w : Nat) : List (BitVec 8) :=
  [BitVec.ofNat 8 w, BitVec.ofNat 8 (w / 2 ^ 8), BitVec.ofNat 8 (w / 2 ^ 16), BitVec.ofNat 8 (w / 2 ^ 24)]

/-- The opcode table's word, laid out as the hardware stores it and given to the decoder. -/
def decodeTableWord (nbits w : Nat) : Option Instr :=
  match decodeBytes (bytesOfWord (w % 2 ^ nbits)) with
  | .ok (i, _) => some i
  | .error _ => none

/-- Adds a field's value at bit `lo` of a word. -/
def put (base x lo : Nat) : Nat := base + x * 2 ^ lo

/-- The word of an encoded instruction (R189, R192 and the entries' own encodings); an event has none. -/
def encode : Instr → Option Nat
  | .nop => some 0x00000000
  | .exit => some 0x00100000
  | .trap c => some (put 0x00200000 c 0)
  | .bkpt t => some (put 0x00300000 t 0)
  | .srd d s => some (put (put 0x00400000 d 13) s 0)
  | .swr a s => some (put (put 0x00500000 a 6) s 0)
  | .clk d s => some (put (put 0x00600000 d 13) s 0)
  | .yield c => some (put 0x00700000 c 0)
  | .spin => some 0x00800000
  | .hint h => some (put 0x00900000 h 0)
  | .timer a => some (put 0x00a00000 a 6)
  | .idem e => some (put 0x00b00000 e 0)
  | .mode m => some (put 0x04000000 m 0)
  | .modex s => some (put 0x04010000 s 0)
  | .bra v p o => some (put (put (put 0x08000000 v 25) p 22) o 0)
  | .call f o => some (put (put 0x0c000000 f 20) o 0)
  | .brx a => some (put 0x10000000 a 6)
  | .callx a f => some (put (put 0x10100000 a 6) f 0)
  | .ret => some 0x10200000
  | .join => some 0x10300000
  | .await a n => some (put (put 0x10400000 a 6) n 0)
  | .spawn d a => some (put (put 0x10500000 d 13) a 6)
  | .tsignal a => some (put 0x10600000 a 6)
  | .tcond v a => some (put (put 0x10700000 v 13) a 6)
  | .movi n d i => some (put (put (put 0x14000000 n 25) d 18) i 0)
  | .movhi d i => some (put (put 0x18000000 d 18) i 0)
  | .add n d a b => some (put (put (put (put 0x20000000 n 25) d 18) a 11) b 4)
  | .sub n d a b => some (put (put (put (put 0x20000001 n 25) d 18) a 11) b 4)
  | .mul n d a b => some (put (put (put (put 0x20000002 n 25) d 18) a 11) b 4)
  | .mulhi n d a b => some (put (put (put (put 0x20000003 n 25) d 18) a 11) b 4)
  | .min n d a b => some (put (put (put (put 0x20000004 n 25) d 18) a 11) b 4)
  | .max n d a b => some (put (put (put (put 0x20000005 n 25) d 18) a 11) b 4)
  | .abs n d a => some (put (put (put 0x20000006 n 25) d 18) a 11)
  | .neg n d a => some (put (put (put 0x20000007 n 25) d 18) a 11)
  | .scale n d a b => some (put (put (put (put 0x20000008 n 25) d 18) a 11) b 4)
  | .copysign n d a b => some (put (put (put (put 0x20000009 n 25) d 18) a 11) b 4)
  | .getexp n d a => some (put (put (put 0x2000000a n 25) d 18) a 11)
  | .cmp d a b c => some (put (put (put (put 0x24000000 d 18) a 11) b 4) c 0)
  | .classOf d a b => some (put (put (put 0x2400000f d 18) a 11) b 4)
  | .fma n d a b => some (put (put (put (put 0x28000000 n 25) d 18) a 11) b 4)
  | .fms n d a b => some (put (put (put (put 0x28000004 n 25) d 18) a 11) b 4)
  | .fnma n d a b => some (put (put (put (put 0x28000008 n 25) d 18) a 11) b 4)
  | .fnms n d a b => some (put (put (put (put 0x2800000c n 25) d 18) a 11) b 4)
  | .rcp n d a => some (put (put (put 0x2c000000 n 25) d 18) a 11)
  | .rsq n d a => some (put (put (put 0x2c000001 n 25) d 18) a 11)
  | .sqrt n d a => some (put (put (put 0x2c000002 n 25) d 18) a 11)
  | .ex2 n d a => some (put (put (put 0x2c000003 n 25) d 18) a 11)
  | .lg2 n d a => some (put (put (put 0x2c000004 n 25) d 18) a 11)
  | .sin n d a => some (put (put (put 0x2c000005 n 25) d 18) a 11)
  | .cos n d a => some (put (put (put 0x2c000006 n 25) d 18) a 11)
  | .tanh n d a => some (put (put (put 0x2c000007 n 25) d 18) a 11)
  | .frc n d a => some (put (put (put 0x2c000008 n 25) d 18) a 11)
  | .flr n d a => some (put (put (put 0x2c000009 n 25) d 18) a 11)
  | .ceil n d a => some (put (put (put 0x2c00000a n 25) d 18) a 11)
  | .rnd n d a => some (put (put (put 0x2c00000b n 25) d 18) a 11)
  | .trunc n d a => some (put (put (put 0x2c00000c n 25) d 18) a 11)
  | .cvt n d a b t => some (put (put (put (put (put 0x30000000 n 25) d 18) a 11) b 4) t 0)
  | .pack2 n d a b => some (put (put (put (put 0x34000000 n 25) d 18) a 11) b 4)
  | .pack4 n d a b => some (put (put (put (put 0x34000001 n 25) d 18) a 11) b 4)
  | .unpacklo n d a => some (put (put (put 0x34000002 n 25) d 18) a 11)
  | .unpackhi n d a => some (put (put (put 0x34000003 n 25) d 18) a 11)
  | .dot2 n d a b => some (put (put (put (put 0x34000004 n 25) d 18) a 11) b 4)
  | .dot4 n d a b => some (put (put (put (put 0x34000005 n 25) d 18) a 11) b 4)
  | .addW n d a b => some (put (put (put (put 0x40000000 n 25) d 18) a 11) b 4)
  | .subW n d a b => some (put (put (put (put 0x40000001 n 25) d 18) a 11) b 4)
  | .mulW n d a b => some (put (put (put (put 0x40000002 n 25) d 18) a 11) b 4)
  | .mulhiW n d a b => some (put (put (put (put 0x40000003 n 25) d 18) a 11) b 4)
  | .mulhuW n d a b => some (put (put (put (put 0x40000004 n 25) d 18) a 11) b 4)
  | .minW n d a b => some (put (put (put (put 0x40000005 n 25) d 18) a 11) b 4)
  | .maxW n d a b => some (put (put (put (put 0x40000006 n 25) d 18) a 11) b 4)
  | .minuW n d a b => some (put (put (put (put 0x40000007 n 25) d 18) a 11) b 4)
  | .maxuW n d a b => some (put (put (put (put 0x40000008 n 25) d 18) a 11) b 4)
  | .lea n d a b k => some (put (put (put (put (put 0x40000000 n 25) d 18) a 11) b 4) k 0)
  | .madW n d a b => some (put (put (put (put 0x44000000 n 25) d 18) a 11) b 4)
  | .addiW n d a i => some (put (put (put (put 0x48000000 n 25) d 18) a 11) i 0)
  | .and n d a b => some (put (put (put (put 0x4c000000 n 25) d 18) a 11) b 4)
  | .or n d a b => some (put (put (put (put 0x4c000001 n 25) d 18) a 11) b 4)
  | .xor n d a b => some (put (put (put (put 0x4c000002 n 25) d 18) a 11) b 4)
  | .andn n d a b => some (put (put (put (put 0x4c000003 n 25) d 18) a 11) b 4)
  | .shl n d a b => some (put (put (put (put 0x4c000004 n 25) d 18) a 11) b 4)
  | .shr n d a b => some (put (put (put (put 0x4c000005 n 25) d 18) a 11) b 4)
  | .shra n d a b => some (put (put (put (put 0x4c000006 n 25) d 18) a 11) b 4)
  | .rol n d a b => some (put (put (put (put 0x4c000007 n 25) d 18) a 11) b 4)
  | .popc n d a => some (put (put (put 0x4c000008 n 25) d 18) a 11)
  | .clz n d a => some (put (put (put 0x4c000009 n 25) d 18) a 11)
  | .brev n d a => some (put (put (put 0x4c00000a n 25) d 18) a 11)
  | .prmt n d a b => some (put (put (put (put 0x4c00000b n 25) d 18) a 11) b 4)
  | .bfe n d a b => some (put (put (put (put 0x4c00000c n 25) d 18) a 11) b 4)
  | .mov n d a => some (put (put (put 0x4c00000d n 25) d 18) a 11)
  | .andi n d a i => some (put (put (put (put 0x50000000 n 25) d 18) a 11) i 0)
  | .ori n d a i => some (put (put (put (put 0x54000000 n 25) d 18) a 11) i 0)
  | .xori n d a i => some (put (put (put (put 0x58000000 n 25) d 18) a 11) i 0)
  | .shli n d a c => some (put (put (put (put 0x5c000000 n 25) d 18) a 11) c 0)
  | .shri n d a c => some (put (put (put (put 0x5c000080 n 25) d 18) a 11) c 0)
  | .shrai n d a c => some (put (put (put (put 0x5c000100 n 25) d 18) a 11) c 0)
  | .bfi n d a b => some (put (put (put (put 0x60000000 n 25) d 18) a 11) b 4)
  | .sel n d a b v p => some (put (put (put (put (put (put 0x64000000 n 25) d 18) a 11) b 4) v 3) p 0)
  | .cmpW d a b c => some (put (put (put (put 0x68000000 d 18) a 11) b 4) c 0)
  | .pand d a b => some (put (put (put 0x6c000000 d 18) a 11) b 4)
  | .por d a b => some (put (put (put 0x6c000001 d 18) a 11) b 4)
  | .pxor d a b => some (put (put (put 0x6c000002 d 18) a 11) b 4)
  | .pnot d a => some (put (put 0x6c000003 d 18) a 11)
  | .pmovs n d => some (put (put 0x6c000004 n 25) d 18)
  | .pmovp a b => some (put (put 0x6c000005 a 11) b 4)
  | .ballot n d a k => some (put (put (put (put 0x70000000 n 25) d 18) a 11) k 4)
  | .vany d a => some (put (put 0x70000001 d 18) a 11)
  | .vall d a => some (put (put 0x70000002 d 18) a 11)
  | .shflIdx n d a b => some (put (put (put (put 0x70000003 n 25) d 18) a 11) b 4)
  | .shflUp n d a b => some (put (put (put (put 0x70000004 n 25) d 18) a 11) b 4)
  | .shflDn n d a b => some (put (put (put (put 0x70000005 n 25) d 18) a 11) b 4)
  | .shflXor n d a b => some (put (put (put (put 0x70000006 n 25) d 18) a 11) b 4)
  | .elect d => some (put 0x70000007 d 18)
  | .readlane n d a k => some (put (put (put (put 0x70000008 n 25) d 18) a 11) k 4)
  | .bcast n d a => some (put (put (put 0x70000009 n 25) d 18) a 11)
  | .match n d a k => some (put (put (put (put 0x7000000a n 25) d 18) a 11) k 4)
  | .wreduceAdd n d a => some (put (put (put 0x7000000b n 25) d 18) a 11)
  | .wreduceMin n d a => some (put (put (put 0x7000000c n 25) d 18) a 11)
  | .wreduceMax n d a => some (put (put (put 0x7000000d n 25) d 18) a 11)
  | .ld d a o z => some (put (put (put (put 0x80000000 d 18) a 11) o 6) z 3)
  | .st d a o z => some (put (put (put (put 0x84000000 d 18) a 11) o 6) z 3)
  | .ldaq d a o z c => some (put (put (put (put (put 0x88000000 d 18) a 11) o 6) z 3) c 0)
  | .strl d a o z c => some (put (put (put (put (put 0x8c000000 d 18) a 11) o 6) z 3) c 0)
  | .atomDv d a b o => some (put (put (put (put 0x90000000 d 18) a 11) b 4) o 0)
  | .atomTm d a b o => some (put (put (put (put 0x94000000 d 18) a 11) b 4) o 0)
  | .redDv a b o => some (put (put (put 0x92000000 a 11) b 4) o 0)
  | .redTm a b o => some (put (put (put 0x96000000 a 11) b 4) o 0)
  | .waitc a => some (put 0x98000000 a 6)
  | .fence s => some (put 0x9c000000 s 21)
  | .pchk p q => some (put (put 0x9ca00000 p 14) q 7)
  | .binit q s => some (put (put 0x9cc00000 q 7) s 0)
  | .announceIn q s => some (put (put 0x9ce00000 q 7) s 0)
  | .announceOut q s => some (put (put 0x9d000000 q 7) s 0)
  | .arrive p q => some (put (put 0x9d200000 p 14) q 7)
  | .bwait p q s => some (put (put (put 0x9d400000 p 14) q 7) s 0)
  | .btest p q s => some (put (put (put 0x9d600000 p 14) q 7) s 0)
  | .semwaitDraw p q => some (put (put 0x9d800000 p 14) q 7)
  | .semwait q s => some (put (put 0x9da00000 q 7) s 0)
  | .sempost q s => some (put (put 0x9dc00000 q 7) s 0)
  | .rpushRsv p q => some (put (put 0xa0000000 p 14) q 7)
  | .rpushPub q s => some (put (put 0xa0000000 q 7) s 0)
  | .rpopTake p q => some (put (put 0xa0200000 p 14) q 7)
  | .rpopFree q s => some (put (put 0xa0200000 q 7) s 0)
  | .rpeek p q => some (put (put 0xa0400000 p 14) q 7)
  | .hcopy p q => some (put (put 0xa4000000 p 14) q 7)
  | .hcopys p q => some (put (put 0xa4200000 p 14) q 7)
  | .hgather p q => some (put (put 0xa4400000 p 14) q 7)
  | .hscatter p q => some (put (put 0xa4600000 p 14) q 7)
  | .hstage p q => some (put (put 0xa4800000 p 14) q 7)
  | .hevict p q => some (put (put 0xa4a00000 p 14) q 7)
  | .hfill p q => some (put (put 0xa4c00000 p 14) q 7)
  | .hmeta p q => some (put (put 0xa4e00000 p 14) q 7)
  | .hquery p q => some (put (put 0xa5000000 p 14) q 7)
  | .hldr p q z => some (put (put (put 0xa5200000 p 14) q 7) z 0)
  | .rring p q => some (put (put 0xa8000000 p 14) q 7)
  | .rtree p q => some (put (put 0xa8200000 p 14) q 7)
  | .rstat p q => some (put (put 0xa8400000 p 14) q 7)
  | .tctl t q => some (put (put 0xc0000000 t 14) q 7)
  | .trdc p k i => some (put (put (put 0xc0200000 p 14) k 11) i 7)
  | .tzero t => some (put 0xc0400000 t 14)
  | .tscl t q => some (put (put 0xc0600000 t 14) q 7)
  | .gang q => some (put 0xc0800000 q 7)
  | .tld t q s => some (put (put (put 0xc4000000 t 14) q 7) s 0)
  | .tst t q s => some (put (put (put 0xc4200000 t 14) q 7) s 0)
  | .mma d a p b => some (put (put (put (put 0xc8000000 d 14) a 7) p 4) b 0)
  | .mmas k d a p b => some (put (put (put (put (put 0xc8200000 k 18) d 14) a 7) p 4) b 0)
  | .azero d q => some (put (put 0xcc000000 d 14) q 7)
  | .adrain z d q s => some (put (put (put (put 0xcc200000 z 17) d 14) q 7) s 0)
  | .aread p q d => some (put (put (put 0xcc400000 p 14) q 7) d 0)
  | .awrite p q d => some (put (put (put 0xcc600000 p 14) q 7) d 0)
  | .tex p q s => some (put (put (put 0xd0000000 p 14) q 7) s 0)
  | .texb p q s => some (put (put (put 0xd0200000 p 14) q 7) s 0)
  | .texq p q s => some (put (put (put 0xd0400000 p 14) q 7) s 0)
  | .hgf p q s => some (put (put (put 0xd4000000 p 14) q 7) s 0)
  | .hgsFast p q s => some (put (put (put 0xd4200000 p 14) q 7) s 0)
  | .hgsExact p q s => some (put (put (put 0xd4400000 p 14) q 7) s 0)
  | .trace q s => some (put (put 0xd8000000 q 7) s 0)
  | .rsort p q s => some (put (put (put 0xd8200000 p 14) q 7) s 0)
  | .hitget p q => some (put (put 0xd8400000 p 14) q 7)
  | .emitv p q s => some (put (put (put 0xdc000000 p 14) q 7) s 0)
  | .emitp p s => some (put (put 0xdc200000 p 14) s 0)
  | .msetc p q s => some (put (put (put 0xdc400000 p 14) q 7) s 0)
  | .discard => some 0xdc600000
  | .srate q => some (put 0xdc800000 q 7)
  | .fqpop p q => some (put (put 0xe0000000 p 14) q 7)
  | .finfo p q s => some (put (put (put 0xe0200000 p 14) q 7) s 0)
  | .fresume p q s => some (put (put (put 0xe0400000 p 14) q 7) s 0)
  | .fkill p q => some (put (put 0xe0600000 p 14) q 7)
  | .memoryWriteback _ => none
  | .attemptUrgent _ => none
  | .warpRelease _ => none
  | .frameMoveDone _ _ => none
  | .monitorWake _ => none
  | .monitorRecheck _ _ => none
  | .deadline _ => none
  | .yieldExpiry _ _ => none
  | .ticketAnswer _ _ => none
  | .fragDelivery _ _ => none
  | .hldrDelivery _ _ => none
  | .textureSegmentAttempt _ _ => none
  | .traceComplete _ _ => none
  | .hodRecordRead _ _ => none
  | .hodCommandStart _ => none
  | .hodUnitRead _ _ => none
  | .hodUnitWrite _ _ => none
  | .pageWalk _ _ => none
  | .evictWaitEnd _ _ => none
  | .hodCommandComplete _ _ => none
  | .repairComplete _ _ => none
  | .lpddrAccessStart _ _ => none
  | .refreshSlotDue _ => none
  | .perBankRefresh _ => none
  | .allBankRefresh _ => none
  | .refreshRatePoll _ _ => none
  | .lpddrScrub _ => none
  | .patrolScrub _ => none
  | .hostApertureRead _ _ => none
  | .hostApertureWrite _ _ _ _ => none
  | .registerWrite _ _ => none
  | .ticketsWrite _ _ => none
  | .tbStep => none
  | .tbIncWrite _ => none
  | .ppsCapture => none
  | .refLockLoss => none
  | .launchAccept _ => none
  | .distributorDecision => none
  | .teamStart _ => none
  | .launchComplete _ => none
  | .graphPlace _ => none
  | .traverseNodeDone _ _ => none
  | .condRecheck _ _ => none
  | .waittimeExpiry _ _ => none
  | .frameStart _ => none
  | .meshletHandoff _ => none
  | .binNodeComplete _ => none
  | .binNodeLate _ => none
  | .plumbReserve _ => none
  | .chainRelease _ => none
  | .nodeSlotFree _ => none
  | .chainNodeDone _ _ => none
  | .chainLate _ => none
  | .pixelWarpLaunch _ => none
  | .fragmentCommit _ => none
  | .stripConsumerTake _ _ => none
  | .lineScan _ => none
  | .obuWrite _ _ => none
  | .latchHold _ => none
  | .latchJoin _ => none
  | .rendezvousTimeout _ => none
  | .ashlarOpStart _ => none
  | .ashlarOpComplete _ => none
  | .areadDelivery _ _ => none
  | .faultRecordWrite _ => none
  | .handlerLaunchStart _ => none
  | .teamSave _ => none
  | .teamResume _ _ => none
  | .teamDiscard _ => none
  | .protectRelease _ => none
  | .segCommitDone _ => none
  | .shootdownDone _ => none
  | .peerRequest _ _ _ _ => none
  | .chunkMessage _ _ _ => none
  | .chunkComplete _ _ => none
  | .portDown _ => none
  | .portUp _ => none
  | .dpHotplug _ _ => none
  | .sensorSample _ _ _ => none
  | .forceClear _ => none
  | .lowRailIdle _ => none
  | .railSwitch _ _ => none
  | .marginStep _ _ => none
  | .powerUp => none
  | .wipeComplete => none
  | .fwgo => none
  | .fwVerifyDone => none
  | .ctxCreate => none
  | .ctxDestroy => none
  | .segCommit => none
  | .shootdown => none
  | .hwinSet => none
  | .exportSet => none
  | .routeSet => none
  | .hodPlace => none
  | .ringSet => none
  | .pipeSet => none
  | .pipeEnable => none
  | .pipeDisable => none
  | .resume => none
  | .kill => none
  | .pswap => none
  | .margin => none
  | .lifecycle => none
  | .dpTrain => none
  | .auxXfer => none
  | .attest => none
  | .reductionCommandStart _ => none
  | .refLockGained => none
  | .memberStopsAnswering _ _ => none

/-- The lowest bit of each operand field of a word, by the format of its major opcode (R189, R192). -/
def operandFields (w : Nat) : List Nat :=
  let maj := fld w 31 26
  if [0x00, 0x04, 0x26].contains maj then [13, 6]
  else if maj = 0x05 ∨ maj = 0x06 then [18]
  else if [0x12, 0x14, 0x15, 0x16, 0x17].contains maj ∨ (0x20 ≤ maj ∧ maj ≤ 0x23) then [18, 11]
  else if (0x27 ≤ maj ∧ maj ≤ 0x2a) ∨ (0x30 ≤ maj ∧ maj ≤ 0x38) then [14, 7, 0]
  else if (0x08 ≤ maj ∧ maj ≤ 0x0d) ∨ maj = 0x10 ∨ maj = 0x11 ∨ maj = 0x13 ∨ (0x18 ≤ maj ∧ maj ≤ 0x1c) ∨ maj = 0x24 ∨ maj = 0x25 then [18, 11, 4]
  else []

/-- Whether a word names the literal word in an operand field of its format (R179). -/
def namesLiteral (w : Nat) : Bool := (operandFields w).any (fun i => fld w (i + 6) i == 100)

/-- Whether the instruction is a hardware event, which no word encodes. -/
def Instr.isEvent (i : Instr) : Bool := (encode i).isNone

/-- Whether the instruction names the literal word: operand code 100 in any operand field (R179). -/
def Instr.literal : Instr → Bool
  | .srd d _ => d == 100
  | .swr a _ => a == 100
  | .clk d _ => d == 100
  | .timer a => a == 100
  | .brx a => a == 100
  | .callx a _ => a == 100
  | .await a _ => a == 100
  | .spawn d a => d == 100 || a == 100
  | .tsignal a => a == 100
  | .tcond v a => v == 100 || a == 100
  | .movi _ d _ => d == 100
  | .movhi d _ => d == 100
  | .add _ d a b => d == 100 || a == 100 || b == 100
  | .sub _ d a b => d == 100 || a == 100 || b == 100
  | .mul _ d a b => d == 100 || a == 100 || b == 100
  | .mulhi _ d a b => d == 100 || a == 100 || b == 100
  | .min _ d a b => d == 100 || a == 100 || b == 100
  | .max _ d a b => d == 100 || a == 100 || b == 100
  | .abs _ d a => d == 100 || a == 100
  | .neg _ d a => d == 100 || a == 100
  | .scale _ d a b => d == 100 || a == 100 || b == 100
  | .copysign _ d a b => d == 100 || a == 100 || b == 100
  | .getexp _ d a => d == 100 || a == 100
  | .cmp d a b _ => d == 100 || a == 100 || b == 100
  | .classOf d a b => d == 100 || a == 100 || b == 100
  | .fma _ d a b => d == 100 || a == 100 || b == 100
  | .fms _ d a b => d == 100 || a == 100 || b == 100
  | .fnma _ d a b => d == 100 || a == 100 || b == 100
  | .fnms _ d a b => d == 100 || a == 100 || b == 100
  | .rcp _ d a => d == 100 || a == 100
  | .rsq _ d a => d == 100 || a == 100
  | .sqrt _ d a => d == 100 || a == 100
  | .ex2 _ d a => d == 100 || a == 100
  | .lg2 _ d a => d == 100 || a == 100
  | .sin _ d a => d == 100 || a == 100
  | .cos _ d a => d == 100 || a == 100
  | .tanh _ d a => d == 100 || a == 100
  | .frc _ d a => d == 100 || a == 100
  | .flr _ d a => d == 100 || a == 100
  | .ceil _ d a => d == 100 || a == 100
  | .rnd _ d a => d == 100 || a == 100
  | .trunc _ d a => d == 100 || a == 100
  | .cvt _ d a b _ => d == 100 || a == 100 || b == 100
  | .pack2 _ d a b => d == 100 || a == 100 || b == 100
  | .pack4 _ d a b => d == 100 || a == 100 || b == 100
  | .unpacklo _ d a => d == 100 || a == 100
  | .unpackhi _ d a => d == 100 || a == 100
  | .dot2 _ d a b => d == 100 || a == 100 || b == 100
  | .dot4 _ d a b => d == 100 || a == 100 || b == 100
  | .addW _ d a b => d == 100 || a == 100 || b == 100
  | .subW _ d a b => d == 100 || a == 100 || b == 100
  | .mulW _ d a b => d == 100 || a == 100 || b == 100
  | .mulhiW _ d a b => d == 100 || a == 100 || b == 100
  | .mulhuW _ d a b => d == 100 || a == 100 || b == 100
  | .minW _ d a b => d == 100 || a == 100 || b == 100
  | .maxW _ d a b => d == 100 || a == 100 || b == 100
  | .minuW _ d a b => d == 100 || a == 100 || b == 100
  | .maxuW _ d a b => d == 100 || a == 100 || b == 100
  | .lea _ d a b _ => d == 100 || a == 100 || b == 100
  | .madW _ d a b => d == 100 || a == 100 || b == 100
  | .addiW _ d a _ => d == 100 || a == 100
  | .and _ d a b => d == 100 || a == 100 || b == 100
  | .or _ d a b => d == 100 || a == 100 || b == 100
  | .xor _ d a b => d == 100 || a == 100 || b == 100
  | .andn _ d a b => d == 100 || a == 100 || b == 100
  | .shl _ d a b => d == 100 || a == 100 || b == 100
  | .shr _ d a b => d == 100 || a == 100 || b == 100
  | .shra _ d a b => d == 100 || a == 100 || b == 100
  | .rol _ d a b => d == 100 || a == 100 || b == 100
  | .popc _ d a => d == 100 || a == 100
  | .clz _ d a => d == 100 || a == 100
  | .brev _ d a => d == 100 || a == 100
  | .prmt _ d a b => d == 100 || a == 100 || b == 100
  | .bfe _ d a b => d == 100 || a == 100 || b == 100
  | .mov _ d a => d == 100 || a == 100
  | .andi _ d a _ => d == 100 || a == 100
  | .ori _ d a _ => d == 100 || a == 100
  | .xori _ d a _ => d == 100 || a == 100
  | .shli _ d a _ => d == 100 || a == 100
  | .shri _ d a _ => d == 100 || a == 100
  | .shrai _ d a _ => d == 100 || a == 100
  | .bfi _ d a b => d == 100 || a == 100 || b == 100
  | .sel _ d a b _ _ => d == 100 || a == 100 || b == 100
  | .cmpW d a b _ => d == 100 || a == 100 || b == 100
  | .pand d a b => d == 100 || a == 100 || b == 100
  | .por d a b => d == 100 || a == 100 || b == 100
  | .pxor d a b => d == 100 || a == 100 || b == 100
  | .pnot d a => d == 100 || a == 100
  | .pmovs _ d => d == 100
  | .pmovp a b => a == 100 || b == 100
  | .ballot _ d a k => d == 100 || a == 100 || k == 100
  | .vany d a => d == 100 || a == 100
  | .vall d a => d == 100 || a == 100
  | .shflIdx _ d a b => d == 100 || a == 100 || b == 100
  | .shflUp _ d a b => d == 100 || a == 100 || b == 100
  | .shflDn _ d a b => d == 100 || a == 100 || b == 100
  | .shflXor _ d a b => d == 100 || a == 100 || b == 100
  | .elect d => d == 100
  | .readlane _ d a k => d == 100 || a == 100 || k == 100
  | .bcast _ d a => d == 100 || a == 100
  | .match _ d a k => d == 100 || a == 100 || k == 100
  | .wreduceAdd _ d a => d == 100 || a == 100
  | .wreduceMin _ d a => d == 100 || a == 100
  | .wreduceMax _ d a => d == 100 || a == 100
  | .ld d a _ _ => d == 100 || a == 100
  | .st d a _ _ => d == 100 || a == 100
  | .ldaq d a _ _ _ => d == 100 || a == 100
  | .strl d a _ _ _ => d == 100 || a == 100
  | .atomDv d a b _ => d == 100 || a == 100 || b == 100
  | .atomTm d a b _ => d == 100 || a == 100 || b == 100
  | .redDv a b _ => a == 100 || b == 100
  | .redTm a b _ => a == 100 || b == 100
  | .waitc a => a == 100
  | .pchk p q => p == 100 || q == 100
  | .binit q s => q == 100 || s == 100
  | .announceIn q s => q == 100 || s == 100
  | .announceOut q s => q == 100 || s == 100
  | .arrive p q => p == 100 || q == 100
  | .bwait p q s => p == 100 || q == 100 || s == 100
  | .btest p q s => p == 100 || q == 100 || s == 100
  | .semwaitDraw p q => p == 100 || q == 100
  | .semwait q s => q == 100 || s == 100
  | .sempost q s => q == 100 || s == 100
  | .rpushRsv p q => p == 100 || q == 100
  | .rpushPub q s => q == 100 || s == 100
  | .rpopTake p q => p == 100 || q == 100
  | .rpopFree q s => q == 100 || s == 100
  | .rpeek p q => p == 100 || q == 100
  | .hcopy p q => p == 100 || q == 100
  | .hcopys p q => p == 100 || q == 100
  | .hgather p q => p == 100 || q == 100
  | .hscatter p q => p == 100 || q == 100
  | .hstage p q => p == 100 || q == 100
  | .hevict p q => p == 100 || q == 100
  | .hfill p q => p == 100 || q == 100
  | .hmeta p q => p == 100 || q == 100
  | .hquery p q => p == 100 || q == 100
  | .hldr p q _ => p == 100 || q == 100
  | .rring p q => p == 100 || q == 100
  | .rtree p q => p == 100 || q == 100
  | .rstat p q => p == 100 || q == 100
  | .tctl _ q => q == 100
  | .trdc p _ _ => p == 100
  | .tscl _ q => q == 100
  | .gang q => q == 100
  | .tld _ q s => q == 100 || s == 100
  | .tst _ q s => q == 100 || s == 100
  | .azero _ q => q == 100
  | .adrain _ _ q s => q == 100 || s == 100
  | .aread p q _ => p == 100 || q == 100
  | .awrite p q _ => p == 100 || q == 100
  | .tex p q s => p == 100 || q == 100 || s == 100
  | .texb p q s => p == 100 || q == 100 || s == 100
  | .texq p q s => p == 100 || q == 100 || s == 100
  | .hgf p q s => p == 100 || q == 100 || s == 100
  | .hgsFast p q s => p == 100 || q == 100 || s == 100
  | .hgsExact p q s => p == 100 || q == 100 || s == 100
  | .trace q s => q == 100 || s == 100
  | .rsort p q s => p == 100 || q == 100 || s == 100
  | .hitget p q => p == 100 || q == 100
  | .emitv p q s => p == 100 || q == 100 || s == 100
  | .emitp p s => p == 100 || s == 100
  | .msetc p q s => p == 100 || q == 100 || s == 100
  | .srate q => q == 100
  | .fqpop p q => p == 100 || q == 100
  | .finfo p q s => p == 100 || q == 100 || s == 100
  | .fresume p q s => p == 100 || q == 100 || s == 100
  | .fkill p q => p == 100 || q == 100
  | _ => false

end Sys2Proof
end

