-- ==== Sys2Proof/Machine/Fetch.lean ====
section
/-! DEFINITION. Fetching at issue (01 R37; 07 R194; 16 R419, R436). -/
namespace Sys2Proof.Machine

/-- What the fetch at issue finds. -/
inductive Fetched where
  /-- The word or its literal cannot be translated: code and address (01 R37). -/
  | lanes (code va : Nat)
  /-- A line that stays poisoned (16 R436). -/
  | ecc
  /-- No instruction (07 R194, checks 1 to 3). -/
  | reject (r : Reject)
  | instr (i : Instr) (lit : Word)
deriving DecidableEq, Repr

/-- One code word at an address: translated with need X and read. -/
def State.fetchWord (s : State) (key : Nat) (va : Nat) : Except Fetched Nat :=
  match s.translate key va 4 needX with
  | .error code => .error (.lanes code va)
  | .ok pa =>
    if s.mem.poisoned (granOf pa) || sget false s.mem.ueLat (granOf pa) then .error .ecc
    else .ok (memRead s.mem.bytes pa 4)

/-- The check that the fetch of a word at an address meets in its slice (02 R42; 16 R436): an error in its granule is counted, and an
uncorrectable one leaves `PSN`. DESIGN CHOICE (log 125): a line whose check finds no error is read from the fetch buffer, uncounted. -/
def State.noteFetch (s : State) (key pc : Nat) : State :=
  let lit := match s.fetchWord key pc with
    | .ok w => namesLiteral w
    | .error _ => false
  (if lit then [pc, (pc + 4) % 2 ^ 32] else [pc]).foldl (fun (st : State) va => match st.translate key va 4 needX with
    | .ok pa => if sget false st.mem.ceLat (granOf pa) || sget false st.mem.ueLat (granOf pa) then st.setMem (st.mem.check (granOf pa)) else st
    | .error _ => st) s

/-- The instruction at an address of a warp's context, with its literal word (07 R179); both words are fetched before the first is checked
(16 R419). DEDUCED (log 126): the operand fields of a word that 07 R194 refuses are those of its major's format. -/
def State.fetchAt (s : State) (key : Nat) (pc : Nat) : Fetched :=
  match s.fetchWord key pc with
  | .error f => f
  | .ok w =>
    match decodeBytes (bytesOfWord w) with
    | .error r =>
      if namesLiteral w then
        match s.fetchWord key ((pc + 4) % 2 ^ 32) with
        | .error f => f
        | .ok _ => .reject r
      else .reject r
    | .ok (i, _) =>
      if i.literal then
        match s.fetchWord key ((pc + 4) % 2 ^ 32) with
        | .error f => f
        | .ok l => .instr i (BitVec.ofNat 32 l)
      else .instr i 0#32

/-- The fault of a fetch that yields no instruction, on a path (07 R194; 11 R283; 16 R419, R436). -/
def State.fetchFault (s : State) (key nid : Nat) (f : Fetched) : State :=
  match s.warp key with
  | none => s
  | some w =>
    let p := s.node key nid
    let g := guardMask w p
    match f with
    | .lanes code va => s.takeTrap key nid (if g = 0#96 then p.mask else g) (.all code va)
    | .ecc => s.takeTrap key nid p.mask (.warp 22 0 0)
    | .reject .redDest => s.takeTrap key nid p.mask trapOpnd
    | .reject _ => s.takeTrap key nid p.mask trapInstr
    | .instr _ _ => s

/-- Length of the instruction at an address: 8 with a literal word (07 R179). -/
def State.instrLen (s : State) (key pc : Nat) : Nat :=
  match s.fetchWord key pc with
  | .error _ => 4
  | .ok w => match decodeBytes (bytesOfWord w) with
    | .ok (i, _) => if i.literal then 8 else 4
    | .error _ => 4

end Sys2Proof.Machine
end

