-- ==== Sys2Proof/Machine/Control.lean ====
section
/-! DEFINITION. System and control instructions of majors 0x00, 0x01 and 0x02-0x04 (06 R158, R167-R178; 08 R216-R232). -/
namespace Sys2Proof.Machine

/-! ### System -/

/-- 08 R232 NOP. -/
def execNop (s : State) : Host.Outcome State Fault Refusal :=
  issuing s true fun c s1 => return s1.finish c (c.npc []) .keep

/-- 08 R224 EXIT: the active lanes leave; the rest of the path goes on. -/
def execExit (s : State) : Host.Outcome State Fault Refusal :=
  issuing s true fun c s1 => return (s1.finish c (c.npc []) .kill).leaveLanes c.key c.nid c.act

/-- 08 R225 TRAP. -/
def execTrap (code : Nat) (s : State) : Host.Outcome State Fault Refusal :=
  issuing s true fun c s1 =>
    if c.any then .error (.warp 16 1 code) else return s1.finish c (c.npc []) .kill

/-- 08 R225 BKPT. -/
def execBkpt (tag : Nat) (s : State) : Host.Outcome State Fault Refusal :=
  issuing s true fun c s1 =>
    if c.any && (s1.ctx c.w.ctx).dbg then .error (.warp 16 2 tag) else return s1.finish c (c.npc []) .kill

/-- Takes a `%tb` snapshot for a path (08 R229). -/
def State.tbSnap (s : State) (key nid : Nat) : State :=
  s.updNode key nid (fun n => { n with tb := ⟨s.tbase.sec, s.tbase.ns, s.tbase.frac⟩ })

/-- The selectors of 08 R229 that are listed. -/
def srdListed (sel : Nat) : Bool := decide (sel ≤ 22 ∨ (24 ≤ sel ∧ sel ≤ 33))

/-- The value of a special register (08 R229); `tb` is the path's snapshot. -/
def specialReg (s : State) (c : Ctx) (tb : TbSnap) (sel lane : Nat) : Nat :=
  let lo (x : Nat) := x % 2 ^ 32
  let hi (x : Nat) := x / 2 ^ 32 % 2 ^ 32
  match sel with
  | 0 => lane
  | 1 => c.w.warpId
  | 2 => c.w.teamId
  | 3 => c.w.launch % 2 ^ 32
  | 4 => coreOf c.key
  | 5 => subOf c.key
  | 6 => lo s.clk
  | 7 => hi s.clk
  | 8 => lo c.w.cyc
  | 9 => hi c.w.cyc
  | 10 => tb.ns
  | 11 => lo tb.sec
  | 12 => bitsN tb.sec 47 32
  | 13 => tb.frac
  | 14 => lo c.w.deadline
  | 15 => hi c.w.deadline
  | 16 => c.w.view
  | 17 => c.w.stripIx
  | 18 => c.w.srate
  | 19 => c.p.fragId
  | 20 => bitsN c.p.fmask.toNat 31 0
  | 21 => bitsN c.p.fmask.toNat 63 32
  | 22 => bitsN c.p.fmask.toNat 95 64
  | 24 => lo c.w.lsum
  | 25 => hi c.w.lsum
  | 26 => lo c.w.hold
  | 27 => hi c.w.hold
  | 28 => lo c.w.nmem
  | 29 => hi c.w.nmem
  | 30 => c.w.lmax
  | 31 => c.w.nurg
  | 32 => c.w.width
  | 33 => c.w.nwarps
  | _ => 0

/-- 08 R229 SRD. -/
def execSrd (d sel : Nat) (s : State) : Host.Outcome State Fault Refusal :=
  issuing s true fun c s1 => do
    need (srdListed sel && decide (d ≤ 95) && !(isS d && sel == 0)) trapOpnd
    let s2 := if sel = 10 ∧ c.any = true then s1.tbSnap c.key c.nid else s1
    let tb := if sel = 10 then ⟨s1.tbase.sec, s1.tbase.ns, s1.tbase.frac⟩ else c.p.tb
    let val (l : Nat) : Val := ⟨BitVec.ofNat 32 (specialReg s1 c tb sel l), false⟩
    if isS d then
      if c.any then return s2.uniResult c (c.npc []) d (val 0) else return s2.finish c (c.npc []) .keep
    else return s2.laneResult c (c.npc []) 0 d ((lanesOf c.act).map (fun l => (l, val l)))

/-- 08 R230 SWR. -/
def execSwr (a sel : Nat) (s : State) : Host.Outcome State Fault Refusal :=
  execOnce s (fun _ => (sel == 14 || sel == 15) && uniOk a) [a] .keep fun c s1 => do
    let x ← c.uval a
    if sel = 15 then return s1.updNode c.key c.nid (fun n => { n with swr := BitVec.ofNat 32 x })
    else return s1.updWarp c.key (fun w => { w with deadline := c.p.swr.toNat * 2 ^ 32 + x })

/-- Writes words to consecutive registers from `d`: s-registers once, v-registers in the active lanes. -/
def State.writeRegs (s : State) (c : Ctx) (d : Nat) (ws : List Val) : State :=
  let ixs := ws.zip (List.range ws.length)
  s.updWarp c.key (fun w =>
    if isS d then ixs.foldl (fun (a : Warp) x => a.setS (d - 64 + x.2) x.1) w
    else (lanesOf c.act).foldl (fun (a : Warp) l =>
      ixs.foldl (fun (b : Warp) x => b.setVAt (c.p.wb + d + x.2) l x.1) a) w)

/-- 08 R231 CLK. -/
def execClk (d sel : Nat) (s : State) : Host.Outcome State Fault Refusal :=
  issuing s true fun c s1 => do
    let n := if sel = 2 then 4 else 2
    need (decide (sel ≤ 2) && d % n == 0 && decide (d ≤ 95)) trapOpnd
    let x := if sel = 0 then s1.clk else c.w.cyc
    let ws := if sel = 2 then [s1.tbase.frac, s1.tbase.ns, s1.tbase.sec % 2 ^ 32, bitsN s1.tbase.sec 47 32]
      else [x % 2 ^ 32, x / 2 ^ 32]
    let s2 := if c.any then (if sel = 2 then s1.tbSnap c.key c.nid else s1).writeRegs c d
      (ws.map (fun x => ⟨BitVec.ofNat 32 x, false⟩)) else s1
    if isS d then return s2.finish c (c.npc []) .keep
    else
      let w1 := (s2.warp c.key).getD c.w
      return s2.finish c (c.npc []) (.shift ((lanesOf c.p.mask).map (fun l => (l, w1.vAt (c.p.wb + d) l))))

/-- 08 R220 YIELD: the path is not selectable for 4d clk of its sub-core (00 R5), and the warp's age key is reset (15 R415). -/
def execYield (d : Nat) (s : State) : Host.Outcome State Fault Refusal :=
  issuing s true fun c s1 =>
    let s2 := s1.finish c (c.npc []) .kill
    if c.any then
      let till := s1.coreClk (coreOf c.key) (max 1 (4 * d))
      let s3 := s2.updWarp c.key (fun w => { w with age := till })
      return if d = 0 then s3 else s3.updNode c.key c.nid (fun n => { n with wait := .yield till })
    else return s2

/-- 08 R220 SPIN. -/
def execSpin (s : State) : Host.Outcome State Fault Refusal :=
  issuing s true fun c s1 =>
    let s2 := s1.finish c (c.npc []) .kill
    return if c.any then s2.markSpin c.key c.nid else s2

/-- 08 R227 HINT. -/
def execHint (h : Nat) (s : State) : Host.Outcome State Fault Refusal :=
  execOnce s (fun _ => decide (h ≤ 3)) [] .keep fun c s1 =>
    return s1.updWarp c.key (fun w => { w with hint := h })

/-- 08 R228 TIMER. -/
def execTimer (a : Nat) (s : State) : Host.Outcome State Fault Refusal :=
  execOnce s (fun _ => uniOk a) [a] .keep fun c s1 => do
    let x ← c.uval a
    return s1.updWarp c.key (fun w => { w with
      deadline := if x = 0 then 2 ^ 64 - 1 else (s1.clk + x) % 2 ^ 64 })

/-- 08 R226 IDEM. -/
def execIdem (e : Nat) (s : State) : Host.Outcome State Fault Refusal :=
  execOnce s (fun c => decide (e ≤ 1) && !(c.any && ((e == 0 && c.w.ic == 15) || (e == 1 && c.w.ic == 0)))) [] .keep
    fun c s1 => return s1.updWarp c.key (fun w => { w with ic := if e = 0 then w.ic + 1 else w.ic - 1 })

/-! ### Mode -/

/-- A mode image without a reserved code (07 R186). -/
def modeOk (m : Nat) : Bool := decide (bitsN m 7 4 ≤ 10 ∧ bitsN m 10 8 ≤ 5)

/-- 08 R221 MODE. -/
def execMode (m : Nat) (s : State) : Host.Outcome State Fault Refusal :=
  issuing s false fun c s1 => do
    need (modeOk m) trapOpnd
    return (s1.finish c (c.npc []) .keep).updNode c.key c.nid (fun n => { n with mode := BitVec.ofNat 16 m })

/-- 08 R221 MODEX. -/
def execModex (a : Nat) (s : State) : Host.Outcome State Fault Refusal :=
  issuing s false fun c s1 => do
    need (isS a) trapOpnd
    let x ← c.uval a
    need (decide (x < 2 ^ 16) && modeOk x) trapOpnd
    return (s1.finish c (c.npc []) .keep).updNode c.key c.nid (fun n => { n with mode := BitVec.ofNat 16 x })

/-! ### Branches, calls and reconvergence -/

/-- A branch offset in words (07 R190). -/
def branchTo (pc : Word) (off bits : Nat) : Word := pc + BitVec.ofInt 32 (4 * sextN off bits)

/-- 08 R216 BRA. -/
def execBra (inv pr off : Nat) (s : State) : Host.Outcome State Fault Refusal :=
  issuing s false fun c s1 => do
    let target := branchTo c.p.pc off 22
    let next := c.p.pc + 4#32
    let pm := c.w.pAt pr
    let take := c.p.mask &&& (if inv = 1 then ~~~pm else pm)
    let back := decide (target.toNat ≤ c.p.pc.toNat)
    if take = c.p.mask then
      return (s1.finish c target .kill).spinBranch c.key c.nid c.p.pc target
    else if take = 0#96 ∨ target = next then
      let s2 := s1.finish c next .kill
      return if back then s2.updNode c.key c.nid (fun n => { n with spn := false, spc := 0 }) else s2
    else
      let a := (target, take)
      let b := (next, c.p.mask &&& ~~~take)
      let r ← (s1.ctlDone c.key c.p.mask).diverge c.key c.nid (if target.toNat ≤ next.toNat then [a, b] else [b, a]) true
      return r.1

/-- 08 R217 CALL. -/
def execCall (f off : Nat) (s : State) : Host.Outcome State Fault Refusal :=
  issuing s false fun c s1 => do
    let s2 ← s1.slide c.key c.nid f (branchTo c.p.pc off 20) (c.p.pc + 4#32)
    return s2.ctlDone c.key c.p.mask

/-- Lanes whose target is not word-aligned part as a fragment (08 R218); the state, and the path that goes on, if any. -/
def State.partMisaligned (s : State) (c : Ctx) (targets : List (Nat × Nat)) : State × Option Nat :=
  let bad := targets.filter (fun x => x.2 % 4 != 0)
  if bad.isEmpty then (s, some c.nid)
  else
    let s1 := s.takeLaneFaults c.key c.nid c.p.mask (bad.map (fun x => ⟨x.1, 3, x.2, 0⟩)) c.p.pc
    if bad.length = targets.length then (s1, none)
    else match s1.warp c.key with
      | some w =>
        if w.status == .parked then (s1, none)
        else (s1, (s1.children c.key c.nid).find? (fun i => (s1.node c.key i).kind == .path))
      | none => (s1, none)

/-- The pending sides of a path's innermost group hold the instruction itself (06 R170). -/
def State.sidesAt (s : State) (key nid : Nat) (pc : Word) : State :=
  s.updWarp key (fun w => match findAt (fun g => g.owner == nid) w.serial with
    | some (i, g) => { w with serial := setAt w.serial i { g with sides := g.sides.map (fun x => { x with pc := pc }) } }
    | none => w)

/-- BRX and CALLX (08 R218): `call` gives the frame of a CALLX. -/
def execIndirect (a : Nat) (call : Option Nat) (s : State) : Host.Outcome State Fault Refusal :=
  issuing s false fun c s1 => do
    need (c.srcOk a) trapOpnd
    let vals := (lanesOf c.p.mask).map (fun l => (l, c.opnd a l))
    if vals.any (fun x => x.2.psn) then .error (.all 5 0)
    else
      let targets := vals.map (fun x => (x.1, x.2.bits.toNat))
      let link := c.npc [a]
      let good := targets.filter (fun x => x.2 % 4 == 0)
      let gm := maskOf (good.map (·.1))
      match s1.partMisaligned c targets with
      | (s2, none) => return s2
      | (s2, some nid) =>
        let groups := (groupLanes good).map (fun g => (BitVec.ofNat 32 g.1, g.2))
        match groups with
        | [] => return s2
        | [g] =>
          let s3 ← (match call with
            | none => Except.ok ((s2.updNode c.key nid (fun n => { n with pc := g.1, since := s2.clk })).spinBranch c.key nid c.p.pc g.1)
            | some f => s2.slide c.key nid f g.1 link)
          return s3.ctlDone c.key gm
        | g :: _ =>
          let r ← s2.diverge c.key nid groups call.isNone
          let serial := r.2 == [nid]
          match call with
          | none =>
            let ahead := serial && decide (c.p.pc.toNat < g.1.toNat)
            return (if ahead then r.1.spinBranch c.key nid c.p.pc g.1 else r.1).ctlDone c.key gm
          | some f =>
            let ts := (r.2.zip groups).map (fun x => (x.1, x.2.1))
            let s3 ← ts.foldlM (fun (st : State) x => st.slide c.key x.1 f x.2 link)
              (if serial then r.1.sidesAt c.key nid c.p.pc else r.1)
            return s3.ctlDone c.key (if serial then g.2 else gm)

/-- 08 R218 BRX. -/
def execBrx (a : Nat) (s : State) : Host.Outcome State Fault Refusal := execIndirect a none s

/-- 08 R218 CALLX. -/
def execCallx (a f : Nat) (s : State) : Host.Outcome State Fault Refusal := execIndirect a (some f) s

/-- The word address a link names: the program counter's bits [1:0] are zero (07 R179; log 88). -/
def linkPc (x : Nat) : Word := BitVec.ofNat 32 (x / 4 * 4)

/-- 06 R158 RET. -/
def execRet (s : State) : Host.Outcome State Fault Refusal :=
  issuing s false fun c s1 => do
    let ls := lanesOf c.p.mask
    let fr (l : Nat) : Val := c.opnd 62 l
    let lk (l : Nat) : Val := c.opnd 63 l
    if ls.any (fun l => (fr l).psn || (lk l).psn) then .error (.all 5 0)
    else
      need (ls.all (fun l => decide ((fr l).bits.toNat ≤ 63 ∧ (fr l).bits.toNat ≤ c.p.wb))) trapOpnd
      let groups := groupLanes (ls.map (fun l => (l, (lk l).bits.toNat * 64 + (fr l).bits.toNat)))
      match groups with
      | [] => return s1
      | [g] =>
        let s2 ← s1.slideBack c.key c.nid (g.1 % 64) (linkPc (g.1 / 64))
        return s2.ctlDone c.key c.p.mask
      | g :: _ =>
        let r ← s1.diverge c.key c.nid (groups.map (fun x => (linkPc (x.1 / 64), x.2)))
        let serial := r.2 == [c.nid]
        let s3 ← (r.2.zip groups).foldlM (fun (st : State) x =>
            st.slideBack c.key x.1 (x.2.1 % 64) (linkPc (x.2.1 / 64)))
          (if serial then r.1.sidesAt c.key c.nid c.p.pc else r.1)
        return s3.ctlDone c.key (if serial then g.2 else c.p.mask)

/-- 06 R167 JOIN. It never counts as a completion (09 R247). -/
def execJoin (s : State) : Host.Outcome State Fault Refusal :=
  issuing s false fun c s1 =>
    match s1.joinPath c.key c.nid with
    | none => .error trapInstr
    | some s2 => return (s2.ctlDone c.key 0#96).settle c.key 200

/-- 08 R219 AWAIT. -/
def execAwait (a n : Nat) (s : State) : Host.Outcome State Fault Refusal :=
  issuing s true fun c s1 => do
    need (uniOk a) trapOpnd
    if !c.any then return s1.finish c (c.npc [a]) .kill
    else
      let x ← c.uval a
      need (x % 4 == 0) trapOpnd
      let cont := if a = 103 then c.npc [a] else BitVec.ofNat 32 x
      if c.w.ocp = 0 ∧ c.w.oc ≤ n then return s1.finish c cont .kill
      else return (s1.updNode c.key c.nid (fun p => { p with wait := .await n cont })).ctlDone c.key 0#96

/-! ### Spawning and Traverse signals -/

/-- 08 R222 SPAWN: both accesses are translated at its first issue, which reads the block; its step is the path's next issue, from the
read's write-back time on. -/
def execSpawn (d a : Nat) (s : State) : Host.Outcome State Fault Refusal :=
  issuing s true fun c s1 => do
    match c.p.step with
    | some h => return s1.sendStep c (.spawn d a) h.va h.pb c.w.taskDepth (some d) h false
    | none =>
      need (isS d && uniOk a) trapOpnd
      if !c.any then return s1.finish c (c.npc [a]) .kill
      else
        let va ← c.uval a
        match s1.translate c.key va 64 needR with
        | .error k => .error (.all k va)
        | .ok pa =>
          match s1.translate c.key (va + 32) 16 needRWAT with
          | .error k => .error (.all k (va + 32))
          | .ok pb => return s1.sendRead c pa 64 { instr := .spawn d a, at_ := s1.clk, va := va, pb := pb }

/-- The block that a SPAWN reads has come (06 R176; 08 R222): a status that the read decides is written at once. -/
def State.spawnBack (s : State) (c : Ctx) (d a : Nat) (h : HalfIssue) : State :=
  let ends (x : Nat) : State :=
    (((s.putResult c d x).finish c (c.npc [a]) .keep).clearSpin c).updNode c.key c.nid (fun n => { n with step := none })
  if c.w.taskDepth = 4 then ends 1 else if tcbMalformed h.img then ends 2 else s

/-- TSIGNAL and TCOND (08 R223): one atomic step on a word of S-space. `x` is what it writes, where it writes a value. -/
def traverseStep (s : State) (c : Ctx) (i : Instr) (a x : Nat) : Except Trap State := do
  let va ← c.uval a
  match s.translate c.key va 4 needWAT with
  | .error k => .error (.all k va)
  | .ok pa => return s.sendStep c i va pa x none { instr := i, at_ := s.clk }

/-- 08 R223 TSIGNAL. -/
def execTsignal (a : Nat) (s : State) : Host.Outcome State Fault Refusal :=
  issuing s true fun c s1 => do
    need (uniOk a) trapOpnd
    if c.any then traverseStep s1 c (.tsignal a) a 0 else return s1.finish c (c.npc [a]) .kill

/-- 08 R223 TCOND. -/
def execTcond (v a : Nat) (s : State) : Host.Outcome State Fault Refusal :=
  issuing s true fun c s1 => do
    need (uniOk a && uniOk v) trapOpnd
    if c.any then
      let x ← c.uval v
      traverseStep s1 c (.tcond v a) a x
    else return s1.finish c (c.npc [a, v]) .kill

end Sys2Proof.Machine
end

