-- ==== Sys2Proof/Machine/Launch.lean ====
section
/-! DEFINITION. Launch records, their acceptance from a hardware queue, what Plumb takes, and the end of a launch
(15 R393-R399, R409; 16 R435). -/
namespace Sys2Proof.Machine

/-! ### Launch records -/

/-- `LKIND` (15 R395). -/
def lrKind (x : Nat) : Nat := bitsN x 374 372
/-- `FRAMENO`. -/
def lrFrame (x : Nat) : Nat := bitsN x 255 224
/-- `PIPE`. -/
def lrPipe (x : Nat) : Nat := bitsN x 260 259
/-- `DRAWSEQ`. -/
def lrDraw (x : Nat) : Nat := bitsN x 223 208
/-- Teams of the launch. -/
def lrTeams (x : Nat) : Nat := bitsN x 371 348 + 1

/-- Malformed launch records (15 R396). `inQueue` says that the record was read from a queue. -/
def launchMalformed (x : Nat) (inQueue : Bool) : Bool :=
  let k := lrKind x
  let foot := footOk (bitsN x 417 416) (bitsN x 415 410) (bitsN x 399 384) (bitsN x 383 379 + 1)
  let pkrec := bitsN x 299 274 != 0
  let nnm1 := bitsN x 273 262 != 0
  let frame := bitsN x 261 259 != 0 || bitsN x 255 224 != 0
  let draw := lrDraw x != 0
  let pv := bitN x 261
  bitsN x 258 256 != 0 || bitsN x 207 192 != 0 || bitsN x 63 0 != 0
    || (bitN x 378 && k != 0)
    || (match k with
      | 0 => !foot || pkrec || nnm1 || frame || draw
      | 1 => !foot || nnm1 || !pv
      | 2 => bitsN x 511 375 != 0 || bitsN x 371 262 != 0 || !pv || draw || bitsN x 191 64 != 0
      | 3 => bitsN x 511 376 != 0 || bitsN x 371 300 != 0 || frame || draw || bitsN x 191 64 != 0
      | 4 => inQueue || !foot || bitsN x 417 416 != 1 || bitN x 377 || bitsN x 383 379 != 0 || bitsN x 371 348 != 0
          || bitN x 375 || pkrec || nnm1 || frame || bitsN x 191 64 != 0
      | _ => true)

/-- The team of a launch with an index, before it is placed (15 R395, R398). -/
def Launch.teamOf (l : Launch) (lid tid : Nat) : Team :=
  let x := l.image
  let nw := bitsN x 383 379 + 1
  { ctx := l.ctx, launch := lid, teamId := tid, status := .waiting, kpc := bitsN x 447 418 * 4
    width := 32 * bitsN x 417 416, depth := 8 * bitsN x 415 410, frame := 8 * bitsN x 409 400
    scratch := 256 * bitsN x 399 384, nw := nw, pair := bitN x 378, ash := bitN x 377, idem := bitN x 376
    energy := bitsN x 347 332, strip := l.strip, handler := l.handler
    args := [bitsN x 191 160, bitsN x 159 128, bitsN x 127 96, bitsN x 95 64], s4 := l.recAddr % 2 ^ 32, s5 := l.s5
    queue := l.queue, wdl := bitsN x 331 300, left := if bitN x 378 then 2 * nw else nw
    stage := if l.kind = 1 then 1 else if l.kind = 4 then 2 else 0
    pipe := (l.plumb.getD 0), rsv := l.rsv, deadlineAt := l.deadlineAt, stripIx := l.stripIx, srate := l.srate }

/-- A record of 64 bytes read as engine traffic in a context's S-space: none where it does not translate or delivers poison. -/
def State.readRec (s : State) (ctx va : Nat) : Option Nat × State :=
  match s.ctxPa ctx va needR with
  | none => (none, s)
  | some pa => s.devRead pa 64

/-- A hardware queue. -/
def State.queue (s : State) (q : Nat) : HwQueue := sget {} s.queues q
/-- Replaces a hardware queue. -/
def State.setQueue (s : State) (q : Nat) (x : HwQueue) : State := { s with queues := sput {} s.queues q x }

/-- `TICKETS` as a decision uses it: a write takes effect after the clk in which it arrives (15 R402). -/
def HwQueue.ticketsNow (q : HwQueue) (clk : Nat) : Nat :=
  match q.ticketsWas with
  | some (c, old) => if clk ≤ c then old else q.tickets
  | none => q.tickets
/-- `TICKETS` is written. -/
def HwQueue.withTickets (q : HwQueue) (clk n : Nat) : HwQueue := { q with tickets := n, ticketsWas := some (clk, q.ticketsNow clk) }

/-- A launch receives its identity (15 R394 step 3). -/
def State.addLaunch (s : State) (l : Launch) : Nat × State :=
  (s.launchCtr, { s.setLaunch s.launchCtr (some l) with launchCtr := s.launchCtr + 1 })

/-- An acceptance whose record is malformed takes an identity for its journal record, and no launch (15 R394 steps 3 and 4, R397). -/
def State.badLaunch (s : State) (src pos ctx : Nat) : State :=
  ({ s with launchCtr := s.launchCtr + 1 } : State).journal src s.launchCtr pos 2 ctx 0

/-- The launch a graph node or a strip chain places from a record at an address (15 R411, R412; 14 R385); none where the
record is unreadable, malformed or of another kind. `src` and `pos` stand in its journal records (18 R469; log 48). -/
def State.innerLaunch (s : State) (ctx va kind queue parent src pos : Nat) : Option Nat × State :=
  match s.readRec ctx va with
  | (none, s1) => (none, s1)
  | (some x, s1) =>
    if launchMalformed x false || lrKind x != kind then (none, s1)
    else
      let r := s1.addLaunch { queue := queue, ctx := ctx, pos := pos, src := src, recAddr := va, image := x, kind := kind
                              parent := some parent }
      (some r.1, r.2)

/-! ### The end of a launch -/

/-- Whether a strip chain placed a launch and no longer waits for it (14 R385). -/
def State.launchLoose (s : State) (lid : Nat) (l : Launch) : Bool :=
  match l.parent with
  | some k => decide (8 ≤ k) && (sget {} s.pipes (k - 8)).chains.all (fun c => c.launches.all (fun x => x.2 != lid))
  | none => false

/-- A launch ends: COMPLETE or FAILED in the journal unless a graph or a chain placed it, and its tasks not yet queued are
abandoned (15 R397; 16 R435; 06 R177). -/
def State.finishLaunch (s : State) (lid : Nat) (failed : Bool) : State :=
  match s.launch lid with
  | none => s
  | some l =>
    if l.done then s
    else
      let bad := l.failed || failed
      let s1 := { s with waitTasks := s.waitTasks.filter (fun x => x.launch != lid) }
      let s2 := if l.handler then s1.setCtx l.ctx { s1.ctx l.ctx with hrun := (s1.ctx l.ctx).hrun - 1 } else s1
      if s.launchLoose lid l then s2.setLaunch lid none
      else if l.parent.isSome then s2.setLaunch lid (some { l with done := true, failed := bad })
      else (s2.setLaunch lid none).journal l.src lid l.pos (if bad then 4 else 3) l.ctx 0

/-- Whether a launch has ended. -/
def State.launchOver (s : State) (lid : Nat) : Bool :=
  match s.launch lid with
  | some l => l.done
  | none => true

/-! ### What Plumb takes -/

/-- A pipeline. -/
def State.pipe (s : State) (p : Nat) : Pipe := sget {} s.pipes p
/-- Replaces a pipeline. -/
def State.setPipe (s : State) (p : Nat) (x : Pipe) : State := { s with pipes := sput {} s.pipes p x }
/-- Changes a pipeline. -/
def State.updPipe (s : State) (p : Nat) (f : Pipe → Pipe) : State := s.setPipe p (f (s.pipe p))

/-- A launch joins its frame's BIN node (15 R409): a MESH launch's teams are released. -/
def State.giveBin (s : State) (p : Nat) (b : Bin) (lid : Nat) (l : Launch) : State :=
  let put (b1 : Bin) (st : State) : State :=
    st.updPipe p (fun x => { x with bins := x.bins.map (fun y => if y.frame = b.frame then b1 else y) })
  if l.kind = 2 then put { b with fes := b.fes ++ [lid], before := if b.fes.isEmpty then b.launches else b.before } s
  else
    let s1 := s.setLaunch lid (some { l with strip := true, deadlineAt := some b.dl, plumb := some p })
    { put { b with launches := b.launches ++ [lid] } s1 with binQ := s1.binQ ++ [.launch lid] }

/-- Plumb takes a MESH or FRAMEEND launch at acceptance (15 R409): it joins a BIN node, is held for a frame ahead, or fails. -/
def State.plumbTake (s : State) (lid : Nat) : State :=
  match s.launch lid with
  | none => s
  | some l =>
    let p := lrPipe l.image
    let n := lrFrame l.image
    let x := s.pipe p
    let now := x.cur.getD (x.n0 + 2 ^ 32 - 1)
    let ahead := (n + 2 ^ 32 - now % 2 ^ 32) % 2 ^ 32
    if !x.en then s.finishLaunch lid true
    else match x.bins.find? (fun b => b.frame % 2 ^ 32 == n) with
      | some b => if b.st = .running then s.giveBin p b lid l else s.finishLaunch lid true
      | none =>
        if 2 ≤ ahead ∧ ahead < 2 ^ 31 then s.updPipe p (fun x => { x with held := x.held ++ [lid] })
        else s.finishLaunch lid true

/-! ### Completion -/

/-- Whether no team or task of a launch is placed, queued or running. -/
def State.launchQuiet (s : State) (lid : Nat) : Bool :=
  s.teams.all (fun x => match x.2 with
    | some t => t.launch != lid || (t.gone == 2 && (t.stage != 1 || t.handed))
    | none => true) && s.taskQ.all (fun x => x.launch != lid)

/-- Whether a launch has nothing placed, queued or running (16 R435). A graph has nothing left when no node is running
(15 R412); a FRAMEEND launch ends with its BIN node (15 R409). -/
def State.launchIdle (s : State) (lid : Nat) (l : Launch) : Bool :=
  let quiet := s.launchQuiet lid
  match l.kind with
  | 2 => false
  | 3 => (match l.walker with
    | some k => (match sget none s.walkers k with
      | some w => w.nodes.all (fun x => x.2.st != 2)
      | none => true)
    | none => false)
  | 4 => s.launchLoose lid l && quiet
  | _ => decide (lrTeams l.image ≤ l.nextTeam) && l.again.isEmpty && quiet

/-- The teams of a launch that have released their footprints end, once every access of theirs lets their end be observed (04 R109). -/
def State.endTeams (s : State) (lid : Nat) : State :=
  s.teams.foldl (fun st x => match x.2 with
    | some t => if t.launch = lid ∧ t.gone = 1 ∧ t.gapAt ≤ st.clk then ((st.teamEnd x.1).setTeam x.1 (some { t with gone := 2 })).dropEnded x.1
      else st
    | none => st) s

/-- 16 R435, 15 R412: a launch with nothing left completes; a graph frees its walker, and its failed node fails it. -/
def execLaunchComplete (l : Nat) (s0 : State) : Host.Outcome State Fault Refusal :=
  .next <|
    let s := s0.endTeams l
    match s.launch l with
    | none => s
    | some x =>
      if x.done || !s.launchIdle l x then s
      else
        match x.walker with
        | some k =>
          let bad := match sget none s.walkers k with
            | some w => w.failed
            | none => false
          ({ s with walkers := sput none s.walkers k none } : State).finishLaunch l bad
        | none => s.finishLaunch l false

end Sys2Proof.Machine
end

