-- ==== Sys2Proof/Machine/Accept.lean ====
section
/-! DEFINITION. Acceptance of launch records (15 R394-R397, R409). -/
namespace Sys2Proof.Machine

/-- Whether an entry waits in a queue, not being read (15 R394). -/
def HwQueue.waits (q : HwQueue) : Bool := q.en && q.head != q.tail && q.readDue.isNone

/-- Address of the entry at a queue's head. -/
def HwQueue.entry (q : HwQueue) : Nat := q.rbase * 256 + 64 * (q.head % 2 ^ (q.rlog2 + 4))

/-- Whether a record is a launch for a pipeline that holds 4,096 of them, which holds it back (15 R409). -/
def State.plumbFull (s : State) (x : Nat) : Bool :=
  !launchMalformed x true && (lrKind x == 1 || lrKind x == 2) && (s.pipe (lrPipe x)).en && decide (4096 ≤ (s.pipe (lrPipe x)).held.length)

/-- Whether a queue's head entry is such a launch. -/
def State.entryHeld (s : State) (q : HwQueue) : Bool :=
  match (s.readRec q.ctx q.entry).1 with
  | none => false
  | some x => s.plumbFull x

/-- The queue whose entry is read next: round robin by queue number (15 R394). -/
def State.nextQueue (s : State) : Option Nat :=
  ((List.range 64).map (fun k => (s.arb.lastQ + 1 + k) % 64)).find? (fun q => (s.queue q).waits && !s.entryHeld (s.queue q))

/-- The key of the flight that brings a queue's entry. -/
def entryKey (q : Nat) : Nat := 2 ^ 22 + q

/-- Checks, numbers and journals the entry at a queue's head, as read: none where the read failed or brought poison (15 R394-R397). Context 0
holds no teams (18 R460), so that a launch of a queue of context 0 is malformed (log 48). -/
def State.acceptEntry (s : State) (q : Nat) (x : Option Nat) : State :=
  let h := s.queue q
  let s1 := s.setQueue q { h with head := (h.head + 1) % 2 ^ 32, readDue := none }
  match x.filter (fun x => !launchMalformed x true && h.ctx != 0) with
  | none => s1.badLaunch q h.head h.ctx
  | some x =>
      let r := s1.addLaunch { queue := q, ctx := h.ctx, pos := h.head, recAddr := h.entry, image := x, kind := lrKind x, src := q }
      let s2 := r.2.journal q r.1 h.head 1 h.ctx 0
      if lrKind x = 1 ∨ lrKind x = 2 then s2.plumbTake r.1 else s2

/-- Control stop 20 reads the entry at a queue's head (15 R394 step 1); one that does not translate is malformed at once. -/
def State.readEntry (s : State) (q : Nat) : State :=
  let h := s.queue q
  let s0 := { s with arb := { s.arb with lastQ := q, accAt := s.clk + 1 } }
  match s0.ctxPa h.ctx h.entry needR with
  | none => s0.acceptEntry q none
  | some pa =>
    let r := s0.edgeBeat 20 (entryKey q) deviceAgent (.load false) (.hod 0) pa 64 0 0
    r.1.setQueue q { h with readDue := some r.2.2 }

/-- The entry has come: it is accepted, unless its pipeline holds it back (15 R394, R409). -/
def State.entryComes (s : State) (q : Nat) : State :=
  match s.flights.find? (fun f => f.key == entryKey q) with
  | none => s
  | some f =>
    let x := if f.unitGot.2.1 = 0 then some f.unitGot.1 else none
    if (x.map s.plumbFull).getD false then s
    else ({ s with flights := s.flights.filter (fun f => f.key != entryKey q) } : State).acceptEntry q x

/-- 15 R394: a queue's next launch record is read, and when it has come, checked, numbered and journalled; at most one acceptance starts
per mesh clk, and the queues are served in round robin. -/
def execLaunchAccept (q : Nat) (s : State) : Host.Outcome State Fault Refusal :=
  .next <|
    match (s.queue q).readDue with
    | some d => if s.clk < d then s else s.entryComes q
    | none => if decide (s.arb.accAt ≤ s.clk) && s.nextQueue == some q then s.readEntry q else s

end Sys2Proof.Machine
end

