-- ==== Sys2Proof/Machine/Asset.lean ====
section
/-! DEFINITION. The LPDDR 6 controllers: accesses, refresh and scrubbing (03 R70-R75, R91), and the patrol scrubber of the
slices (02 R43). -/
namespace Sys2Proof.Machine

/-- The clk at which refresh slot `k` of a sub-channel falls due (03 R74). -/
def refDue (epoch q k : Nat) (twice : Bool) : Nat := epoch + (if twice then 128 * k + 2 * q else 256 * k + 4 * q)

/-- Whether a bank of a sub-channel is idle. -/
def SubCh.idle (c : SubCh) (clk b : Nat) : Bool := decide (sget 0 c.busy b ≤ clk)

/-- Clk of the span `a` to `b` that refreshes of a bank held, the latest refresh first (03 R90). -/
def refShare : List (Nat × Nat) → Nat → Nat → Nat
  | [], _, _ => 0
  | x :: rest, a, b => (min b x.2 - max a x.1) + refShare rest a (min b (max a x.1))

/-- What an access has read reaches whoever asked for it (03 R73): data, a poison bit per byte, status, the clk in which it is ready. -/
def State.lpAnswers (s : State) (w : LpWho) (data psn st r : Nat) : State :=
  match w with
  | .unit c i n =>
    (match (s.hod c).slot i with
    | some f => s.setXfer c i { f with buf := f.buf.map (fun u =>
        if u.id = n then { u with data := data, psn := psn, st := st, stage := .ready r } else u) }
    | none => s)
  | .walk c i =>
    (match (s.hod c).slot i with
    | some f => s.setXfer c i { f with walk := f.walk.map (fun w => { w with data := data, st := st, stage := .ready r }) }
    | none => s)
  | .write _ => s
  | .other => s

/-- 03 R72, R73: the controller starts the oldest access that has arrived at a bank. A unit's wait is counted (R90). DESIGN CHOICE (log 121): the data
pins serve whole accesses in the order of their starts, of one clk's the lower bank's first. -/
def execLpddrAccessStart (q b : Nat) (s : State) : Host.Outcome State Fault Refusal :=
  .next <|
    let c := s.lp.subOf q
    match sget [] c.accq b with
    | [] => s
    | a :: rest =>
      if c.forced || !c.idle s.clk b || decide (s.clk < a.at_) then s
      else
        let n := (a.pa + a.len - 1) / 32 + 1 - a.pa / 32
        let p0 := max (4 * (s.clk + 48)) c.pins
        let c1 := { c with accq := sput [] c.accq b rest, busy := sput 0 c.busy b (s.clk + 56 + (7 * (n - 1) + 3) / 4), pins := p0 + 7 * n }
        let lp1 := { s.lp with sub := sput {} s.lp.sub q c1 }
        if a.write then s.setLp lp1
        else
          let r := lp1.read a.pa a.len
          let s1 := s.setLp r.2.2.2
          let rf := refShare (sget [] c.refIv b) a.at_ s.clk
          let bk := (s.clk - a.at_ - rf) + (p0 - 4 * (s.clk + 48) + 3) / 4
          let s2 := match a.who with
            | .unit k _ _ => s1.countHod k (fun h => { h with rfstall := satAdd h.rfstall rf 32, bkstall := satAdd h.bkstall bk 32 })
            | _ => s1
          s2.lpAnswers a.who r.1 r.2.1 r.2.2.1 ((p0 + 7 * (n - 1) + 3) / 4)

/-- 03 R74, R75: a refresh slot falls due: it joins the list, or at debt 8 forces an all-bank refresh. None does during a wipe
(03 R93). -/
def execRefreshSlotDue (q : Nat) (s : State) : Host.Outcome State Fault Refusal :=
  .next <|
    let c := s.lp.subOf q
    if s.life.wiping || decide (s.clk < refDue s.lp.epoch q c.nslot c.twice) then s
    else
      let c1 := { c with nslot := c.nslot + 1 }
      let c2 := if c.list.length ≥ 8 then { c1 with forced := true, forcedAt := s.clk }
        else { c1 with
          list := c.list ++ [⟨c.nslot % 16, refDue s.lp.epoch q c.nslot c.twice, false⟩], debtMax := max c.debtMax (c.list.length + 1) }
      s.setLp { s.lp with sub := sput {} s.lp.sub q c2 }

/-- Whether a refresh of a sub-channel has started in a clk: at most one does (03 R75). -/
def SubCh.refreshed (c : SubCh) (clk : Nat) : Bool := c.refIv.any (fun e => e.2.any (fun x => x.1 == clk && x.2 == clk + 144))

/-- A refresh holds a bank for a span: it is remembered, latest first, with those that an access queued at the bank has met (03 R90). -/
def SubCh.noteRef (c : SubCh) (b lo hi : Nat) : SubCh :=
  { c with refIv := supd [] c.refIv b (fun l => (lo, hi) :: l.filter (fun x => (sget [] c.accq b).any (fun a => decide (a.at_ < x.2)))) }

/-- Whether an access has arrived at a bank and waits (03 R73, R75). -/
def SubCh.queued (c : SubCh) (clk b : Nat) : Bool := (sget [] c.accq b).any (fun a => decide (a.at_ ≤ clk))

/-- 03 R75: the oldest slot's per-bank refresh starts. -/
def execPerBankRefresh (q : Nat) (s : State) : Host.Outcome State Fault Refusal :=
  .next <|
    let c := s.lp.subOf q
    match c.list with
    | [] => s
    | r :: rest =>
      if c.forced || c.refreshed s.clk || !c.idle s.clk r.bank || c.queued s.clk r.bank then s
      else
        let till := s.clk + 144
        s.setLp { s.lp with sub := sput {} s.lp.sub q { c.noteRef r.bank s.clk till with
          list := rest, busy := sput 0 c.busy r.bank till
          refpb := satAdd c.refpb 1 32
          refpp := if !r.counted && decide (r.due < s.clk) then satAdd c.refpp 1 32 else c.refpp } }

/-- 03 R75: the forced all-bank refresh runs once every bank is idle. -/
def execAllBankRefresh (q : Nat) (s : State) : Host.Outcome State Fault Refusal :=
  .next <|
    let c := s.lp.subOf q
    if !c.forced || !(List.range 16).all (fun b => c.idle s.clk b) then s
    else
      let till := s.clk + 288
      let all := (List.range 16).map (fun b => (b, till))
      let c1 := (List.range 16).foldl (fun d b => d.noteRef b c.forcedAt till) c
      s.setLp { s.lp with sub := sput {} s.lp.sub q { c1 with
        list := [], forced := false, busy := all, refab := satAdd c.refab 1 32
        refpp := satAdd c.refpp ((c.list.filter (fun r => !r.counted)).length) 32 } }

/-- 03 R74: every 1 ms the controller reads the devices' refresh-rate indication, `r`: nonzero asks for 2× rate. The first reading is
at the end of the wipe (log 91). -/
def execRefreshRatePoll (q r : Nat) (s : State) : Host.Outcome State Fault Refusal :=
  .next <|
    let c := s.lp.subOf q
    if s.life.wiping || decide (s.clk < c.pollAt) then s else
    let twice := r != 0
    let el := s.clk - s.lp.epoch
    let k := if twice then (if el < 2 * q then 0 else (el - 2 * q) / 128 + 1) else (if el < 4 * q then 0 else (el - 4 * q) / 256 + 1)
    let c1 := { c with pollAt := s.clk + 1050000 }
    s.setLp { s.lp with sub := sput {} s.lp.sub q (if twice = c.twice then c1 else { c1 with twice := twice, nslot := k }) }

/-- The `n`-th burst of a sub-channel's scrub pass (03 R67, R71). -/
def scrubBurst (q n : Nat) : Nat := n % 2 ^ 28 / 8 * 2 ^ 14 + q * 256 + n % 8 * 32

/-- 03 R71: the controller scrubs the burst that holds an address, in a clk in which its bank is idle with nothing queued. -/
def execLpddrScrub (a : Nat) (s : State) : Host.Outcome State Fault Refusal :=
  .next <|
    let q := lpSub a
    let c := s.lp.subOf q
    if s.life.wiping || c.forced || !c.idle s.clk (lpBank a) || c.queued s.clk (lpBank a) then s
    else
      let lp1 := if lpPresent a then (s.lp.checkBurst (a / 32)).2 else s.lp
      s.setLp (lp1.updSub q (fun d => if a / 32 * 32 = scrubBurst q d.scrubbed then { d with scrubbed := d.scrubbed + 1 } else d))

/-- Whether a bank slot of a granule's bank is reserved in the present clk (02 R43). -/
def State.bankHeld (s : State) (g : Nat) : Bool :=
  s.slotsHeld.any (fun b => b.slot == s.clk && bankOf b.gran == bankOf g)

/-- 02 R43: in a bank slot that is not reserved the patrol scrubber reads the granule that holds an address and writes back what it
corrects; its pass over the slice ends with the last granule. -/
def execPatrolScrub (a : Nat) (s : State) : Host.Outcome State Fault Refusal :=
  .next <|
    let g := granOf a
    let sl := granSlice g
    if sl ≥ 192 ∨ s.life.wiping = true ∨ s.bankHeld g = true then s
    else
      let m := (s.mem.check g).rewritten g
      let n := sget 0 m.patrol sl
      if g % 2 ^ 19 ≠ n % 2 ^ 19 then s.setMem m
      else
        let m1 := { m with patrol := sput 0 m.patrol sl (n + 1) }
        s.setMem (if (n + 1) % 2 ^ 19 = 0 then m1.updCtr sl (fun c => { c with scrub := satAdd c.scrub 1 32 }) else m1)

/-- Slots that were not started in the clk in which they fell due count as postponed (03 R75). -/
def Lpddr.countPostponed (lp : Lpddr) (clk : Nat) : Lpddr :=
  { lp with sub := lp.sub.map (fun x =>
      let n := (x.2.list.filter (fun r => !r.counted && decide (r.due < clk))).length
      (x.1, { x.2 with refpp := satAdd x.2.refpp n 32, list := x.2.list.map (fun r => { r with counted := r.counted || decide (r.due < clk) }) })) }

end Sys2Proof.Machine
end

