-- ==== Sys2Proof/Machine/Fab.lean ====
section
/-! DEFINITION. Fabric reductions, peer requests and Hexost ports (01 R35; 11 R300-R306; 18 R472, R473). -/
namespace Sys2Proof.Machine

/-- A core's reduction queue. -/
def State.fabQ (s : State) (core : Nat) : FabQueue := sget {} s.fabs core
/-- Replaces a core's reduction queue. -/
def State.setFab (s : State) (core : Nat) (x : FabQueue) : State := { s with fabs := sput {} s.fabs core x }

/-- RRING and RTREE (11 R300): issue checks as 11 R291; with four commands queued the instruction does not issue. -/
def execReduce (tree : Bool) (p q : Nat) (s : State) : Host.Outcome State Fault Refusal :=
  issuing s true fun c s1 => do
    need ((p == 0 || isS p) && uaddrOk q) trapOpnd
    if !c.any then return s1.finish c (c.npc []) .kill
    else
      let x := c.addr q 0
      need (!x.2) (.all 5 x.1)
      need (x.1 % 64 == 0) (.all 3 x.1)
      let core := coreOf c.key
      let f := s1.fabQ core
      if f.cmds.length ≥ 4 then return s1
      else
        let cmd : FabCmd := { tree := tree, ctx := c.w.ctx, team := some c.w.team, warp := c.w.warpId, recAddr := x.1, seq := f.nseq,
                              pad := (s1.team c.w.team).map Team.pad, ready := max s1.clk c.w.releaseAt, issued := s1.clk }
        let s2 := s1.setFab core { f with cmds := f.cmds ++ [cmd], nseq := (f.nseq + 1) % 2 ^ 18 }
        let s3 := if p = 0 then s2 else s2.putResult c p (fieldN 1 30 2 + fieldN core 22 8 + f.nseq)
        return s3.finish c (c.npc []) .kill

/-- 11 R300 RRING. -/
def execRring (p q : Nat) (s : State) : Host.Outcome State Fault Refusal := execReduce false p q s
/-- 11 R300 RTREE. -/
def execRtree (p q : Nat) (s : State) : Host.Outcome State Fault Refusal := execReduce true p q s

/-- `LEN` of a reduction record (11 R301). -/
def fabLen (x : Nat) : Nat := bitsN x 383 352
/-- Bytes of a chunk (11 R304). -/
def FabCmd.chunk (c : FabCmd) : Nat :=
  let x := c.image.getD 0
  if c.tree then fabLen x else 2 ^ (16 + bitsN x 347 345)
/-- Number of chunks (11 R304). -/
def FabCmd.chunks (c : FabCmd) : Nat :=
  let x := c.image.getD 0
  if c.tree then 1 else (fabLen x + c.chunk - 1) / c.chunk

/-- Malformed reduction records (11 R301, R302). -/
def fabMalformed (tree : Bool) (x : Nat) : Bool :=
  decide (fabLen x % 256 ≠ 0 ∨ bitsN x 351 348 > 4 ∨ bitN x 344 = true ∨ bitsN x 269 0 ≠ 0)
    || (if tree then decide (fabLen x < 256 ∨ fabLen x > 65536 ∨ bitsN x 347 345 ≠ 0)
        else decide (fabLen x < 2 ^ 20 ∨ bitsN x 347 345 > 4))

/-- Changes the command at the head of a core's reduction queue. -/
def State.updFabHead (s : State) (core : Nat) (f : FabCmd → FabCmd) : State :=
  let q := s.fabQ core
  match q.cmds with
  | c :: rest => s.setFab core { q with cmds := f c :: rest }
  | [] => s

/-- The head command completes in queue order (11 R300, R306). -/
def State.fabDone (s : State) (core st : Nat) : State :=
  let q := s.fabQ core
  match q.cmds with
  | c :: rest =>
    (s.setFab core { q with
      cmds := rest, cseq := (q.cseq + 1) % 2 ^ 18
      log := ((c.seq, st, c.posted.length, c.replays) :: q.log).take 16 }).wakeTickets
  | [] => s

/-- The attachment by which the reduction engine that serves a core reaches a slice (02 R58). DESIGN CHOICE (log 114): stop 22 serves the cores of
rows 0 to 5, stop 23 the others. -/
def fabEdge (core pa : Nat) : Nat := hexostEdge (if core < 96 then 22 else 23) (granSlice (granOf pa))

/-- Reads `n` bytes of S-space through a context as the engine of a core does: a status, or the value and its data status. -/
def State.fabRead (s : State) (core ctx va n : Nat) : (Except Nat (Nat × Nat)) × State :=
  match (s.ctx ctx).xlateS va needR with
  | .error k => (.error (statusOf k), s)
  | .ok pa => let r := s.stopRead (fabEdge core pa) pa n; (.ok (r.1, r.2.2.1), r.2.2.2)

/-- The members named by a group table (11 R302); one that cannot be read, or is poisoned (02 R42), names no device. -/
def State.fabMembers (s : State) (core ctx base n : Nat) : List Nat × State :=
  (List.range ((2 * n + 31) / 32)).foldl (fun (a : List Nat × State) i =>
    let k := min 16 (n - 16 * i)
    match a.2.fabRead core ctx (base + 64 + 32 * i) (2 * k) with
    | (.ok (x, st), s1) => (a.1 ++ (List.range k).map (fun j => if st = 0 then bytesAt x (2 * j) 2 else 2 ^ 16), s1)
    | (.error _, s1) => (a.1 ++ List.replicate k (2 ^ 16), s1)) ([], s)

/-- Whether a device can be reached (01 R35; 18 R472). -/
def Fabric.reach (f : Fabric) (dev : Nat) : Bool := dev == f.devid || bitN (sget 0 f.routes dev) 15

/-- 11 R291, R301, R302: the head reduction command's record and group table are read and checked, and it starts. A member to which no route
leads ends it with status 10 (01 R35). DESIGN CHOICE (log 115): `SRC` or `DST` in a space that R301 does not name, P-space among them, ends it
with status SPACE. -/
def execReductionCommandStart (core : Nat) (s : State) : Host.Outcome State Fault Refusal :=
  .next <|
    match (s.fabQ core).cmds with
    | [] => s
    | c :: _ =>
      if c.started || decide (s.clk < c.ready) || !(match c.team with
        | some t => s.forkFree t c.warp c.issued
        | none => true) then s
      else if c.early ≠ 0 then s.fabDone core c.early
      else
        let hc : HodCmd := { op := 0, ctx := c.ctx, team := c.team, pad := c.pad }
        match (if spaceOf c.recAddr ≤ 1 then s.hodXlate core 0 hc c.recAddr needR else .error 1) with
        | .error k => s.fabDone core k
        | .ok pa =>
          let r := s.stopRead (fabEdge core pa) pa 64
          let s1 := r.2.2.2
          let x := r.1
          if r.2.1 != 0 || fabMalformed c.tree x then s1.fabDone core 16
          else
            let gt := bitsN x 314 289 * 64
            match s1.fabRead core c.ctx gt 64 with
            | (.error k, s2) => s2.fabDone core k
            | (.ok (h, st), s1) =>
              let n := bitsN h 15 0
              let r := if n > 8192 then ([], s1) else s1.fabMembers core c.ctx gt n
              let ms := r.1
              let s2 := r.2
              let rank := bitsN h 31 16
              if st ≠ 0 ∨ bitsN h 511 64 ≠ 0 ∨ n = 0 ∨ n > 8192 ∨ rank ≥ n ∨ ms.any (fun e => decide (e ≥ 2 ^ 13)) = true
                  ∨ ms.getD rank 0 ≠ s2.fab.devid ∨ bitsN h 47 32 ≠ (s2.ctx c.ctx).group then s2.fabDone core 16
              else if (spaceOf (recSrc x) ≠ 0 ∧ spaceOf (recSrc x) ≠ 2) ∨ (spaceOf (recDst x) ≠ 0 ∧ spaceOf (recDst x) ≠ 2) then
                s2.fabDone core 1
              else if !ms.all s2.fab.reach then s2.fabDone core 10
              else s2.updFabHead core (fun c => { c with
                image := some x, nmemb := n, rank := rank, gen := bitsN h 63 48, members := ms, started := true })

/-- Whether this device exports the receive window of a reduction record with `RED`, at least two chunks long (01 R35; 11 R301). -/
def State.xwinOk (s : State) (c : FabCmd) : Bool :=
  (s.fab.exportFor (bitsN (c.image.getD 0) 288 270 * 65536) (2 * c.chunk) 2 (s.ctx c.ctx).group).isSome

/-- The head reduction of a core is to end with a status: it ends once the chunks that it has written are posted, so that the bytes of an
unposted chunk are the old ones (11 R305). -/
def State.fabEnd (s : State) (core st : Nat) : State :=
  match (s.fabQ core).cmds with
  | c :: _ => if c.wrote.isEmpty then s.fabDone core (worse c.status st) else s.updFabHead core (fun c => { c with fin := worse c.fin st })
  | [] => s

/-- A reduction replays its unposted chunks from their start (11 R305). -/
def FabCmd.replay (c : FabCmd) : FabCmd := { c with recv := [], wrote := [], replays := c.replays + (c.chunks - c.posted.length) }

/-- 11 R301, R305: a member's contribution to a chunk arrives at the receive window, which `recv` stands for (log 95); without the window
it is rejected (01 R35). What it holds is the member's (log 3): a message that differs from this member's own record ends the reduction with
status 17; the member may have rejected this member's own message, with status 11 (01 R35); and it may tell of a failed link between
members, after which every unposted chunk is replayed. -/
def execChunkMessage (core k mem : Nat) (s : State) : Host.Outcome State Fault Refusal :=
  .next <|
    match (s.fabQ core).cmds with
    | [] => s
    | c :: _ =>
      if !c.started || decide (k ≥ c.chunks) || decide (mem ≥ c.nmemb) || mem == c.rank || c.posted.contains k
          || c.recv.any (fun r => r.1 == k && r.2.1 == mem) || !s.xwinOk c || c.fin != 0 then s
      else
        let n := min c.chunk (fabLen (c.image.getD 0) - k * c.chunk)
        let o := s.draw 5
        let d := o.2.draw (2 ^ (8 * n))
        let z := d.2.draw (2 ^ (n / 32))
        if o.1 = 1 then z.2.fabEnd core 17
        else if o.1 = 3 then z.2.fabEnd core 11
        else if o.1 = 4 then z.2.updFabHead core FabCmd.replay
        else z.2.updFabHead core (fun c => { c with recv := c.recv ++ [(k, mem, if o.1 = 2 then z.1 else 0, d.1)] })

/-- ⊕ on one 32-bit word (11 R303). -/
def fabCombine (op a b : Nat) : Nat :=
  match op with
  | 0 => fadd32 a b
  | 1 => fadd16 bf16 (a % 2 ^ 16) (b % 2 ^ 16) + 2 ^ 16 * fadd16 bf16 (a / 2 ^ 16) (b / 2 ^ 16)
  | 2 => (a + b) % 2 ^ 32
  | 3 => fminmax32 true a b
  | _ => fminmax32 false a b

/-- One element of the result, in the fixed order of 11 R303. -/
def fabElem (tree : Bool) (op : Nat) (xs : List Nat) : Nat :=
  if tree then (treeReduce (fabCombine op) 14 (xs.map some)).getD 0
  else match xs with
    | [] => 0
    | a :: t => t.foldl (fabCombine op) a

/-- A place of S-space or A-space for a 256-byte unit of a reduction (11 R301): `RED` is needed for a write to A-space. DESIGN CHOICE (log 116):
so is `W`. -/
def State.fabPlace (s : State) (core ctx va nd : Nat) : (Except Nat Place) × State :=
  if spaceOf va = 0 then
    match (s.ctx ctx).xlateS va nd with
    | .ok pa => (.ok (.sram pa), s)
    | .error k => (.error (statusOf k), s)
  else
    let r := s.walk (walkerOf core) ctx (va % 2 ^ 48 / 65536) (if nd = needW then 16 + needW else needR)
    match r.1 with
    | .ok e => (.ok (.lpddr (pteAddr e va)), r.2)
    | .error k => (.error k, r.2)

/-- Reads a span of a reduction's own contribution, unit by unit: a status, or data, poison per byte and data status. -/
def State.fabReadSpan (s : State) (core ctx va n : Nat) : (Except Nat (Nat × Nat × Nat)) × State :=
  (spanPieces 256 (n + 1) va 0 n).foldl (fun (a : (Except Nat (Nat × Nat × Nat)) × State) p =>
    match a.1 with
    | .error k => (.error k, a.2)
    | .ok x =>
      match a.2.fabPlace core ctx p.1 needR with
      | (.error k, s1) => (.error k, s1)
      | (.ok pl, s1) =>
        let r := s1.readPlace (fabEdge core (match pl with | .sram pa => pa | .lpddr _ => 0)) pl p.2.2
        (.ok (x.1 + r.1 * 2 ^ (8 * p.2.1), x.2.1 + r.2.1 * 2 ^ p.2.1, worse x.2.2 r.2.2.1), r.2.2.2)) (.ok (0, 0, 0), s)

/-- Writes a span of a reduction's result, unit by unit: a status, 0 for none. -/
def State.fabWriteSpan (s : State) (core agent ctx va n x psn : Nat) : Nat × State :=
  (spanPieces 256 (n + 1) va 0 n).foldl (fun (a : Nat × State) p =>
    if a.1 ≠ 0 then a
    else match a.2.fabPlace core ctx p.1 needW with
      | (.error k, s1) => (k, s1)
      | (.ok (.sram pa), s1) => (0, s1.plainSpan (fabEdge core pa) agent pa p.2.2 (bytesAt x p.2.1 p.2.2) (psn / 2 ^ p.2.1 % 2 ^ p.2.2))
      | (.ok (.lpddr pa), s1) => (0, s1.lpWriteNow pa p.2.2 (bytesAt x p.2.1 p.2.2) (psn / 2 ^ p.2.1 % 2 ^ p.2.2))) (0, s)

/-- A poison bit per granule spread over its bytes. -/
def spreadPsn (n granules : Nat) : Nat :=
  (List.range (n / 32)).foldl (fun a g => if bitN granules g then a + maskAt (32 * g) 32 else a) 0

/-- The chunk's semaphore is posted (11 R304): a status, 0 for none. -/
def State.fabPost (s0 : State) (core ctx va : Nat) : Nat × State :=
  match (if va % 8 = 0 then (s0.ctx ctx).xlateS va needRWAT else .error 2) with
  | .error k => (statusOf k, s0)
  | .ok pa =>
    let s := s0.stopSpan (fabEdge core pa) pa 8
    let r := s.mem.readSpan pa 8
    if r.2.1 then (13, s.setMem r.2.2)
    else (0, s.setMem (r.2.2.storeAtomic pa 8 r.1 (r.1 / 2 ^ 32 * 2 ^ 32 + (r.1 % 2 ^ 32 + 1) % 2 ^ 32)))

/-- The status of a chunk that cannot be read (01 R36): that of its first unit whose source fails, or a lower one of its destination. -/
def State.fabStatus (s : State) (core ctx src dst n : Nat) : Nat :=
  let fails (va nd : Nat) : Nat := match (s.fabPlace core ctx (va % 2 ^ 64) nd).1 with
    | .ok _ => 0
    | .error k => k
  match (spanPieces 256 (n + 1) src 0 n).find? (fun p => fails p.1 needR != 0) with
  | some p => worse (fails p.1 needR) (fails (dst + p.2.1) needW)
  | none => 0

/-- Whether every contribution to a chunk is here. -/
def FabCmd.complete (c : FabCmd) (k : Nat) : Bool :=
  ((List.range c.nmemb).filter (· != c.rank)).all (fun r => c.recv.any (fun x => x.1 == k && x.2.1 == r))

/-- The result of a chunk whose contributions are here (11 R303): data, and its poisoned granules. -/
def FabCmd.result (c : FabCmd) (k n : Nat) (own : Nat × Nat × Nat) : Nat × List Nat :=
  let of (r : Nat) : Nat × Nat := if r = c.rank then (own.1, own.2.1) else
    match c.recv.find? (fun y => y.1 == k && y.2.1 == r) with
    | some y => (y.2.2.2, spreadPsn n y.2.2.1)
    | none => (0, 0)
  let ranks := List.range c.nmemb
  let psn := ranks.foldl (fun a r => a ||| (of r).2) 0
  ((List.range (n / 4)).foldl (fun a j =>
      a + fabElem c.tree (bitsN (c.image.getD 0) 351 348) (ranks.map (fun r => bytesAt (of r).1 (4 * j) 4)) * 2 ^ (32 * j)) 0,
    (List.range (n / 32)).filter (fun g => psn / 2 ^ (32 * g) % 2 ^ 32 != 0))

/-- A chunk's result is combined and written (11 R303, R304); the engine thread is the chunk's (04 R94). -/
def State.fabWrite (s : State) (core : Nat) (c : FabCmd) (k : Nat) : State :=
  let x := c.image.getD 0
  let n := min c.chunk (fabLen x - k * c.chunk)
  let src := (recSrc x + k * c.chunk) % 2 ^ 64
  let dst := (recDst x + k * c.chunk) % 2 ^ 64
  match s.fabReadSpan core c.ctx src n with
  | (.error st, s1) => s1.fabDone core (worse c.status (worse st (s.fabStatus core c.ctx src dst n)))
  | (.ok own, s1) =>
    let r := c.result k n own
    let w := s1.fabWriteSpan core (engineAgent ((2 ^ 60 + ((core * 2 ^ 18 + c.seq) * 2 ^ 16 + k)) * 2)) c.ctx dst n r.1
      (r.2.foldl (fun a g => a + maskAt (32 * g) 32) 0)
    let st := worse c.status (worse own.2.2 (if r.2.isEmpty then 0 else 13))
    if w.1 ≠ 0 then w.2.fabDone core (worse st w.1)
    else w.2.updFabHead core (fun c => { c with
      wrote := c.wrote ++ [(k, s.clk + 17)], status := st, recv := c.recv.filter (fun r => r.1 != k) })

/-- 11 R303, R304: every contribution to a chunk is here: the result is combined in the fixed order and written; once the gap of 04
R108 has passed, its semaphore is posted; the ticket completes with the last chunk. -/
def execChunkComplete (core k : Nat) (s : State) : Host.Outcome State Fault Refusal :=
  .next <|
    match (s.fabQ core).cmds with
    | [] => s
    | c :: _ =>
      if !c.started || decide (k ≥ c.chunks) || c.posted.contains k then s
      else match c.wrote.find? (fun w => w.1 == k) with
        | none => if c.complete k && c.fin == 0 then s.fabWrite core c k else s
        | some w =>
          if s.clk < w.2 then s
          else
            let p := s.fabPost core c.ctx (bitsN (c.image.getD 0) 343 315 * 8 + 8 * k)
            if p.1 ≠ 0 then p.2.fabDone core (worse c.status p.1)
            else
              let s2 := p.2.updFabHead core (fun c => { c with posted := c.posted ++ [k], wrote := c.wrote.filter (fun w => w.1 != k) })
              if c.posted.length + 1 = c.chunks then s2.fabDone core c.status
              else if c.fin ≠ 0 then s2.fabEnd core c.fin else s2

/-- The chunks of a core's reduction that CHUNK_COMPLETE may take on. -/
def State.chunksDue (s : State) (core : Nat) : List Nat :=
  match (s.fabQ core).cmds with
  | c :: _ => if c.started then (List.range c.chunks).filter (fun k => !c.posted.contains k && (c.complete k || c.wrote.any (fun w => w.1 == k)))
      else []
  | [] => []

/-- 11 R305: a member stops answering: the reduction ends here with status 17. -/
def execMemberStopsAnswering (core rk : Nat) (s : State) : Host.Outcome State Fault Refusal :=
  .next <|
    match (s.fabQ core).cmds with
    | c :: _ => if c.started && decide (rk < c.nmemb) && rk != c.rank then s.fabEnd core 17 else s
    | [] => s

/-! ### Peers and ports -/

/-- The agent of a peer's Hod command or chunk (04 R94; 02 R44). `who` is the requester's device id and the number by which it tells its
commands and chunks apart. -/
def peerAgent (who : Nat) : Nat := engineAgent ((2 ^ 60 + who) * 2 + 2 ^ 90)

/-- One piece of a peer's request at its place (01 R35): the state, with the data and poison of a read added to the answer. A reduction
combines each 32-bit word into the window (04 R94; log 95). `edge` is the port by which the peer is reached. -/
def State.peerPiece (s : State) (edge agent kind op : Nat) (p : Place) (off n x psn : Nat) : State :=
  let put (st : State) (x psn : Nat) : State := match p with
    | .sram pa => st.plainSpan edge agent pa n x psn
    | .lpddr pa => st.lpWriteNow pa n x psn
  if kind = 1 then put s x psn
  else
    let r := s.readPlace edge p n
    let s1 := r.2.2.2
    if kind = 0 then { s1 with peerData := s1.peerData + r.1 * 2 ^ (8 * off), peerPsn := s1.peerPsn || r.2.1 != 0 }
    else put s1 ((List.range (n / 4)).foldl (fun a j => a + fabCombine op (bytesAt r.1 (4 * j) 4) (bytesAt x (4 * j) 4) * 2 ^ (32 * j)) 0)
      (if r.2.1 = 0 then psn else maskAt 0 n)

/-- 01 R35: a request of a peer arrives. `dev` holds the requester's device id in [12:0], its fabric group in [28:13], of a reduction its `OP` in
[31:29], and above them the number of the requester's command or chunk; `op` is 0 a read, 1 a write, 2 a reduction in [1:0], and the length
above; `x` holds the data of a write, with a poison bit above it. It is
translated piece by piece, and the requester is answered with a status. DESIGN CHOICE (log 117): at a target in S-space a reduction needs W. -/
def execPeerRequest (dev a op x : Nat) (s : State) : Host.Outcome State Fault Refusal :=
  .next <|
    let n := op / 4
    let kind := op % 4
    let off := a % 2 ^ 35
    let s0 := { s with peerStat := 0, peerData := 0, peerPsn := false }
    let group := dev / 2 ^ 13 % 2 ^ 16
    let agent := peerAgent (dev % 2 ^ 13 + dev / 2 ^ 32 * 2 ^ 13)
    if s.life.wiping then { s0 with peerStat := 11 } else
    match s.fab.exportFor off n kind group with
    | none => { s0 with peerStat := 11 }
    | some e =>
      let bad := if bitN x (8 * n) then maskAt 0 n else 0
      (spanPieces 256 (n + 1) off 0 n).foldl (fun st p =>
        if st.peerStat ≠ 0 then st
        else match st.exportPlace e p.1 (if kind = 0 then needR else if kind = 1 then needW else 16 + needW) with
          | (.error k, s1) => { s1 with peerStat := k }
          | (.ok pl, s1) => s1.peerPiece (s.peerEdge (dev % 2 ^ 13)) agent kind (dev / 2 ^ 29 % 8) pl p.2.1 p.2.2 (bytesAt x p.2.1 p.2.2) (bad / 2 ^ p.2.1 % 2 ^ p.2.2)) s0

/-- A route entry once a port is down (18 R473). -/
def routeDown (po e : Nat) : Nat :=
  if bitN e 15 && bitsN e 14 11 == po then
    (if bitN e 6 then fieldN 1 15 1 + fieldN (bitsN e 10 7) 11 4 + fieldN (bitsN e 10 7) 7 4 else 0)
  else e

/-- Started reductions with a member whose route has failed, as `hit` tells, replay their unposted chunks, or end with status 17 where a
member can no longer be reached (11 R305; 18 R473). -/
def State.fabReplay (s : State) (hit : Nat → Bool) : State :=
  (s.fabs.map (·.1)).foldl (fun st core =>
    match (st.fabQ core).cmds with
    | c :: _ =>
      if !c.started || c.fin != 0 || !c.members.any (fun d => d != st.fab.devid && hit d) then st
      else if !c.members.all st.fab.reach then st.fabEnd core 17
      else st.updFabHead core FabCmd.replay
    | [] => st) s

/-- 18 R473: a port goes down: routes fail over, a ROUTE record is journalled, reductions over it replay or end. -/
def execPortDown (po : Nat) (s : State) : Host.Outcome State Fault Refusal :=
  .next <|
    if po > 11 ∨ sget false s.fab.down po = true then s
    else
      let old := s.fab.routes
      let routes := (old.map (fun x => (x.1, routeDown po x.2))).filter (fun x => x.2 != 0)
      let s1 := { s with fab := { s.fab with routes := routes, down := sput false s.fab.down po true } }
      (s1.journal 255 0 0 12 0 po).fabReplay (fun d => bitN (sget 0 old d) 15 && bitsN (sget 0 old d) 14 11 == po)

/-- 18 R473: a port that retrains is journalled up; routes return to it only through ROUTE_SET. -/
def execPortUp (po : Nat) (s : State) : Host.Outcome State Fault Refusal :=
  .next <|
    if po > 11 ∨ sget false s.fab.down po = false then s
    else ({ s with fab := { s.fab with down := sput false s.fab.down po false } }).journal 255 0 0 12 0 (po + 256)

end Sys2Proof.Machine
end

