-- ==== Sys2Proof/Machine/Exact.lean ====
section
/-! DEFINITION. Exact rational numbers, extended with infinities and NaN, and their rounding: the arithmetic that the
texture, traversal and raster units share (13 R344, R350-R352, R356, R358; 14 R368-R376, R383). -/
namespace Sys2Proof.Machine

/-- Sum. -/
def Q.add (a b : Q) : Q := if a.den = b.den then ⟨a.num + b.num, a.den⟩ else ⟨a.num * b.den + b.num * a.den, a.den * b.den⟩
/-- Negation. -/
def Q.neg (a : Q) : Q := ⟨-a.num, a.den⟩
/-- Difference. -/
def Q.sub (a b : Q) : Q := a.add b.neg
/-- Product. -/
def Q.mul (a b : Q) : Q := ⟨a.num * b.num, a.den * b.den⟩
/-- Quotient by a nonzero number; 0 by zero, which no caller asks for. -/
def Q.div (a b : Q) : Q :=
  if b.num = 0 then ⟨0, 1⟩ else if b.num < 0 then ⟨-(a.num * b.den), a.den * b.num.natAbs⟩ else ⟨a.num * b.den, a.den * b.num.natAbs⟩
/-- Order. -/
def Q.le (a b : Q) : Bool := decide (a.num * b.den ≤ b.num * a.den)
/-- Strict order. -/
def Q.lt (a b : Q) : Bool := decide (a.num * b.den < b.num * a.den)
/-- Equality of values. -/
def Q.eq (a b : Q) : Bool := decide (a.num * b.den = b.num * a.den)
/-- The greatest integer not above. -/
def Q.floor (a : Q) : Int := a.num.fdiv a.den
/-- The smaller. -/
def Q.min (a b : Q) : Q := if a.le b then a else b
/-- The larger. -/
def Q.max (a b : Q) : Q := if a.le b then b else a
/-- An integer. -/
def Q.ofInt (x : Int) : Q := ⟨x, 1⟩
/-- ± m × 2^e. -/
def Q.ofDyadic (neg : Bool) (m : Nat) (e : Int) : Q :=
  if e ≥ 0 then ⟨signedM neg (m * 2 ^ e.toNat), 1⟩ else ⟨signedM neg m, 2 ^ (-e).toNat⟩
/-- A finite value; 0 for the others. -/
def Q.ofFV : FV → Q
  | .fin neg m e => Q.ofDyadic neg m e
  | _ => ⟨0, 1⟩

/-- A rational as a dyadic number that rounds like it: 80 or more significant bits and a sticky bit below them. -/
def Q.toFV (a : Q) : FV :=
  let n := a.num.natAbs
  let neg := decide (a.num < 0)
  if n = 0 then .fin false 0 0 else
  let k := 82 + Nat.log2 a.den - Nat.log2 n
  let q := n * 2 ^ k / a.den
  let r := n * 2 ^ k % a.den
  .fin neg (2 * q + (if r = 0 then 0 else 1)) (-(k : Int) - 1)

/-- `round_fp` of a rational to nearest, ties to even, subnormals kept. -/
def Q.round (f : Fmt) (a : Q) : Nat := (roundFp f plainMode 0 a.toFV).1

/-- The integer nearest a rational, ties to even. -/
def Q.nearest (a : Q) : Int :=
  let fl := a.floor
  let r2 : Int := 2 * (a.num - fl * a.den)
  if r2 < a.den then fl else if r2 > a.den then fl + 1 else if fl % 2 = 0 then fl else fl + 1

/-- A decoded floating value as an extended rational. -/
def XR.ofFV : FV → XR
  | .nan => .nan
  | .inf s => .inf s
  | .fin s m e => .q (Q.ofDyadic s m e)
/-- An FP32 encoding as an extended rational. -/
def XR.f32 (x : Nat) : XR := XR.ofFV (fp32.decode x)
/-- Difference; infinities of one sign give NaN. -/
def XR.sub : XR → XR → XR
  | .nan, _ => .nan
  | _, .nan => .nan
  | .inf a, .inf b => if a = b then .nan else .inf a
  | .inf a, _ => .inf a
  | _, .inf b => .inf (!b)
  | .q a, .q b => .q (a.sub b)
/-- Quotient; 0/0 and ∞/∞ give NaN, division of a nonzero number by zero the infinity of its sign. -/
def XR.div : XR → XR → XR
  | .nan, _ => .nan
  | _, .nan => .nan
  | .inf _, .inf _ => .nan
  | .inf a, .q b => .inf (a != decide (b.num < 0))
  | .q _, .inf _ => .q ⟨0, 1⟩
  | .q a, .q b => if b.num = 0 then (if a.num = 0 then .nan else .inf (decide (a.num < 0))) else .q (a.div b)
/-- Order of values that are not NaN; false where either is NaN. -/
def XR.le : XR → XR → Bool
  | .nan, _ => false
  | _, .nan => false
  | .inf a, .inf b => a || !b
  | .inf a, _ => a
  | _, .inf b => !b
  | .q a, .q b => a.le b
/-- Strict order; false where either is NaN. -/
def XR.lt (a b : XR) : Bool := a.le b && !b.le a
/-- Whether a value is NaN. -/
def XR.isNan : XR → Bool
  | .nan => true
  | _ => false
/-- The smaller; NaN where either is NaN. -/
def XR.min (a b : XR) : XR := if a.isNan || b.isNan then .nan else if a.le b then a else b
/-- The larger; NaN where either is NaN. -/
def XR.max (a b : XR) : XR := if a.isNan || b.isNan then .nan else if a.le b then b else a
/-- Rounded to FP32, nearest even. -/
def XR.round32 : XR → Nat
  | .nan => fp32.canon
  | .inf s => fp32.sgn s + 0x7f800000
  | .q x => x.round fp32

/-! ### Exact dyadic helpers -/

/-- The greatest integer not above a finite value. -/
def FV.floor : FV → Int
  | .fin s m e => if e ≥ 0 then signedM s (m * 2 ^ e.toNat) else (signedM s m).fdiv (2 ^ (-e).toNat : Nat)
  | _ => 0
/-- Exact sum of finite values. -/
def FV.plus (a b : FV) : FV := (addFV 0 a b).1
/-- Exact difference of finite values. -/
def FV.minus (a b : FV) : FV := (addFV 0 a b.neg).1
/-- Exact product. -/
def FV.times (a b : FV) : FV := (mulFV a b).1
/-- Whether a ≤ b. -/
def FV.le (a b : FV) : Bool := cmpFV a b != .gt
/-- A value clamped to an interval. -/
def FV.clamp (x lo hi : FV) : FV := if x.le lo then lo else if hi.le x then hi else x
/-- x / d for a positive divisor, rounding like the quotient. -/
def FV.divNat (x : FV) (d : Nat) : FV :=
  match x with
  | .fin s m e =>
    if m = 0 then x else
    let k := 82 + Nat.log2 d
    .fin s (2 * (m * 2 ^ k / d) + (if m * 2 ^ k % d = 0 then 0 else 1)) (e - k - 1)
  | y => y

end Sys2Proof.Machine
end

