-- ==== Sys2Proof/Machine/Select.lean ====
section
/-! DEFINITION. What the scheduler knows of an instruction, the choice of the path that issues, and the boundary checks before its fetch
(06 R164, R171; 07 R195; 11 R279; 13 R341; 16 R419). -/
namespace Sys2Proof.Machine

/-! ### What the scheduler knows of an instruction -/

/-- What an instruction's issue depends on and charges: the registers it reads and writes (code and how many; a call writes in the
window `slide` above its own), the predicates it reads and writes, the latency of its class (07 R195), its opcode weight (17 R450),
whether it acts once per issue, whether it is a memory, synchronisation or engine instruction, whether it is a release step
(11 R279), whether it runs on the uniform unit (06 R162), whether its beats carry 16 lanes (06 R150), whether it issues in one clk whatever its lanes and
whether it issues twice (08 R222; 13 R339), and whether the guard plays a part (07 R184). -/
structure IssueInfo where
  reads : List (Nat × Nat) := []
  writes : List (Nat × Nat) := []
  slide : Nat := 0
  rp : List Nat := []
  wp : List Nat := []
  lat : Nat := 1
  weight : Nat := 0
  once : Bool := true
  mem : Bool := false
  rel : Bool := false
  uni : Bool := false
  narrow : Bool := false
  solo : Bool := false
  steps : Bool := false
  guarded : Bool := true
deriving DecidableEq, Repr

/-- The registers an instruction names. -/
def IssueInfo.names (x : IssueInfo) : List (Nat × Nat) := x.reads ++ x.writes

/-- One register of each code. -/
def ones (l : List Nat) : List (Nat × Nat) := l.map (fun c => (c, 1))

/-- An instruction of weight 0 that reads registers. -/
def quiet (reads : List (Nat × Nat)) : IssueInfo := { reads := reads }
/-- An instruction on every lane of the path, whatever the guard. -/
def IssueInfo.unguarded (x : IssueInfo) : IssueInfo := { x with guarded := false }
/-- An instruction of the lanes. -/
def perLane (weight : Nat) (reads writes : List (Nat × Nat)) : IssueInfo :=
  { reads := reads, writes := writes, weight := weight, once := false }
/-- An instruction of the lanes with its class latency: `n` 1 names no destination register (07 R187). -/
def laneOp (lat weight n d : Nat) (srcs : List Nat) : IssueInfo :=
  { perLane weight (ones srcs) (if n = 1 then [] else ones [d]) with lat := lat }
/-- An instruction of the lanes, or of the uniform unit where its destination is an s-register (06 R162). -/
def intOp (lat weight n d : Nat) (srcs : List Nat) : IssueInfo :=
  let u := n == 0 && isS d
  { laneOp (if u then 4 else lat) weight n d srcs with once := u, uni := u }
/-- An instruction of the lanes with a predicate destination. -/
def predOp (lat weight d : Nat) (srcs rp : List Nat) : IssueInfo :=
  { perLane weight (ones srcs) [] with lat := lat, rp := rp, wp := [d] }
/-- A memory instruction of the lanes; with an s-register destination it acts once. -/
def memOp (d : Nat) (reads writes : List (Nat × Nat)) : IssueInfo :=
  { perLane (if isS d then 1 else 2) reads writes with mem := true, once := isS d }
/-- A synchronisation or engine instruction that acts once per issue. -/
def syncStep (rel : Bool) (reads writes : List (Nat × Nat)) : IssueInfo :=
  { reads := reads, writes := writes, weight := 1, mem := true, rel := rel }
/-- The CTL and FRAG groups, of weight 0. -/
def IssueInfo.free (x : IssueInfo) : IssueInfo := { x with weight := 0 }
/-- A register that is written only where it is named at all: 0 names none. -/
def dstIf (p : Nat) : List (Nat × Nat) := if p = 0 then [] else [(p, 1)]

/-- What the scheduler knows of an instruction; an event is never issued. Where the registers follow from data (a grid's result
count), every register the form may name counts. -/
def issueInfo : Instr → IssueInfo
  | .nop | .exit | .trap _ | .bkpt _ | .yield _ | .spin | .hint _ | .idem _ =>
    quiet []
  | .mode _ | .join =>
    (quiet []).unguarded
  | .bra _ p _ =>
    { (quiet []).unguarded with rp := [p] }
  | .call f _ =>
    { (quiet []).unguarded with writes := [(62, 2)], slide := f }
  | .ret =>
    (quiet [(62, 2)]).unguarded
  | .srd d _ =>
    intOp 1 0 0 d []
  | .clk d s =>
    let u := isS d
    { perLane 0 [] [(d, if s = 2 then 4 else 2)] with lat := if u then 4 else 1, uni := u, once := u }
  | .swr a _ | .timer a | .await a _ =>
    quiet (ones [a])
  | .brx a =>
    (quiet (ones [a])).unguarded
  | .callx a f =>
    { (quiet (ones [a])).unguarded with writes := [(62, 2)], slide := f }
  | .modex u =>
    (quiet (ones [u])).unguarded
  | .spawn d a =>
    { (syncStep true (ones [a]) (ones [d])).free with uni := true, steps := true }
  | .tsignal a =>
    (syncStep true (ones [a]) []).free
  | .tcond v a =>
    (syncStep true (ones [v, a]) []).free
  | .movi n d _ =>
    intOp 1 1 n d []
  | .movhi d _ =>
    intOp 1 1 0 d [d]
  | .abs n d a | .neg n d a | .getexp n d a | .frc n d a | .flr n d a | .ceil n d a | .rnd n d a | .trunc n d a
    | .unpacklo n d a | .unpackhi n d a =>
    laneOp 4 2 n d [a]
  | .rcp n d a | .rsq n d a | .sqrt n d a | .ex2 n d a | .lg2 n d a | .sin n d a | .cos n d a | .tanh n d a =>
    laneOp 12 6 n d [a]
  | .add n d a b | .sub n d a b | .mul n d a b | .mulhi n d a b | .min n d a b | .max n d a b | .scale n d a b
    | .copysign n d a b | .cvt n d a b _ | .pack2 n d a b =>
    laneOp 4 2 n d [a, b]
  | .pack4 n d a b =>
    laneOp 4 2 n d [a, b, d]
  | .fma n d a b | .fms n d a b | .fnma n d a b | .fnms n d a b | .dot2 n d a b | .dot4 n d a b =>
    laneOp 4 4 n d [a, b, d]
  | .cmp d a b _ | .classOf d a b =>
    predOp 4 2 d [a, b] []
  | .cmpW d a b _ =>
    predOp 1 1 d [a, b] []
  | .mulW n d a b | .mulhiW n d a b | .mulhuW n d a b =>
    intOp 4 2 n d [a, b]
  | .madW n d a b =>
    intOp 4 2 n d [a, b, d]
  | .addW n d a b | .subW n d a b | .minW n d a b | .maxW n d a b | .minuW n d a b | .maxuW n d a b | .lea n d a b _
    | .and n d a b | .or n d a b | .xor n d a b | .andn n d a b | .shl n d a b | .shr n d a b | .shra n d a b
    | .rol n d a b | .prmt n d a b | .bfe n d a b =>
    intOp 1 1 n d [a, b]
  | .bfi n d a b =>
    intOp 1 1 n d [a, b, d]
  | .sel n d a b _ p =>
    { intOp 1 1 n d [a, b] with rp := [p] }
  | .addiW n d a _ | .popc n d a | .clz n d a | .brev n d a | .mov n d a | .andi n d a _ | .ori n d a _ | .xori n d a _
    | .shli n d a _ | .shri n d a _ | .shrai n d a _ =>
    intOp 1 1 n d [a]
  | .shflIdx n d a b | .shflUp n d a b | .shflDn n d a b | .shflXor n d a b | .readlane n d a b =>
    laneOp 6 1 n d [a, b]
  | .bcast n d a =>
    laneOp 6 1 n d [a]
  | .match n d a k | .ballot n d a k =>
    laneOp 6 1 n d [a, k]
  | .wreduceAdd n d a | .wreduceMin n d a | .wreduceMax n d a =>
    laneOp 12 1 n d [a]
  | .pand d a b | .por d a b | .pxor d a b =>
    predOp 1 1 d [] [a % 8, b % 8]
  | .pnot d a =>
    predOp 1 1 d [] [a % 8]
  | .vany d a | .vall d a =>
    predOp 6 1 d [a] []
  | .pmovs n d =>
    { laneOp 1 1 n d [] with rp := List.range 7 }
  | .pmovp a b =>
    { perLane 1 (ones [a, b]) [] with wp := List.range 7 }
  | .elect d =>
    predOp 6 1 d [] []
  | .pchk p q =>
    predOp 1 1 p [q] []
  | .ld d a _ z | .ldaq d a _ z _ =>
    { memOp d [(a, 2)] [(d, regsOf z)] with narrow := z == 4 }
  | .st d a _ z =>
    { memOp 0 [(d, regsOf z), (a, 2)] [] with narrow := z == 4 }
  | .strl d a _ z c =>
    { memOp 0 [(d, regsOf z), (a, 2)] [] with rel := c != 0, narrow := z == 4 }
  | .atomDv d a b o | .atomTm d a b o =>
    memOp d ((a, 2) :: ones (if o = 9 then [b, d] else [b])) (ones [d])
  | .redDv a b _ | .redTm a b _ =>
    memOp 0 [(a, 2), (b, 1)] []
  | .waitc a =>
    syncStep false (ones [a]) []
  | .fence _ =>
    syncStep false [] []
  | .binit q u | .announceIn q u | .announceOut q u | .semwait q u =>
    syncStep false [(q, 2), (u, 1)] []
  | .arrive p q =>
    syncStep true [(q, 2)] (ones [p])
  | .bwait p q u =>
    syncStep false [(q, 2), (u, 1)] (ones [p])
  | .btest p q u =>
    { syncStep false [(q, 2), (u, 1)] (ones [u]) with wp := [p] }
  | .semwaitDraw p q | .rpushRsv p q | .rpopTake p q | .rpeek p q =>
    syncStep false [(q, 2)] (ones [p])
  | .sempost q u | .rpushPub q u | .rpopFree q u =>
    syncStep true [(q, 2), (u, 1)] []
  | .hcopy p q | .hcopys p q | .hgather p q | .hscatter p q | .hstage p q | .hevict p q | .hfill p q | .hmeta p q
    | .rring p q | .rtree p q =>
    { syncStep false [(q, 2)] (dstIf p) with lat := 4 }
  | .hquery p q | .rstat p q =>
    syncStep false (ones [q]) [(p, 2)]
  | .hldr p q z =>
    syncStep false [(q, 2)] [(p, regsOf z)]
  | .tctl _ q | .tscl _ q | .gang q | .azero _ q =>
    syncStep false (ones [q]) []
  | .trdc p _ _ =>
    { syncStep false [] (ones [p]) with uni := true, lat := 4 }
  | .tzero _ | .mma _ _ _ _ | .mmas _ _ _ _ _ =>
    syncStep false [] []
  | .tld _ q u | .tst _ q u | .adrain _ _ q u =>
    syncStep false [(q, 2), (u, 1)] []
  | .aread p q _ =>
    { perLane 1 (ones [q]) (ones [p]) with mem := true, solo := true }
  | .awrite p q _ =>
    { perLane 1 (ones [p, q]) [] with mem := true, solo := true }
  | .tex p q u | .texb p q u =>
    { memOp 0 [(q, 2), (u, 3)] [(p, 4)] with steps := true }
  | .texq p q u =>
    { memOp 0 [(q, 2), (u, 1)] [(p, 4)] with solo := true }
  | .hgf p q u =>
    { memOp 0 [(q, 2), (u, 3)] [(p, min 32 (64 - p))] with steps := true }
  | .hgsFast p q u | .hgsExact p q u =>
    { memOp 0 [(q, 2), (u, 3), (p, min 32 (64 - p))] [] with steps := true }
  | .trace q u =>
    { perLane 1 [(q, 2), (u, 8)] [] with mem := true, solo := true }
  | .rsort p q u =>
    { perLane 1 [(q, 1), (u, 8)] [(p, 2)] with lat := 8, solo := true }
  | .hitget p q =>
    { perLane 1 [] [(p, if q = 0 then 4 else 1)] with solo := true }
  | .emitv p q u =>
    { perLane 1 [(p, 1), (q, 1), (u, 4)] [] with solo := true }
  | .emitp p u =>
    { perLane 1 (ones [p, u]) [] with solo := true }
  | .msetc _ q u =>
    { perLane 1 (ones [q, u]) [] with once := true }
  | .srate q =>
    { perLane 1 (ones [q]) [] with once := true }
  | .discard =>
    { perLane 1 [] [] with solo := true }
  | .fqpop p q =>
    (syncStep false [(q, 2)] (ones [p])).free
  | .finfo p q u =>
    (syncStep false (ones [q, u]) (ones [p])).free
  | .fresume p q u =>
    (syncStep true (ones [q, u]) (ones [p])).free
  | .fkill p q =>
    (syncStep true (ones [q]) (ones [p])).free
  | _ => {}

/-- Beats in which an instruction issues (06 R150). -/
def IssueInfo.beats (x : IssueInfo) (width : Nat) : Nat := if x.once || x.solo then 1 else if x.narrow then width / 16 else width / 32

/-- What the scheduler knows of the instruction that a path would issue: of an instruction with two issues, the first takes one clk and
enters no charge; the second is held by no order of accesses, and uses no uniform unit (08 R222; 13 R339; log 86). -/
def State.infoAt (s : State) (key nid : Nat) (i : Instr) : IssueInfo :=
  let x := issueInfo i
  if !x.steps then x
  else if (s.node key nid).step.isNone then { x with solo := true, weight := 0 }
  else { x with uni := false, mem := false, rel := false }

/-! ### Ordering holds -/

/-- Whether a path is another, or lies under it since that has split (06 R165); `fuel` bounds the tree. -/
def State.under (s : State) (key nid top : Nat) : Nat → Bool
  | 0 => nid == top
  | fuel + 1 => nid == top || (nid != 64 && s.under key (s.node key nid).parent top fuel)

/-- Whether a memory, synchronisation or engine instruction of a path is free of the holds of the path's earlier ones (11 R279; 13 R341;
04 R122). DESIGN CHOICE (log 87): a TRACE of the warp that is incomplete holds them, so that no read of its nodes comes after a later access
(04 R101). -/
def State.orderFree (s : State) (key : Nat) (w : Warp) (nid : Nat) (n : Node) : Bool :=
  decide (n.hold ≤ s.clk) && w.trace.isNone && w.tex.all (fun t => t.left.isEmpty || !s.under key nid t.nid 64)
    && (n.fence == 0 || s.jobsDone key n.fence) && s.hostQ.all (fun h => decide (n.acq ≤ h.reach))

/-- What the scheduler knows of the instruction at which a path stands; none where its fetch yields none. -/
def State.pathInfo (s : State) (key nid : Nat) : Option IssueInfo :=
  match s.fetchAt key (s.node key nid).pc.toNat with
  | .instr i _ => some (s.infoAt key nid i)
  | _ => none

/-- Whether the next instruction of a path is in an ordering hold (06 R164 `ST` 2; 11 R279). -/
def State.orderHeld (s : State) (key nid : Nat) : Bool :=
  match s.warp key, s.pathInfo key nid with
  | some w, some x => (x.mem && !s.orderFree key w nid (s.node key nid)) || (x.rel && !s.released key)
  | _, _ => false

/-! ### The choice of the path -/

/-- The ready paths of a warp (06 R171): open ones that may issue and are in no ordering hold. A warp's only path is listed whatever its
hold, which its issue meets. -/
def State.readyPaths (s : State) (key : Nat) : List Nat :=
  let ps := (s.openPaths key).filter (fun i => decide ((s.node key i).stop ≤ s.clk))
  if ps.length ≤ 1 then ps else ps.filter (fun i => !s.orderHeld key i)

/-- The clk since which a ready path has waited (06 R171): since it last issued, or since it became ready. -/
def State.readySince (s : State) (key nid : Nat) : Nat :=
  let n := s.node key nid
  let x := (s.pathInfo key nid).getD {}
  let rel := match s.warp key with
    | some w => w.releaseAt
    | none => 0
  max (max n.since n.stop) (max (if x.mem then n.hold else 0) (if x.rel then rel else 0))

/-- The path that issues when the warp is selected (06 R171): the one that a selection without issue chose before, while it is
ready. DESIGN CHOICE (log 84): of paths that have waited equally long the root record comes first, then the lowest belay entry. -/
def State.choosePath (s : State) (key : Nat) : Option Nat :=
  let ready := s.readyPaths key
  match ((s.warp key).bind (·.chosen)).filter ready.contains with
  | some i => some i
  | none =>
  let late := ready.filter (fun i => (s.node key i).spn && decide ((s.node key i).spSel ≥ 64))
  let calm := ready.filter (fun i => !(s.node key i).spn)
  let pool := if !late.isEmpty then late else if !calm.isEmpty then calm else ready
  (leastBy (fun (a b : Nat × Nat) => decide (a.1 < b.1)) (pool.map (fun i => (if pool.length ≤ 1 then 0 else s.readySince key i, i)))).map (·.2)

/-- A selection of the warp (06 R171): the issuing path starts to wait anew, other spinning paths count it. -/
def State.noteSelection (s : State) (key nid : Nat) : State :=
  let s := s.updWarp key (fun w => { w with chosen := none })
  (64 :: s.entries key).foldl (fun st i => st.updNode key i (fun n =>
    if i = nid then { n with spSel := 0, since := s.clk } else { n with spSel := if n.spn then min 64 (n.spSel + 1) else 0 })) s

/-- Paths whose ordering hold has ended between `s` and `t` wait to issue from now on (06 R171). -/
def State.freedFrom (s t : State) (key : Nat) : State :=
  ((s.openPaths key).filter (fun i => s.orderHeld key i && !t.orderHeld key i)).foldl
    (fun st i => st.updNode key i (fun n => { n with since := st.clk })) t

/-! ### The boundary -/

/-- The fault or park that a boundary of a warp meets before its fetch (16 R419, cases 1 to 3); none where there is none. The second
issue of an instruction is no boundary (08 R222; 13 R339). -/
def State.boundary (s : State) (key : Nat) : Option State :=
  match s.warp key with
  | none => some s
  | some w =>
    match s.team w.team with
    | none => some s
    | some t =>
      if t.gangPark.isSome then some (s.updWarp key (fun w => { w with status := .parked }))
      else if t.preempt ≠ 0 then some s
      else if w.dlHit then
        (match s.choosePath key with
        | some i =>
          if (s.node key i).step.isSome then none
          else some (((s.updWarp key (fun w => { w with dlHit := false })).endWaits key true).takeTrap key i 0#96 (.warp 21 0 0))
        | none => none)
      else none

end Sys2Proof.Machine
end

