-- ==== Sys2Proof/Machine/Transc.lean ====
section
/-! DEFINITION. RCP, RSQ, SQRT, EX2, LG2, SIN, COS and TANH (10 R263-R265). Exact results are rounded once; the approximated
FP32 functions return one of the values within their bound, which `Config.approxPick` chooses (log 7). -/
namespace Sys2Proof.Machine

/-- Fraction bits of the fixed-point work. -/
def fxK : Nat := 224

/-- One in fixed point. -/
def fxOne : Int := 2 ^ fxK

/-- Product of fixed-point numbers. -/
def fxMul (a b : Int) : Int := a * b / fxOne

/-- Quotient of fixed-point numbers. -/
def fxDiv (a b : Int) : Int := a * fxOne / b

/-- ln 2 in fixed point. -/
def fxLn2 : Int := 80260960185991308862233904206310070533990667611589946606122867505419956976171 / 2 ^ 32

/-- Horner evaluation of 1 + x/1 × (1 + x/2 × …): the exponential of a fixed-point number. -/
def fxExpAux (x : Int) : Nat → Nat → Int
  | 0, _ => fxOne
  | n + 1, k => fxOne + fxMul x (fxExpAux x n (k + 1)) / (k : Int)

/-- exp of a fixed-point number from 0 up to 1. -/
def fxExp (x : Int) : Int := fxExpAux x 60 1

/-- Terms of the sine or cosine series from x^k / k!. -/
def fxTrigAux (x2 : Int) : Nat → Nat → Int → Int
  | 0, _, _ => 0
  | n + 1, k, t => t - fxTrigAux x2 n (k + 2) (fxMul t x2 / (((k + 1) * (k + 2) : Nat) : Int))

/-- Sine of a fixed-point number of magnitude below 4. -/
def fxSin (x : Int) : Int := fxTrigAux (fxMul x x) 44 1 x

/-- Cosine of a fixed-point number of magnitude below 4. -/
def fxCos (x : Int) : Int := fxTrigAux (fxMul x x) 44 0 fxOne

/-- The series of atanh from z^k / k. -/
def fxAtanhAux (z2 : Int) : Nat → Nat → Int → Int
  | 0, _, _ => 0
  | n + 1, k, p => p / (k : Int) + fxAtanhAux z2 n (k + 2) (fxMul p z2)

/-- Base-2 logarithm of a fixed-point number from 1 up to 2. -/
def fxLog2 (m : Int) : Int :=
  let z := fxDiv (m - fxOne) (m + fxOne)
  fxDiv (2 * fxAtanhAux (fxMul z z) 76 1 z) fxLn2

/-- 2^x of a fixed-point number: significand and exponent. -/
def fxExp2 (x : Int) : Int × Int :=
  let n := x / fxOne
  (fxExp (fxMul (x - n * fxOne) fxLn2), n)

/-- A fixed-point number as an inexact value: one more bit below its last stands for the rest. -/
def fxVal (x : Int) (e : Int) : FV :=
  .fin (decide (x < 0)) (2 * x.natAbs + 1) (e - fxK - 1)

/-- A finite value in fixed point, towards minus infinity. -/
def toFx (neg : Bool) (m : Nat) (e : Int) : Int :=
  let x : Int := signedM neg m
  let sh := e + fxK
  if sh ≥ 0 then x * 2 ^ sh.toNat else x / 2 ^ (-sh).toNat

/-- A value just below a magnitude. -/
def justBelow (neg : Bool) (m : Nat) (e : Int) : FV := .fin neg (m * 2 ^ 64 - 1) (e - 64)

/-- Position of the leading bit. -/
def topBit (m : Nat) (e : Int) : Int := e + Nat.log2 m

/-- A function's answer at an element: the value, whether 10 R264 marks the case exact, and
the flags its special case raises. -/
structure TRes where
  v : FV
  exact : Bool
  fl : Nat := 0
deriving DecidableEq, Repr

/-- RCP (10 R264). -/
def tRcp : FV → TRes
  | .nan => ⟨.nan, true, 0⟩
  | .inf s => ⟨.fin s 0 0, true, 0⟩
  | .fin s m e =>
    if m = 0 then ⟨.inf s, true, flDZ⟩
    else
      let k := 96 + Nat.log2 m
      let q := 2 ^ k / m
      let r := 2 ^ k % m
      if r = 0 then ⟨.fin s q (-(k : Int) - e), true, 0⟩ else ⟨.fin s (2 * q + 1) (-(k : Int) - e - 1), false, 0⟩

/-- The root of m × 2^e, with e even: root, and whether it is exact. -/
def rootOf (m : Nat) : Nat × Bool :=
  let r := isqrt m (Nat.log2 m / 2 + 1) 0
  (r, r * r == m)

/-- SQRT (10 R264). -/
def tSqrt : FV → TRes
  | .nan => ⟨.nan, true, 0⟩
  | .inf s => if s then ⟨.nan, true, flIV⟩ else ⟨.inf false, true, 0⟩
  | .fin s m e =>
    if m = 0 then ⟨.fin s 0 0, true, 0⟩
    else if s then ⟨.nan, true, flIV⟩
    else
      let m1 := if e % 2 = 0 then m else 2 * m
      let e1 := if e % 2 = 0 then e else e - 1
      let r := rootOf (m1 * 2 ^ 128)
      if r.2 then ⟨.fin false r.1 (e1 / 2 - 64), true, 0⟩ else ⟨.fin false (2 * r.1 + 1) (e1 / 2 - 65), false, 0⟩

/-- RSQ (10 R264). -/
def tRsq : FV → TRes
  | .nan => ⟨.nan, true, 0⟩
  | .inf s => if s then ⟨.nan, true, flIV⟩ else ⟨.fin false 0 0, true, 0⟩
  | .fin s m e =>
    if m = 0 then ⟨.inf s, true, flDZ⟩
    else if s then ⟨.nan, true, flIV⟩
    else
      let m1 := if e % 2 = 0 then m else 2 * m
      let e1 := if e % 2 = 0 then e else e - 1
      let k := 2 * (96 + Nat.log2 m1)
      let q := 2 ^ k / m1
      let r := rootOf q
      let pow2 := 2 ^ Nat.log2 m1 == m1 && Nat.log2 m1 % 2 == 0
      if pow2 then ⟨.fin false r.1 (-(k / 2 : Nat) - e1 / 2), true, 0⟩
      else ⟨.fin false (2 * r.1 + 1) (-(k / 2 : Nat) - e1 / 2 - 1), false, 0⟩

/-- EX2 (10 R264). -/
def tEx2 : FV → TRes
  | .nan => ⟨.nan, true, 0⟩
  | .inf s => if s then ⟨.fin false 0 0, true, 0⟩ else ⟨.inf false, true, 0⟩
  | .fin s m e =>
    if m = 0 then ⟨.fin false 1 0, true, 0⟩
    else
      let x := signedM s m
      if topBit m e ≥ 8 then ⟨.fin false 1 (if s then -2000 else 2000), false, 0⟩
      else if e ≥ 0 ∨ (m % 2 ^ (-e).toNat = 0 ∧ e > -200) then
        let n : Int := if e ≥ 0 then x * 2 ^ e.toNat else x / 2 ^ (-e).toNat
        ⟨.fin false 1 n, decide (-126 ≤ n ∧ n ≤ 127), 0⟩
      else if topBit m e < -100 then
        ⟨if s then justBelow false 1 0 else .fin false (2 ^ 90 + 1) (-90), false, 0⟩
      else
        let r := fxExp2 (toFx s m e)
        ⟨fxVal r.1 r.2, false, 0⟩

/-- LG2 (10 R264). -/
def tLg2 : FV → TRes
  | .nan => ⟨.nan, true, 0⟩
  | .inf s => if s then ⟨.nan, true, flIV⟩ else ⟨.inf false, true, 0⟩
  | .fin s m e =>
    if m = 0 then ⟨.inf true, true, flDZ⟩
    else if s then ⟨.nan, true, flIV⟩
    else
      let k := Nat.log2 m
      let n : Int := e + k
      if 2 ^ k = m then ⟨.fin (decide (n < 0)) n.natAbs 0, true, 0⟩
      else
        let f := fxLog2 (toFx false m (-(k : Int)))
        ⟨fxVal (n * fxOne + f) 0, false, 0⟩

/-- The reduction of 10 R265: a - k × c as a signed number times a power of 2. -/
def reduceArg (s : Bool) (m : Nat) (e : Int) : Int × Int :=
  let e0 := min e (-21)
  let a : Int := signedM s (m * 2 ^ (e - e0).toNat)
  let c : Int := 13176795 * 2 ^ (-21 - e0).toNat
  let q := (2 * a + c) / (2 * c)
  let k := if (2 * a + c) % (2 * c) = 0 ∧ q % 2 = 1 then q - 1 else q
  (a - k * c, e0)

/-- SIN (10 R264, R265). -/
def tSin : FV → TRes
  | .nan => ⟨.nan, true, 0⟩
  | .inf _ => ⟨.nan, true, flIV⟩
  | .fin s m e =>
    if m = 0 then ⟨.fin s 0 0, true, 0⟩
    else
      let r := reduceArg s m e
      let neg := decide (r.1 < 0)
      if r.1 = 0 then ⟨.fin s 0 0, false, 0⟩
      else if topBit r.1.natAbs r.2 < -60 then ⟨justBelow neg r.1.natAbs r.2, false, 0⟩
      else ⟨fxVal (fxSin (toFx neg r.1.natAbs r.2)) 0, false, 0⟩

/-- COS (10 R264, R265). -/
def tCos : FV → TRes
  | .nan => ⟨.nan, true, 0⟩
  | .inf _ => ⟨.nan, true, flIV⟩
  | .fin s m e =>
    if m = 0 then ⟨.fin false 1 0, true, 0⟩
    else
      let r := reduceArg s m e
      if topBit r.1.natAbs r.2 < -60 then ⟨justBelow false 1 0, false, 0⟩
      else ⟨fxVal (fxCos (toFx (decide (r.1 < 0)) r.1.natAbs r.2)) 0, false, 0⟩

/-- TANH (10 R264). -/
def tTanh : FV → TRes
  | .nan => ⟨.nan, true, 0⟩
  | .inf s => ⟨.fin s 1 0, true, 0⟩
  | .fin s m e =>
    if m = 0 then ⟨.fin s 0 0, true, 0⟩
    else if topBit m e ≥ 4 ∨ toFx false m e ≥ 9 * fxOne then ⟨.fin s 1 0, true, 0⟩
    else if topBit m e < -60 then ⟨justBelow s m e, false, 0⟩
    else
      let r := fxExp2 (fxDiv (2 * toFx false m e) fxLn2)
      let E := r.1 * 2 ^ r.2.toNat
      let t := fxDiv (E - fxOne) (E + fxOne)
      ⟨fxVal (if s then -t else t) 0, false, 0⟩

/-- Index of the largest FP32 value not above x × 2^e, values counted from zero in both directions. -/
def ordDown (x e : Int) : Int :=
  let r := (roundFp fp32 { rm := if x < 0 then 3 else 1 } 0 (.fin false x.natAbs e)).1
  let n : Int := min r fp32.maxEnc
  if x < 0 then -n else n

/-- The FP32 values within a bound of an exact value, as a range of indices (10 R264). The bound is `b` spacings of FP32 at
the value, or 2^`abs` where that is larger, or alone when `only` holds. -/
def boundRange (neg : Bool) (m : Nat) (e : Int) (b : Nat) (abs : Option Int) (only : Bool) : Int × Int :=
  let u : Int := max (topBit m e - 23) (-149)
  let e0 := min (min e u) ((abs.getD 0))
  let v : Int := signedM neg (m * 2 ^ (e - e0).toNat)
  let rel : Int := if only then 0 else b * 2 ^ (u - e0).toNat
  let bd : Int := match abs with
    | some a => max rel (2 ^ (a - e0).toNat)
    | none => rel
  (-(ordDown (-(v - bd)) e0), ordDown (v + bd) e0)

/-- The bound of each approximated function (10 R264): spacings, absolute exponent, absolute alone. -/
def boundOf (fn : Nat) (x : FV) : Nat × Option Int × Bool :=
  match fn with
  | 0 => (1, none, false)
  | 4 => match x with
    | .fin false m e => if topBit m e = -1 ∨ topBit m e = 0 ∨ (m = 2 ^ Nat.log2 m ∧ topBit m e = 1)
        then (0, some (-22), true) else (2, none, false)
    | _ => (2, none, false)
  | 5 => (0, some (-22), true)
  | 6 => (0, some (-22), true)
  | 7 => (2, some (-24), false)
  | _ => (2, none, false)

/-- An approximated FP32 result (10 R263, R264): one of the values within the bound. -/
def approx32 (fn : Nat) (md : NMode) (raw : Nat) (x : FV) (v : FV) : Nat × Nat :=
  match v with
  | .fin neg m e =>
    if topBit m e ≥ 128 then overflowOut fp32 { md with rm := 0 } neg
    else if topBit m e < -150 then (fp32.sgn neg, flUF ||| flNX)
    else
      let b := boundOf fn x
      let r := boundRange neg m e b.1 b.2.1 b.2.2
      let n := (r.2 - r.1 + 1).toNat
      let i := r.1 + (Config.approxPick fn (BitVec.ofNat 32 raw) md.fi md.fo % n : Nat)
      let enc := if i = 0 then fp32.sgn neg else fp32.sgn (decide (i < 0)) + i.natAbs
      let tiny := decide (topBit m e < -126)
      if md.fo && fp32.subnormal enc then (fp32.sgn neg, flUF ||| flNX)
      else (enc, flNX ||| (if tiny then flUF else 0))
  | _ => roundFp fp32 md 0 v

/-- An element of 10 R263. -/
def transcElem (fn : Nat) (f : FV → TRes) (md : NMode) (t : ETy) (_u : Nat) (l : List Nat) : Nat × Nat :=
  match t.fmt with
  | none => (0, 0)
  | some fm =>
    let x := fm.read md.fi (e0 l)
    let r := f x
    let md1 := if fm = fp32 ∧ fn = 2 then noRsr md else { md with rm := 0 }
    let normal := match r.v with
      | .fin _ m e => m == 0 || decide (topBit m e ≥ 1 - (fm.bias : Int)) || fn != 0
      | _ => true
    if fm = fp32 ∧ fn ≠ 2 ∧ !(r.exact && normal) then approx32 fn md (e0 l) x r.v
    else
      let y := roundFp fm md1 0 r.v
      (y.1, y.2 ||| r.fl ||| (if r.exact && normal then 0 else flNX))

/-- 10 R264 RCP. -/
def execRcp (n d a : Nat) (s : State) : Host.Outcome State Fault Refusal :=
  execTyped s etWide n d [a] false (transcElem 0 tRcp)
/-- 10 R264 RSQ. -/
def execRsq (n d a : Nat) (s : State) : Host.Outcome State Fault Refusal :=
  execTyped s etWide n d [a] false (transcElem 1 tRsq)
/-- 10 R264 SQRT. -/
def execSqrt (n d a : Nat) (s : State) : Host.Outcome State Fault Refusal :=
  execTyped s etWide n d [a] false (transcElem 2 tSqrt)
/-- 10 R264 EX2. -/
def execEx2 (n d a : Nat) (s : State) : Host.Outcome State Fault Refusal :=
  execTyped s etWide n d [a] false (transcElem 3 tEx2)
/-- 10 R264 LG2. -/
def execLg2 (n d a : Nat) (s : State) : Host.Outcome State Fault Refusal :=
  execTyped s etWide n d [a] false (transcElem 4 tLg2)
/-- 10 R265 SIN. -/
def execSin (n d a : Nat) (s : State) : Host.Outcome State Fault Refusal :=
  execTyped s etWide n d [a] false (transcElem 5 tSin)
/-- 10 R265 COS. -/
def execCos (n d a : Nat) (s : State) : Host.Outcome State Fault Refusal :=
  execTyped s etWide n d [a] false (transcElem 6 tCos)
/-- 10 R264 TANH. -/
def execTanh (n d a : Nat) (s : State) : Host.Outcome State Fault Refusal :=
  execTyped s etWide n d [a] false (transcElem 7 tTanh)

end Sys2Proof.Machine
end

