-- ==== Sys2Proof/Machine/Texture.lean ====
section
/-! DEFINITION. The texture unit: TEX, TEXB, TEXQ, HGF, HGS and their segments (13 R339-R354). -/
namespace Sys2Proof.Machine

/-! ### Descriptors -/

/-- Bytes of a texel (13 R343). -/
def texBytes (fmt : Nat) : Nat := [1, 2, 4, 2, 4, 8, 4, 8, 16].getD fmt 1
/-- Levels of a texture, minus 1. -/
def texLv (x : Nat) : Nat := bitsN x 155 152
/-- Texel format. -/
def texFmt (x : Nat) : Nat := bitsN x 159 156
/-- Width of level k (13 R343). -/
def texW (x k : Nat) : Nat := max 1 ((bitsN x 191 176 + 1) / 2 ^ k)
/-- Height of level k. -/
def texH (x k : Nat) : Nat := max 1 ((bitsN x 175 160 + 1) / 2 ^ k)
/-- Row stride of level k. -/
def texStride (x k : Nat) : Nat := 32 * ((texW x k * texBytes (texFmt x) + 31) / 32)
/-- Address of level k (13 R343). -/
def texLevel (x k : Nat) : Nat :=
  (List.range k).foldl (fun a j => a + (texStride x j * texH x j + 255) / 256 * 256) (bitsN x 255 192)
/-- Malformed texture descriptors (13 R342). -/
def texBad (x : Nat) : Bool :=
  bitsN x 143 0 != 0 || decide (texFmt x > 8) || bitsN x 147 146 == 3 || bitsN x 145 144 == 3 || bitsN x 255 192 % 256 != 0
    || decide (texLv x > Nat.log2 (max (bitsN x 191 176) (bitsN x 175 160) + 1))

/-! ### Sampling -/

/-- A tap (13 R344): place in the level order and in the corner order, level, texel, weight. -/
structure Tap where
  lv : Nat
  pos : Nat
  k : Nat
  x : Int
  y : Int
  w : FV
deriving Repr

/-- The key of a tap within its lane. -/
def Tap.key (t : Tap) : Nat := t.lv * 8 + t.pos

/-- The taps of one level with their weights, and its recorded values (13 R344). -/
def levelTaps (img lv k : Nat) (wk u v : FV) : List Tap × (Int × Int × Nat × Nat) :=
  let tx := u.times (ofIntFV (texW img k))
  let ty := v.times (ofIntFV (texH img k))
  if bitsN img 147 146 = 0 then ([⟨lv, 0, k, tx.floor, ty.floor, wk⟩], (0, 0, 0, 0))
  else
    let half : FV := .fin false 1 (-1)
    let sx := tx.minus half
    let sy := ty.minus half
    let x0 := sx.floor
    let y0 := sy.floor
    let frac (t : FV) (z : Int) : Nat := (((t.minus (ofIntFV z)).times (.fin false 1 8)).floor).toNat
    let a := frac sx x0
    let c := frac sy y0
    let w (p q : Nat) : FV := wk.times (.fin false (p * q) (-16))
    ([⟨lv, 0, k, x0, y0, w (256 - a) (256 - c)⟩, ⟨lv, 1, k, x0 + 1, y0, w a (256 - c)⟩,
      ⟨lv, 2, k, x0, y0 + 1, w (256 - a) c⟩, ⟨lv, 3, k, x0 + 1, y0 + 1, w a c⟩], (x0, y0, a, c))

/-- The taps of a sample (13 R344, R345); none for coordinates that are NaN or infinite. -/
def texTaps (img u v lod draw : Nat) : Option (List Tap) :=
  match fp32.decode u, fp32.decode v with
  | .fin su mu eu, .fin sv mv ev =>
    let fu : FV := .fin su mu eu
    let fv : FV := .fin sv mv ev
    let n := texLv img
    let l : FV := match fp32.decode lod with
      | .nan => .fin false 0 0
      | y => y.clamp (.fin false 0 0) (ofIntFV n)
    let mip := bitsN img 145 144
    let l0 := l.floor.toNat
    let g := (((l.minus (ofIntFV l0)).times (.fin false 1 8)).floor).toNat
    let levels : List (Nat × Nat × FV) :=
      if mip = 0 then [(0, 0, .fin false 1 0)]
      else if mip = 1 then [(0, (l.plus (.fin false 1 (-1))).floor.toNat, .fin false 1 0)]
      else [(0, l0, .fin false (256 - g) (-8)), (1, min (l0 + 1) n, .fin false g (-8))]
    let all := levels.map (fun x => (x, levelTaps img x.1 x.2.1 x.2.2 fu fv))
    let taps :=
      if bitsN img 147 146 = 2 then
        let second := mip == 2 && decide (l0 < n) && decide (bitsN draw 23 16 < g)
        match (if second then all.getLast? else all.head?) with
        | none => []
        | some (x, r) =>
          let bx : Nat := if bitsN draw 7 0 < r.2.2.2.1 then 1 else 0
          let by' : Nat := if bitsN draw 15 8 < r.2.2.2.2 then 1 else 0
          [⟨x.1, bx + 2 * by', x.2.1, r.2.1 + (bx : Int), r.2.2.1 + (by' : Int), .fin false 1 0⟩]
      else all.flatMap (fun x => x.2.1)
    some (taps.filter (fun t => !t.w.isZero))
  | _, _ => none

/-- Wrapping of an index (13 R347); none for a border tap. -/
def texWrap (mode n : Nat) (i : Int) : Option Nat :=
  match mode with
  | 0 => some (i % (n : Int)).toNat
  | 1 => some (max 0 (min i (n - 1 : Int))).toNat
  | 2 => let m := (i % (2 * n : Nat)).toNat; some (if m < n then m else 2 * n - 1 - m)
  | _ => if 0 ≤ i ∧ i < n then some i.toNat else none

/-- The address of a tap's texel (13 R343); none for a border tap. -/
def Tap.addr (img : Nat) (t : Tap) : Option Nat :=
  match texWrap (bitsN img 151 150) (texW img t.k) t.x, texWrap (bitsN img 149 148) (texH img t.k) t.y with
  | some x, some y => some ((texLevel img t.k + y * texStride img t.k + x * texBytes (texFmt img)) % 2 ^ 64)
  | _, _ => none

/-- Channel i of a texel (13 R343); UN8 channels in units of 1/255. -/
def texChan (fmt data i : Nat) : FV :=
  let un := decide (fmt ≤ 2)
  let n := 2 ^ (fmt % 3)
  if i < n then
    (if un then ofIntFV (bytesAt data i 1 : Nat) else if fmt ≤ 5 then fp16.decode (bytesAt data (2 * i) 2)
      else fp32.decode (bytesAt data (4 * i) 4))
  else if i = 3 then (if un then ofIntFV 255 else ofIntFV 1)
  else .fin false 0 0

/-- The four channels of a sample from the texels read (13 R344): encodings and poison. -/
def texResult (img : Nat) (taps : List Tap) (data : Nat → Option (Nat × Bool)) : List Val :=
  let fmt := texFmt img
  let p := taps.any (fun t => match data t.key with
    | some d => d.2
    | none => false)
  (List.range 4).map (fun i =>
    let sum := (sumFV 0 (taps.map (fun t => ((match data t.key with
      | some d => t.w.times (texChan fmt d.1 i)
      | none => t.w.times (FV.fin false 0 0)), 0)))).1
    let x := if fmt ≤ 2 then sum.divNat 255 else sum
    ⟨BitVec.ofNat 32 (roundFp fp32 plainMode 0 x).1, p⟩)

/-- The stochastic draw of 13 R345. -/
def Ctx.texDraw (c : Ctx) (lane : Nat) : Nat :=
  let team := match c.w.tcb with
    | some a => a / 64
    | none => c.w.teamId
  let key := (team % 2 ^ 19) * 2 ^ 45 + (c.w.warpId % 64) * 2 ^ 39 + (lane % 128) * 2 ^ 32 + c.w.cnt.getD lane 0 % 2 ^ 32
  mix64 (mix64 ((c.w.seed ^^^ 0x6a09e667f3bcc908) % 2 ^ 64) ^^^ key)

/-- One FP32 operation under nearest even. -/
def f32op (x : FV × Nat) : Nat := (roundFp fp32 plainMode 0 x.1).1
/-- FP32 product. -/
def f32mul (a b : Nat) : Nat := f32op (mulFV (fp32.decode a) (fp32.decode b))
/-- FP32 difference. -/
def f32sub (a b : Nat) : Nat := f32op (addFV 0 (fp32.decode a) (fp32.decode b).neg)

/-- The level of detail of TEXB's quad (13 R346) without the bias: 0.5 × LG2(rho2). -/
def quadLod (img : Nat) (u v : Nat → Nat) (q : Nat) : Nat :=
  let w := f32op (ofIntFV (texW img 0), 0)
  let h := f32op (ofIntFV (texH img 0), 0)
  let sq (a : Nat) : Nat := f32mul a a
  let side (k : Nat) : Nat :=
    fadd32 (sq (f32mul (f32sub (u (q + k)) (u q)) w)) (sq (f32mul (f32sub (v (q + k)) (v q)) h))
  let rho2 := fminmax32 true (side 1) (side 2)
  f32mul 0x3f000000 (transcElem 4 tLg2 plainMode (ety 2) 0 [rho2]).1

/-! ### Passes, segments and results -/

/-- The key that orders the accesses of an instruction by beat, level, tap or corner, and pass (13 R340). -/
def passKey (lane tap bytes : Nat) : Nat :=
  let np := (32 * bytes + 255) / 256
  ((lane / 32) * 128 + tap) * 8 + lane % 32 / (32 / np)

/-- Accesses in pass order. -/
def passOrder (l : List TexAcc) : List TexAcc := sortBy (fun a b => decide (a.key ≤ b.key)) l

/-- The accesses of one pass by bank (02 R46, R47). -/
def passBanks (atomic : Bool) (p : List TexAcc) : List (Nat × Nat) :=
  let gs := if atomic then p.map (fun a => granOf a.pa) else (p.map (fun a => granOf a.pa)).eraseDups
  (gs.map bankOf).eraseDups.map (fun b => (b, (gs.filter (fun g => bankOf g == b)).length * (if atomic then 2 else 1)))

/-- The first segment (13 R341): as many passes as fit within 448 clk, at least one; (taken, left). -/
def segTake (core : Nat) (atomic : Bool) : List TexAcc → Nat → Nat → Nat → Sparse Nat → List TexAcc → List TexAcc × List TexAcc
  | [], _, _, _, _, _ => ([], [])
  | a :: t, j, h, b, free, cur =>
    -- `cur` holds the accesses of pass `j` so far
    let last := match t with
      | [] => true
      | x :: _ => x.key != a.key
    if !last then
      let r := segTake core atomic t j h b free (cur ++ [a])
      if r.1.isEmpty then ([], a :: r.2) else (a :: r.1, r.2)
    else
      let p := cur ++ [a]
      let bk := passBanks atomic p
      let f1 := bk.foldl (fun (f : Sparse Nat) x => sput 0 f x.1 (max (sget 0 f x.1) j + x.2)) free
      let b1 := bk.foldl (fun m x => max m (sget 0 f1 x.1 - j)) b
      let h1 := p.foldl (fun m x => max m (hops core (granSlice (granOf x.pa)))) h
      if j = 0 ∨ j + 6 + 4 * h1 + b1 ≤ 448 then
        let r := segTake core atomic t (j + 1) h1 b1 f1 []
        (a :: r.1, r.2)
      else ([], a :: t)

/-- The beat and granule list of a segment for latency and counters (02 R46). -/
def segAccs (atomic : Bool) (seg : List TexAcc) : List (Nat × Nat) :=
  let ks := (seg.map (·.key)).eraseDups
  let l := seg.map (fun a => ((findAt (· == a.key) ks).map (·.1) |>.getD 0, granOf a.pa))
  if atomic then l.flatMap (fun x => [x, x]) else l.eraseDups

/-- The term T of 13 R340 by kind of job; a TEXQ's results come 2 clk after its descriptor step (R348). -/
def texTail (op : Nat) : Nat := if op = 0 then 4 else if op = 1 then 6 else if op = 4 then 2 else 0

/-- The parts of a segment by pass (13 R340): each lane's access, tagged with its tap or corner. -/
def segParts (seg : List TexAcc) : List (Nat × AccPart) :=
  let ks := (seg.map (·.key)).eraseDups
  seg.map (fun a => ((findAt (· == a.key) ks).map (·.1) |>.getD 0,
    { lane := a.lane, pa := a.pa, n := a.n, x := a.val, tag := a.key / 8 % 128 }))

/-- The pass slots of a core's texture unit, one per mesh clk from `s0` (13 R340). -/
def passSlotsOf (core s0 np : Nat) : List (Nat × Nat) := (List.range np).map (fun i => (s0 + i, 768 + core))

/-- A segment reserves from the clk `s0` on (13 R340, R341): reads are plain reads of the warp, HGS operations atomic lane
operations; each takes effect at its bank slots. -/
def State.texSegment (s : State) (key : Nat) (w : Warp) (j : TexJob) (s0 : Nat) : State × TexJob :=
  let core := coreOf key
  let r := segTake core (decide (j.op ≥ 2)) j.left 0 0 0 [] []
  let accs := segAccs (decide (j.op ≥ 2)) r.1
  let np := (r.1.map (·.key)).eraseDups.length
  let slots := slotsFrom (s0 + ·) core accs
  let back := s0 + (np - 1) + latencyL core np accs + texTail j.op
  let f : Flight := if j.op ≥ 2
    then ⟨key, warpAgent w, if j.op = 3 then .addQ else .atomic 10, .none, maskOf (r.1.map (·.lane)), atomicAccs slots (segParts r.1), []⟩
    else ⟨key, warpAgent w, .load true, .tex j.at_, maskOf (r.1.map (·.lane)), bankAccs slots (segParts r.1), []⟩
  let s1 := s.reserveFrom (s0 + ·) core np (some key) accs (passSlotsOf core s0 np)
  let s2 := s1.updWarp key (fun w => { w with inflight := w.inflight ++ [back] })
  ({ s2 with flights := s2.flights ++ [f] },
    { j with left := r.2, after := slots.foldl (fun m x => max m x.2.2) s0, done := if r.2.isEmpty then back else 0 })

/-! ### The hash grid -/

/-- Levels of a grid (13 R349). -/
def hgLevels (x : Nat) : Nat := bitsN x 191 188 + 1
/-- Resolution of a level. -/
def hgRes (x l : Nat) : Nat := bitsN x (192 + 16 * l + 15) (192 + 16 * l)
/-- Entries per level. -/
def hgT (x : Nat) : Nat := 2 ^ bitsN x 187 183
/-- Features per entry. -/
def hgF (x : Nat) : Nat := 2 ^ bitsN x 182 181
/-- Dimension. -/
def hgD (x : Nat) : Nat := if bitN x 179 then 3 else 2
/-- Bytes of a feature. -/
def hgFb (x : Nat) : Nat := if bitN x 180 then 4 else 2
/-- Result or gradient registers. -/
def hgRegs (x : Nat) : Nat :=
  let n := hgLevels x * hgF x
  if bitN x 178 then (n + 1) / 2 else n
/-- Malformed grid descriptors (13 R349). -/
def hgBad (x : Nat) (hgs : Bool) : Bool :=
  bitsN x 171 128 != 0 || bitsN x 63 0 != 0 || decide (bitsN x 187 183 < 4 ∨ bitsN x 187 183 > 24) || bitsN x 177 172 == 63
    || (List.range 16).any (fun l => (hgRes x l == 0) == decide (l < hgLevels x))
    || decide (hgLevels x * hgF x > (if bitN x 178 then 64 else 32))
    || bitsN x 511 448 % 256 != 0 || bitsN x 127 64 % 256 != 0 || (hgs && bitsN x 127 64 == 0)

/-- A corner that is not skipped (13 R350): level, corner, weight, entry. -/
structure Corner where
  lv : Nat
  c : Nat
  w : FV
  idx : Nat
deriving Repr

/-- Cell and fraction of a coordinate at a level (13 R350). -/
def hgCell (n x : Nat) : Nat × FV :=
  let p : FV := match fp32.decode x with
    | .nan => .fin false 0 0
    | y => y.clamp (.fin false 0 0) (.fin false 1 0)
  let t := p.times (ofIntFV n)
  let i := min t.floor.toNat (n - 1)
  (i, t.minus (ofIntFV i))

/-- The corners of a lane (13 R350), levels then corners ascending. -/
def hgCorners (x : Nat) (ps : List Nat) : List Corner :=
  (List.range (hgLevels x)).flatMap (fun l =>
    let n := hgRes x l
    let cells := ps.map (hgCell n)
    let dense := decide ((n + 1) ^ hgD x ≤ hgT x)
    (List.range (2 ^ hgD x)).filterMap (fun c =>
      let ax := cells.zip (List.range cells.length)
      let w := ax.foldl (fun (a : FV) z =>
        a.times (if bitN c z.2 then z.1.2 else (FV.fin false 1 0).minus z.1.2)) (.fin false 1 0)
      if w.isZero then none
      else
        let co (d : Nat) : Nat := match ax.find? (fun z => z.2 == d) with
          | some z => z.1.1 + b2n (bitN c d)
          | none => 0
        let idx := if dense then co 0 + (n + 1) * co 1 + (n + 1) ^ 2 * co 2
          else (co 0 ^^^ (co 1 * 0x9e3779b1 % 2 ^ 32) ^^^ (co 2 * 0xc2b2ae3d % 2 ^ 32)) % hgT x
        some ⟨l, c, w, idx⟩))

/-- The encoding of a lane from the entries read (13 R351). -/
def hgResult (x : Nat) (cs : List Corner) (data : Nat → Option (Nat × Bool)) : List Val :=
  let f := hgF x
  let fmt := if bitN x 180 then fp32 else fp16
  let out := if bitN x 178 then fp16 else fp32
  let feats := (List.range (hgLevels x * f)).map (fun j =>
    let es := cs.filter (fun c => c.lv == j / f)
    let terms : List (FV × Nat) := es.map (fun c => ((match data (c.lv * 8 + c.c) with
      | some d => c.w.times (fmt.decode (bytesAt d.1 (j % f * hgFb x) (hgFb x)))
      | none => FV.fin false 0 0), 0))
    let p := es.any (fun c => match data (c.lv * 8 + c.c) with
      | some d => d.2
      | none => false)
    ((roundFp out plainMode 0 (sumFV 0 terms).1).1, p))
  if bitN x 178 then
    (List.range (hgRegs x)).map (fun r =>
      let lo := feats.getD (2 * r) (0, false)
      let hi := feats.getD (2 * r + 1) (0, false)
      ⟨BitVec.ofNat 32 (lo.1 + 2 ^ 16 * hi.1), lo.2 || hi.2⟩)
  else feats.map (fun e => ⟨BitVec.ofNat 32 e.1, e.2⟩)

/-- The data a job's reads have found: lane, tap, data, poison. -/
def State.texGot (s : State) (key : Nat) (j : TexJob) : List (Nat × Nat × Nat × Bool) :=
  (s.flights.filter (fun f => f.key == key && f.dst == .tex j.at_)).flatMap (fun f =>
    f.accs.flatMap (fun a => a.parts.map (fun p => (p.lane, p.tag, p.got, p.psn))))

/-- The results of a job from the data its reads found: values for each lane. -/
def TexJob.results (j : TexJob) (got : List (Nat × Nat × Nat × Bool)) : List (Nat × List Val) :=
  j.lanes.map (fun l =>
    let data (t : Nat) : Option (Nat × Bool) :=
      (got.find? (fun g => g.1 == l.1 && g.2.1 == t)).map (fun g => (g.2.2.1, g.2.2.2))
    let a (i : Nat) : Nat := l.2.getD i 0
    (l.1, if j.op = 0 then
        (match texTaps j.desc (a 0) (a 1) (a 2) (a 3) with
        | none => List.replicate 4 ⟨0#32, a 4 == 1⟩
        | some taps => (texResult j.desc taps data).map (fun v => { v with psn := v.psn || a 4 == 1 }))
      else if j.op = 4 then
        (let x := a 0
         let inl := decide (x ≤ texLv j.desc)
         [if inl then texW j.desc x else 0, if inl then texH j.desc x else 0, texLv j.desc + 1, texFmt j.desc].map
          (fun y => ⟨BitVec.ofNat 32 y, a 1 == 1⟩))
      else hgResult j.desc (hgCorners j.desc l.2) data))

/-- The registers of a job's lanes after its results (13 R340). -/
def Warp.texWrite (w : Warp) (j : TexJob) (rs : List (Nat × List Val)) : Warp :=
  rs.foldl (fun (a : Warp) l =>
    (l.2.zip (List.range l.2.length)).foldl (fun (b : Warp) x => b.setVAt (j.wb + j.dst + x.2) l.1 x.1) a) w

/-- Whether a job's results, or an HGS's completion, are due (13 R340, R341). -/
def TexJob.due (j : TexJob) (clk : Nat) : Bool := j.left.isEmpty && decide (j.done ≤ clk)

/-- A job ends: its registers are written and it is forgotten. -/
def State.texEnd (s : State) (key : Nat) (j : TexJob) : State :=
  let s1 := s.updWarp key (fun w => { (if j.op = 2 ∨ j.op = 3 then w else w.texWrite j (j.results (s.texGot key j))) with
    tex := w.tex.filter (· != j),
    pend := w.pend.filter (fun p => p.del != .tex j.at_) })
  if j.op = 2 ∨ j.op = 3 then s1
  else { s1 with flights := s1.flights.filter (fun f => !(f.key == key && f.dst == .tex j.at_)) }

/-- Every texture-unit instruction of a warp whose time has come ends, and paths that a FENCE holds for it are free (06 R171). -/
def State.texDue (s : State) (key : Nat) : State :=
  match s.warp key with
  | none => s
  | some w =>
    let due := w.tex.filter (fun j => j.due s.clk)
    if due.isEmpty then s else s.freedFrom (due.foldl (fun st j => st.texEnd key j) s) key

/-- The fetch step of an instruction (13 R339, R341), `s0` being its clk, or the clk in which a TEXQ's descriptor step is back: segment
0 reserves; what is left makes its own attempts, and the destinations stay pending until the results are written. -/
def State.texFetch (s : State) (c : Ctx) (j : TexJob) (nregs s0 : Nat) : State :=
  let r := if j.left.isEmpty then (s, { j with done := s0 + texTail j.op + (if j.op = 4 then 0 else 1) }) else s.texSegment c.key c.w j s0
  let pd : Pend := { nid := c.nid, dst := j.dst, num := nregs, mask := maskOf (j.lanes.map (·.1)), wb := j.wb, due := 0, del := .tex j.at_ }
  r.1.updWarp c.key (fun w => { w with tex := w.tex ++ [r.2], pend := if j.op = 2 ∨ j.op = 3 then w.pend else w.pend ++ [pd] })

/-- 13 R341 TEXTURE_SEGMENT_ATTEMPT: the next segment of the instruction that a path issued reserves, or its warp is held; a clk in which
its cluster is paused counts in no `HOLD` (17 R447). -/
def execTextureSegmentAttempt (k m : Nat) (s : State) : Host.Outcome State Fault Refusal :=
  .next <|
    match s.warp k with
    | none => s
    | some w =>
      match findAt (fun j => j.nid == m && !j.left.isEmpty && decide (j.after < s.clk)) w.tex with
      | none => s
      | some (i, j) =>
        let core := coreOf k
        let seg := (segTake core (decide (j.op ≥ 2)) j.left 0 0 0 [] []).1
        let np := (seg.map (·.key)).eraseDups.length
        if s.clear (some k) j.sent (s.clk + ·) core np (segAccs (decide (j.op ≥ 2)) seg) (passSlotsOf core s.clk np) then
          let r := s.texSegment k w j s.clk
          s.freedFrom (r.1.updWarp k (fun w => { w with tex := setAt w.tex i r.2 })) k
        else if s.clk < (s.cluster (clusterOf core)).pause then s
        else s.updWarp k (fun w => { w with hold := satAdd w.hold 1 64 })

/-! ### Instructions -/

/-- The accesses of a lane of an instruction that issued at `at_`: physical addresses, or its first fault (13 R339; 01 R23). -/
def State.laneAddrs (s : State) (at_ key size nd : Nat) : List Nat → Except (Nat × Nat) (List Nat)
  | [] => .ok []
  | va :: t =>
    match s.translateAt at_ key va size nd with
    | .error k => .error (k, va)
    | .ok pa => (s.laneAddrs at_ key size nd t).map (pa :: ·)

/-- The descriptor step of the instruction `i` (13 R339): the descriptor of `n` bytes at `q` is read, and the fetch step is the path's next
issue, from the write-back of the read on. `vals` is what the instruction has read of its lanes. -/
def State.descStep (s : State) (c : Ctx) (i : Instr) (q n : Nat) (vals : List (Nat × List Nat) := []) : Except Trap State := do
  let x := c.addr q 0
  need (!x.2) (.all 5 x.1)
  match s.translate c.key x.1 n needR with
  | .error k => .error (.all k x.1)
  | .ok pa => return s.sendRead c pa n { instr := i, at_ := s.clk, va := x.1, vals := vals }

/-- Whether a descriptor that a texture-unit instruction has read is malformed, or gives it registers past the last (13 R342, R349, R354). -/
def descBadFor (i : Instr) (x : Nat) : Bool :=
  match i with
  | .tex _ _ _ | .texb _ _ _ | .texq _ _ _ => texBad x
  | .hgf p _ u => hgBad x false || !decide (p + hgRegs x ≤ 64 ∧ u + hgD x ≤ 64)
  | .hgsFast p _ u | .hgsExact p _ u => hgBad x true || !decide (p + hgRegs x ≤ 64 ∧ u + hgD x ≤ 64)
  | _ => false

/-- The fetch step begins: the path is no longer between two issues. -/
def State.secondIssue (s : State) (c : Ctx) : State := s.updNode c.key c.nid (fun p => { p with step := none })

/-- TEX and TEXB (13 R344-R348): `i` is the instruction. -/
def execSample (i : Instr) (quad : Bool) (p q u : Nat) (s : State) : Host.Outcome State Fault Refusal :=
  issuing s true fun c s0 => do
    need (p % 4 == 0 && decide (p ≤ 60 ∧ u ≤ 61) && uaddrOk q) trapOpnd
    if !c.any then return s0.finish c (c.npc []) .kill
    else match c.p.step with
    | none => s0.descStep c i q 32
    | some h =>
      let x := h.img
      let s1 := s0.secondIssue c
      let ls := lanesOf c.act
      let own (l : Nat) : Bool := (c.opnd u l).psn || (c.opnd (u + 1) l).psn || (c.opnd (u + 2) l).psn
      let bits (k l : Nat) : Nat := (c.opnd (u + k) l).bits.toNat
      let quadPsn (l : Nat) : Bool := (List.range 4).any (fun i =>
        (c.opnd u (l / 4 * 4 + i)).psn || (c.opnd (u + 1) (l / 4 * 4 + i)).psn)
      let lod (l : Nat) : Nat :=
        if !quad then bits 2 l else if quadPsn l then 0
        else fadd32 (quadLod x (bits 0) (bits 1) (l / 4 * 4)) (bits 2 l)
      let words (l : Nat) : List Nat := [bits 0 l, bits 1 l, lod l, c.texDraw l, b2n (quad && quadPsn l)]
      let f0 : List LaneFault := (ls.filter own).map (fun l => ⟨l, 5, 0, 0⟩)
      let n := texBytes (texFmt x)
      let r := (ls.filter (fun l => !own l)).foldl (fun (a : List (Nat × List Nat) × List TexAcc × List LaneFault) l =>
        let ws := words l
        let taps := (texTaps x (ws.getD 0 0) (ws.getD 1 0) (ws.getD 2 0) (ws.getD 3 0)).getD []
        let ad := taps.filterMap (fun t => (t.addr x).map (fun va => (t.key, va)))
        match s1.laneAddrs h.at_ c.key n needR (ad.map (·.2)) with
        | .error e => (a.1, a.2.1, a.2.2 ++ [⟨l, e.1, e.2, 0⟩])
        | .ok pas =>
          (a.1 ++ [(l, ws)], a.2.1 ++ (ad.zip pas).map (fun z =>
            ({ lane := l, key := passKey l z.1.1 n, pa := z.2, n := n } : TexAcc)), a.2.2)) ([], [], f0)
      let job : TexJob := ⟨c.nid, 0, p, c.p.wb, x, r.1, passOrder r.2.1, 0, 0, h.at_, s1.clk⟩
      return (s1.texFetch c job 4 s1.clk).finish c (c.npc []) .kill r.2.2

/-- 13 R344 TEX. -/
def execTex (p q u : Nat) (s : State) : Host.Outcome State Fault Refusal :=
  execSample (.tex p q u) false p q u s
/-- 13 R346 TEXB. -/
def execTexb (p q u : Nat) (s : State) : Host.Outcome State Fault Refusal :=
  execSample (.texb p q u) true p q u s

/-- 13 R348 TEXQ: it reads its descriptor, and `State.texqBack` ends it. -/
def execTexq (p q u : Nat) (s : State) : Host.Outcome State Fault Refusal :=
  issuing s true fun c s1 => do
    need (p % 4 == 0 && decide (p ≤ 60) && srcNoLatch u && uaddrOk q) trapOpnd
    if !c.any then return s1.finish c (c.npc [u]) .kill
    else s1.descStep c (.texq p q u) q 32 ((lanesOf c.act).map (fun l => (l, [(c.opnd u l).bits.toNat, b2n (c.opnd u l).psn])))

/-- The descriptor of a TEXQ has come (13 R348): its results are written 2 clk on. -/
def State.texqBack (s : State) (c : Ctx) (p u : Nat) (h : HalfIssue) : State :=
  let job : TexJob := ⟨c.nid, 4, p, c.p.wb, h.img, h.vals.filter (fun l => c.act.getLsbD l.1), [], 0, 0, h.at_, s.clk⟩
  ((s.texFetch c job 4 s.clk).finish c (c.npc [u]) .keep).updNode c.key c.nid (fun n => { n with step := none })

/-- The integer that HGS.EXACT adds (13 R352). -/
def hgExact (x : FV) (sh : Nat) : Nat :=
  let lim : Int := 2 ^ 63
  match x with
  | .nan => 0
  | .inf neg => wrapN (if neg then -lim else lim - 1) 64
  | .fin neg m e => wrapN (max (-lim) (min (roundToInt 0 0 neg m (e + sh)).1 (lim - 1))) 64

/-- Each word takes its contributions in ascending order of level, corner and lane (13 R353): the accesses in pass order, the
k-th access of a word carrying the word's k-th contribution in that order. -/
def hgOrder (l : List TexAcc) : List TexAcc :=
  let rank (a : TexAcc) : Nat := (a.key / 8 % 128) * 128 + a.lane
  let byWord := sortBy (fun a b => decide (rank a ≤ rank b)) l
  (passOrder l).foldl (fun (st : List TexAcc × List TexAcc) a =>
    match findAt (fun x => x.pa == a.pa) st.2 with
    | some (i, x) => (st.1 ++ [{ a with val := x.val }], dropAt st.2 i)
    | none => (st.1 ++ [a], st.2)) ([], byWord) |>.1

/-- HGF and HGS (13 R350-R354): `i` is the instruction; `op` 1 HGF, 2 FAST, 3 EXACT. -/
def execGrid (i : Instr) (op p q u : Nat) (s : State) : Host.Outcome State Fault Refusal :=
  issuing s true fun c s0 => do
    need (decide (p ≤ 63 ∧ u ≤ 63) && uaddrOk q) trapOpnd
    if !c.any then return s0.finish c (c.npc []) .kill
    else match c.p.step with
    | none => s0.descStep c i q 64
    | some h =>
      let x := h.img
      let s1 := s0.secondIssue c
      let ls := lanesOf c.act
      let coords (l : Nat) : List Val := (List.range (hgD x)).map (fun k => c.opnd (u + k) l)
      let grads (l : Nat) : List Val := if op = 1 then [] else (List.range (hgRegs x)).map (fun k => c.opnd (p + k) l)
      let bad (l : Nat) : Bool := (coords l).any (·.psn) || (grads l).any (·.psn)
      let f0 : List LaneFault := (ls.filter bad).map (fun l => ⟨l, 5, 0, 0⟩)
      let f := hgF x
      let size := if op = 1 then f * hgFb x else if op = 3 then 8 else 4
      let grad (l j : Nat) : FV :=
        if bitN x 178 then fp16.decode (((grads l).getD (j / 2) {}).bits.toNat / 2 ^ (16 * (j % 2)) % 2 ^ 16)
        else fp32.decode ((grads l).getD j {}).bits.toNat
      let accsOf (l : Nat) : List (Nat × Nat × Nat × Nat) :=
        (hgCorners x ((coords l).map (·.bits.toNat))).flatMap (fun k =>
          let e := k.lv * hgT x + k.idx
          if op = 1 then [(k.lv * 8 + k.c, (bitsN x 511 448 + e * size) % 2 ^ 64, 0, 0)]
          else (List.range f).map (fun ft =>
            let v := k.w.times (grad l (k.lv * f + ft))
            (k.lv * 8 + k.c, (bitsN x 127 64 + (e * f + ft) * size) % 2 ^ 64, ft,
              if op = 3 then hgExact v (bitsN x 177 172) else (roundFp fp32 plainMode 0 v).1)))
      let nd := if op = 1 then needR else needRWAT
      let ebytes := if op = 1 then size else f * size
      let r := (ls.filter (fun l => !bad l)).foldl (fun (a : List (Nat × List Nat) × List TexAcc × List LaneFault) l =>
        let ad := accsOf l
        match s1.laneAddrs h.at_ c.key size nd (ad.map (·.2.1)) with
        | .error e => (a.1, a.2.1, a.2.2 ++ [⟨l, e.1, e.2, 0⟩])
        | .ok pas =>
          (a.1 ++ [(l, (coords l).map (·.bits.toNat))], a.2.1 ++ (ad.zip pas).map (fun z =>
            ({ lane := l, key := passKey l z.1.1 ebytes, pa := z.2, n := size, fx := z.1.2.2.1, val := z.1.2.2.2 } : TexAcc)),
            a.2.2)) ([], [], f0)
      let accs := if op = 1 then passOrder r.2.1 else hgOrder r.2.1
      let job : TexJob := ⟨c.nid, op, p, c.p.wb, x, r.1, accs, 0, 0, h.at_, s1.clk⟩
      let s2 := s1.texFetch c job (hgRegs x) s1.clk
      return (if op = 1 then s2 else s2.clearSpin c).finish c (c.npc []) .kill r.2.2

/-- 13 R351 HGF. -/
def execHgf (p q u : Nat) (s : State) : Host.Outcome State Fault Refusal := execGrid (.hgf p q u) 1 p q u s
/-- 13 R352 HGS.FAST. -/
def execHgsFast (p q u : Nat) (s : State) : Host.Outcome State Fault Refusal :=
  execGrid (.hgsFast p q u) 2 p q u s
/-- 13 R352 HGS.EXACT. -/
def execHgsExact (p q u : Nat) (s : State) : Host.Outcome State Fault Refusal :=
  execGrid (.hgsExact p q u) 3 p q u s

end Sys2Proof.Machine
end

