-- ==== Sys2Proof/Machine/Rays.lean ====
section
/-! DEFINITION. The traversal unit: TRACE, RSORT, HITGET (13 R355-R358). -/
namespace Sys2Proof.Machine

/-! ### The walk -/

/-- A ray: origin and direction, tmin, tmax (13 R356). -/
structure Ray where
  o : List XR
  d : List XR
  tmin : XR
  tmax : XR
deriving Repr

/-- A ray block's eight words. -/
def Ray.ofWords (w : List Nat) : Ray :=
  let x (i : Nat) : XR := XR.f32 (w.getD i 0)
  ⟨[x 0, x 1, x 2], [x 3, x 4, x 5], x 6, x 7⟩

/-- Component k of a list. -/
def xrAt (l : List XR) (k : Nat) : XR := l.getD k .nan

/-- Entry and exit of one slab (13 R356); none where the ray misses it. -/
def slab (o d lo hi : XR) : Option (XR × XR) :=
  match d with
  | .nan => none
  | .q z =>
    if z.num = 0 then (if lo.le o && o.le hi then some (.inf true, .inf false) else none)
    else
      let a := (lo.sub o).div d
      let b := (hi.sub o).div d
      let r := if z.num < 0 then (b, a) else (a, b)
      if r.1.isNan || r.2.isNan then none else some r
  | .inf neg =>
    let a := (lo.sub o).div d
    let b := (hi.sub o).div d
    let r := if neg then (b, a) else (a, b)
    if r.1.isNan || r.2.isNan then none else some r

/-- The entry of a ray into a child's box, if it is hit (13 R356). -/
def boxHit (r : Ray) (best : XR) (box : List XR) : Option XR := do
  let s0 ← slab (xrAt r.o 0) (xrAt r.d 0) (xrAt box 0) (xrAt box 3)
  let s1 ← slab (xrAt r.o 1) (xrAt r.d 1) (xrAt box 1) (xrAt box 4)
  let s2 ← slab (xrAt r.o 2) (xrAt r.d 2) (xrAt box 2) (xrAt box 5)
  let tn := (s0.1.max s1.1).max s2.1
  let tf := (s0.2.min s1.2).min s2.2
  if tn.le tf && r.tmin.le tf && tn.le (r.tmax.min best) then some tn else none

/-- Six FP32 words of a node's image from a bit. -/
def nodeBox (img lo : Nat) : List XR := (List.range 6).map (fun i => XR.f32 (bitsN img (lo + 32 * i + 31) (lo + 32 * i)))

/-- Finite values of a list, or none. -/
def finites (l : List XR) : Option (List Q) := l.mapM (fun x => match x with
  | .q a => some a
  | _ => none)

/-- Cross product. -/
def cross3 (a b : List Q) : List Q :=
  let g (l : List Q) (i : Nat) : Q := l.getD i ⟨0, 1⟩
  [((g a 1).mul (g b 2)).sub ((g a 2).mul (g b 1)), ((g a 2).mul (g b 0)).sub ((g a 0).mul (g b 2)),
    ((g a 0).mul (g b 1)).sub ((g a 1).mul (g b 0))]

/-- Dot product. -/
def dot3 (a b : List Q) : Q := (a.zip b).foldl (fun s x => s.add (x.1.mul x.2)) ⟨0, 1⟩

/-- Difference of vectors. -/
def sub3 (a b : List Q) : List Q := (a.zip b).map (fun x => x.1.sub x.2)

/-- The exact solution of a leaf's triangle (13 R356): t, u, v where it is unique. -/
def triHit (r : Ray) (v : List XR) : Option (Q × Q × Q) := do
  let o ← finites r.o
  let d ← finites r.d
  let p ← finites v
  let v0 := p.take 3
  let e1 := sub3 ((p.drop 3).take 3) v0
  let e2 := sub3 ((p.drop 6).take 3) v0
  let n := cross3 e1 e2
  let det := dot3 d n
  if det.num = 0 then none
  else
    let w := sub3 v0 o
    let t := (dot3 w n).div det
    -- o + t d - V0 = u e1 + v e2; with x = o - V0: u = (x × e2 · d) / -(d · n), v = (e1 × x · d) / -(d · n)
    let x := sub3 o v0
    let u := (dot3 (cross3 x e2) d).div det
    let v := (dot3 (cross3 e1 x) d).div det
    some (t, u, v)

/-- Malformed nodes (13 R355). -/
def nodeBad (img : Nat) : Bool :=
  let k := bitsN img 511 510
  k == 0 || k == 3 || bitsN img 457 448 != 0 || bitsN img 415 384 != 0
    || (k == 2 && (bitsN img 509 484 != 0 || bitsN img 483 458 != 0 || bitsN img 191 96 != 0))

/-- The children of an inner node that a ray hits, the nearer first; at equal entries the left one is (13 R356). -/
def nodeChildren (r : Ray) (best : XR) (space img : Nat) : List Nat :=
  let child (lo hi bl : Nat) : Option (XR × Nat) :=
    (boxHit r best (nodeBox img bl)).map (fun t => (t, space + bitsN img hi lo * 64))
  match child 484 509 192, child 458 483 0 with
  | some x, some y => if y.1.lt x.1 then [y.2, x.2] else [x.2, y.2]
  | some x, none => [x.2]
  | none, some y => [y.2]
  | none, none => []

/-- The best hit after a leaf (13 R356). -/
def leafHit (r : Ray) (b : Best) (img : Nat) : Best :=
  let vs := (List.range 6).map (fun i => XR.f32 (bitsN img (192 + 32 * i + 31) (192 + 32 * i)))
    ++ (List.range 3).map (fun i => XR.f32 (bitsN img (32 * i + 31) (32 * i)))
  let prim := bitsN img 447 416
  match triHit r vs with
  | none => b
  | some (t, u, v) =>
    let zero : Q := ⟨0, 1⟩
    let inside := zero.le u && zero.le v && (u.add v).le ⟨1, 1⟩ && r.tmin.le (.q t) && XR.le (.q t) (r.tmax.min b.t)
    if inside && (XR.lt (.q t) b.t || decide (prim < b.prim)) then ⟨.q t, prim, .q u, .q v⟩ else b

/-- A walk whose stack is empty has ended (13 R356). -/
def RayWalk.close (x : RayWalk) : RayWalk := if x.code.isNone && x.stack.isEmpty then { x with code := some 0 } else x

/-- The node that a ray has asked for is there (13 R356): its image and poison. `space` is added to child addresses. -/
def RayWalk.visit (x : RayWalk) (space img : Nat) (psn : Bool) : RayWalk :=
  let y := { x with due := none }
  if psn then { y with code := some 13 }
  else if nodeBad img then { y with code := some 16 }
  else
    let r := Ray.ofWords x.words
    if bitsN img 511 510 = 1 then
      let st := nodeChildren r x.best.t space img ++ x.stack
      if st.length > 64 then { y with code := some 19 } else { y with stack := st }.close
    else { y with best := leafHit r x.best img }.close

/-- The hit buffer a walk leaves (13 R356, R357). -/
def hitOf (code : Nat) (b : Best) : Hit :=
  let w (x : Nat) : Word := BitVec.ofNat 32 x
  if code = 0 then
    { t := w b.t.round32, prim := w b.prim, u := w b.u.round32, v := w b.v.round32
      status := if b.prim ≠ 0xffffffff then 128#32 else 0#32 }
  else { t := 0x7f800000#32, prim := 0xffffffff#32, u := 0#32, v := 0#32, status := w code }

/-- An empty hit buffer. -/
def noHit : Hit := { t := 0#32 }

/-- The words that HITGET delivers (13 R357). -/
def Hit.words (h : Hit) (k : Nat) : List Val :=
  (if k = 0 then [h.t, h.prim, h.u, h.v] else [h.status]).map (fun x => ⟨x, false⟩)

/-- Whether the traversal unit may read nodes for a warp (13 R356): every store and RED that the warp issued before its TRACE has taken effect. -/
def State.traceMay (s : State) (w : Warp) (j : TraceJob) : Bool :=
  decide (j.after ≤ s.clk) && w.tex.all (fun t => decide (j.at_ ≤ t.at_ ∨ t.op < 2) || (t.left.isEmpty && decide (t.after < s.clk)))

/-- The last bank slot, and one, of the stores and atomic operations that a warp has in flight. -/
def State.writesEnd (s : State) (key : Nat) : Nat :=
  let mine := (s.flights.filter (fun f => f.key == key && f.op != .load true && f.op != .load false)).flatMap (·.accs)
  mine.foldl (fun m a => if a.served then m else max m (a.slot + 1)) 0

/-- The attempt of one ray (13 R356): it asks for its next node, whose two granules the core reads (02 R46, R49) with the translation in
force at the issue of its TRACE (01 R23). -/
def State.rayAttempt (s : State) (key : Nat) (w : Warp) (j : TraceJob) (x : RayWalk) : State × RayWalk :=
  match x.code, x.due, x.stack with
  | none, none, a :: rest =>
    if x.visits ≥ 65536 then (s, { x with code := some 18 })
    else match s.translateAt j.at_ key a 64 needR with
      | .error k => (s, { x with code := some (statusOf k) })
      | .ok pa =>
        let core := coreOf key
        let accs := [(0, granOf pa), (0, granOf pa + 1)]
        let start : Nat → Nat := (s.clk + ·)
        if !s.clear (some key) j.at_ start core 1 accs then (s, x)
        else
          let parts := accs.map (fun g => (0, ({ lane := x.lane, pa := 32 * g.2, n := 32 } : AccPart)))
          let s1 := s.reserveFrom start core 1 (some key) accs
          let f : Flight := ⟨key, warpAgent w, .load true, .ray x.lane, maskOf [x.lane], bankAccs (slotsFrom start core accs) parts, []⟩
          ({ s1 with flights := s1.flights ++ [f] },
            { x with stack := rest, visits := x.visits + 1, due := some (s.clk + latencyL core 1 accs) })
  | _, _, _ => (s, x)

/-- The attempts that a warp's rays make in a mesh clk, in lane order. DESIGN CHOICE (log 87): the spec gives the traversal unit no place among the
requesters; the model has it attempt after the texture units, once per ray and clk. -/
def State.traceAttempt (s : State) (key : Nat) : State :=
  match s.warp key with
  | none => s
  | some w =>
    match w.trace with
    | none => s
    | some j =>
      if !s.traceMay w j then s
      else
        let r := j.rays.foldl (fun (a : State × List RayWalk) x =>
          let y := a.1.rayAttempt key w j x
          (y.1, a.2 ++ [y.2])) (s, [])
        r.1.updWarp key (fun w => { w with trace := some { j with rays := r.2 } })

/-- A node that a ray has asked for, once it is there: its image and its poison. -/
def State.rayNode (s : State) (key lane : Nat) : Nat × Bool :=
  let ps := ((s.flights.filter (fun f => f.key == key && f.dst == .ray lane)).flatMap (·.accs)).flatMap (·.parts)
  let base := ps.foldl (fun m p => min m p.pa) (2 ^ 64)
  (ps.foldl (fun n p => n + p.got * 2 ^ (8 * (p.pa - base))) 0, ps.any (·.psn))

/-- The nodes that are there are visited by their rays (13 R356). -/
def State.raysVisit (s : State) (key : Nat) : State :=
  match s.warp key with
  | none => s
  | some w =>
    match w.trace with
    | none => s
    | some j =>
      let space := if j.root < 2 ^ 32 then 0 else 2 ^ 32
      let here (x : RayWalk) : Bool := match x.due with
        | some t => decide (t ≤ s.clk)
        | none => false
      let go (x : RayWalk) : RayWalk := if here x then (let n := s.rayNode key x.lane; x.visit space n.1 n.2) else x
      let gone := (j.rays.filter here).map (·.lane)
      let s1 := { s with flights := s.flights.filter (fun f => f.key != key || gone.all (fun l => f.dst != FlightDst.ray l)) }
      s1.updWarp key (fun w => { w with trace := some { j with rays := j.rays.map go } })

/-- A warp's TRACE is complete: its hit buffers are full, and what waits for them is delivered (13 R357). -/
def Warp.traced (w : Warp) (hits : List (Nat × Hit)) : Warp :=
  let w1 := { w with trace := none, hits := hits.foldl (fun (h : Sparse Hit) (x : Nat × Hit) => sput noHit h x.1 x.2) w.hits }
  let due (p : Pend) : Option Nat := match p.del with
    | .trace i => some i
    | _ => none
  let w2 := w1.pend.foldl (fun (a : Warp) p => match due p with
    | none => a
    | some i => (lanesOf p.mask).foldl (fun (b : Warp) l =>
        let vs := (sget noHit w1.hits l).words i
        (vs.zip (List.range vs.length)).foldl (fun (c : Warp) x => c.setVAt (p.wb + p.dst + x.2) l x.1) b) a) w1
  { w2 with pend := w2.pend.filter (fun p => (due p).isNone) }

/-- 13 R356 TRACE_COMPLETE: rays visit the nodes that are there, and a TRACE whose walks have all ended is complete; what it has held back
may issue (06 R171). -/
def execTraceComplete (k m : Nat) (s : State) : Host.Outcome State Fault Refusal :=
  .next <|
    match (s.warp k).bind (·.trace) with
    | none => s
    | some j =>
      if j.nid ≠ m then s
      else
        let s1 := s.raysVisit k
        let rays := (((s1.warp k).bind (·.trace)).map (·.rays)).getD []
        if rays.all (fun x => x.code.isSome) then
          s1.freedFrom (s1.updWarp k (fun w => w.traced (rays.map (fun x => (x.lane, hitOf (x.code.getD 0) x.best))))) k
        else s1

/-! ### Instructions -/

/-- Rays that a core's traversal unit holds (13 R357). -/
def State.raysHeld (s : State) (core : Nat) : Nat :=
  s.warps.foldl (fun n x => if liveKey x.1 && coreOf x.1 == core then (match x.2 with
    | some w => n + (match w.trace with
      | some j => j.rays.length
      | none => 0)
    | none => n) else n) 0

/-- 13 R356, R357 TRACE. While an earlier TRACE of the warp is incomplete, or the unit holds 512 rays, it does not issue. -/
def execTrace (q u : Nat) (s : State) : Host.Outcome State Fault Refusal :=
  issuing s true fun c s1 => do
    need (uaddrOk q && u % 8 == 0 && decide (u ≤ 56)) trapOpnd
    if !c.any then return s1.finish c (c.npc []) .kill
    else if c.w.trace.isSome || decide (s1.raysHeld (coreOf c.key) ≥ 512) then return s1
    else
      let a := c.addr q 0
      need (!a.2) (.all 5 a.1)
      need (a.1 % 64 == 0) (.all 3 a.1)
      need (decide (spaceOf a.1 ≤ 1)) (.all 2 a.1)
      let block (l : Nat) : List Val := (List.range 8).map (fun i => c.opnd (u + i) l)
      let bad (l : Nat) : Bool := (block l).any (·.psn)
      let fs : List LaneFault := ((lanesOf c.act).filter bad).map (fun l => ⟨l, 5, 0, 0⟩)
      let good := (lanesOf c.act).filter (fun l => !bad l)
      let rays := good.map (fun l => ({ lane := l, words := (block l).map (·.bits.toNat), stack := [a.1] } : RayWalk))
      let s2 := if good.isEmpty then s1 else s1.updWarp c.key (fun w => { w with
        trace := some { nid := c.nid, root := a.1, rays := rays, at_ := s1.clk, after := max s1.clk (s1.writesEnd c.key) } })
      return s2.finish c (c.npc []) .kill fs

/-- 13 R357 HITGET: delivered at once, or at the end of the warp's TRACE. -/
def execHitget (p q : Nat) (s : State) : Host.Outcome State Fault Refusal :=
  issuing s true fun c s1 => do
    need (decide (q ≤ 1 ∧ p < 64) && (q == 1 || p % 4 == 0)) trapOpnd
    let s2 :=
      if !c.any then s1
      else if c.w.trace.isSome then
        let pd : Pend := { nid := c.nid, dst := p, num := if q = 0 then 4 else 1, mask := c.act, wb := c.p.wb, due := 0,
                           del := .trace q }
        s1.updWarp c.key (fun w => { w with pend := w.pend ++ [pd] })
      else s1.updWarp c.key (fun w => (lanesOf c.act).foldl (fun (a : Warp) l =>
        let vs := (sget noHit w.hits l).words q
        (vs.zip (List.range vs.length)).foldl (fun (b : Warp) x => b.setVAt (c.p.wb + p + x.2) l x.1) a) w)
    return s2.finish c (c.npc []) .kill

/-- The magnitude of a component as an extended rational. -/
def xrAbs : XR → XR
  | .nan => .nan
  | .inf _ => .inf false
  | .q a => .q (if a.num < 0 then a.neg else a)

/-- A direction component quantised (13 R358); none for ∞ / ∞, whose value the spec does not state. -/
def sortQuant (d m : XR) : Option Nat :=
  match d.div (xrAbs m) with
  | .nan => if (match m with
      | .q z => z.num == 0
      | _ => false) then some 512 else none
  | .inf neg => some (if neg then 0 else 1023)
  | .q z => some (min (max (((z.add ⟨1, 1⟩).mul ⟨512, 1⟩).floor) 0) 1023).toNat

/-- The key of a ray (13 R358); an unstated quantum is taken from `free` (log 3). -/
def sortKey (view : Nat) (d : List Nat) (free : Nat → Nat) : Nat :=
  let x (i : Nat) : XR := XR.f32 (d.getD i 0)
  let m := if (xrAbs (x 1)).le (xrAbs (x 0)) && (xrAbs (x 2)).le (xrAbs (x 0)) then 0
    else if (xrAbs (x 2)).le (xrAbs (x 1)) then 1 else 2
  let ab := ([0, 1, 2] : List Nat).filter (· != m)
  let qz (i : Nat) : Nat := (sortQuant (x (ab.getD i 0)) (x m)).getD (free i % 1024)
  let oct := (List.range 3).foldl (fun a i => a + (d.getD i 0 / 2 ^ 31 % 2) * 2 ^ i) 0
  view % 128 * 2 ^ 25 + oct * 2 ^ 22 + m * 2 ^ 20 + qz 0 * 2 ^ 10 + qz 1

/-- 13 R358 RSORT. -/
def execRsort (p q u : Nat) (s : State) : Host.Outcome State Fault Refusal :=
  issuing s true fun c s1 => do
    need (p % 2 == 0 && decide (p ≤ 62) && srcNoLatch q && u % 8 == 0 && decide (u ≤ 56)) trapOpnd
    let ls := lanesOf c.act
    let key (l : Nat) : Nat × Bool :=
      let view := c.opnd q l
      let blk := (List.range 8).map (fun i => c.opnd (u + i) l)
      let d := ((blk.drop 3).take 3).map (·.bits.toNat)
      if view.psn || blk.any (·.psn) || d.any (fun x => (fp32.decode x).isNan) then (0xffffffff, true)
      else (sortKey view.bits.toNat d (fun i => Config.freeNat (s1.fresh + 2 * l + i)), false)
    let ks := ls.map (fun l => (l, key l))
    let sorted := sortBy (fun (a b : Nat × Nat × Bool) => decide (a.2.1 < b.2.1 ∨ (a.2.1 = b.2.1 ∧ a.1 ≤ b.1))) ks
    let s2 := s1.updWarp c.key (fun w => (ks.zip sorted).foldl (fun (a : Warp) x =>
      (a.setVAt (c.p.wb + p) x.1.1 ⟨BitVec.ofNat 32 x.2.1, false⟩).setVAt (c.p.wb + p + 1) x.1.1
        ⟨BitVec.ofNat 32 x.1.2.1, x.1.2.2⟩) w)
    return { s2 with fresh := s2.fresh + 192 }.finish c (c.npc [q]) .kill

end Sys2Proof.Machine
end

