-- ==== Sys2Proof/Machine/Frag.lean ====
section
/-! DEFINITION. Fault records, the directory, handler launches and the FRAG group (16 R423-R435; 18 R470). -/
namespace Sys2Proof.Machine

/-! ### The directory -/

/-- The work that a live handle of a context names (16 R427). -/
def Context.liveWork (c : Context) (h : Nat) : Option Work :=
  let e := sget {} c.dir (h / 2 ^ 22)
  if h % 2 ^ 22 ≠ 0 ∧ e.serial = h % 2 ^ 22 ∧ h < 2 ^ 32 then some e.work else none

/-- Frees a directory entry. -/
def State.freeHandle (s : State) (ctx h : Nat) : State :=
  s.setCtx ctx { s.ctx ctx with dir := sput {} (s.ctx ctx).dir (h / 2 ^ 22) {} }

/-- The next serial number (16 R427). -/
def nextSerial (x : Nat) : Nat := if x + 1 ≥ 0x3fffff then 1 else x + 1

/-- Takes the lowest free directory entry for work: the handle; none while no entry is free. -/
def Context.takeEntry (c : Context) (w : Work) : Option (Nat × Context) :=
  match (List.range 1024).find? (fun i => (sget {} c.dir i).serial == 0) with
  | none => none
  | some i =>
    let n := nextSerial c.serial
    some (i * 2 ^ 22 + n, { c with serial := n, dir := sput {} c.dir i ⟨n, w⟩ })

/-- The team of a piece of work. -/
def Work.team : Work → Nat
  | .frag t _ _ => t
  | .warp t _ => t
  | .gang t => t

/-- Whether the team of some work is saved or is being saved or restored (16 R433): not one whose discard is pending, which its handle still
changes at once. -/
def State.workSaved (s : State) (w : Work) : Bool :=
  match s.team w.team with
  | some t => t.status == .saved || t.preempt == 1 || t.restoring
  | none => false

/-- Hops from a core to the core that holds some work, or that it was saved from (16 R428), by the half of a pair that the work belongs to. -/
def State.workHops (s : State) (core : Nat) (w : Work) : Nat :=
  match s.team w.team with
  | none => 0
  | some t =>
    let key := match w with
      | .frag _ i _ => s.warpKey w.team i
      | .warp _ i => s.warpKey w.team i
      | .gang _ => none
    match key with
    | some k => if liveKey k then hops core (coreOf k)
        else (match s.warp k with
          | some v => hops core (coreOf v.leftKey)
          | none => hops core t.core)
    | none => hops core t.core

/-! ### Resuming and killing -/

/-- Some of a team's parked work has been resumed or killed: the task's `STATE` is RUNNING again when none is left
(16 R435). -/
def State.unawait (s : State) (tk : Nat) : State :=
  match s.team tk with
  | none => s
  | some t =>
    let s1 := s.setTeam tk (some { t with awaiting := t.awaiting - 1 })
    match t.tcb with
    | some a => if t.awaiting ≤ 1 ∧ t.status ≠ .ended then s1.setTaskState t.ctx a 3 else s1
    | none => s1

/-- A parked warp is Resident again (06 R173); `pc` moves the path that faulted. -/
def State.unpark (s : State) (key : Nat) (skip : Bool) : State :=
  match s.warp key with
  | none => s
  | some w =>
    match w.park with
    | none => s
    | some (_, _, _, nid, _) =>
      let st : WarpStatus := if w.status = .parked then .resident else w.status
      let s1 := s.setWarp key (some { w with park := none, detail := [], yv := 0, age := s.clk, status := st })
      if skip then s1.updNode key nid (fun n => { n with pc := n.pc + BitVec.ofNat 32 (s.instrLen key n.pc.toNat) }) else s1

/-- Resumes work (16 R431); `k` is the mode. -/
def State.resumeNow (s : State) (w : Work) (k : Nat) : State :=
  let s1 := match w with
    | .frag t i f => (match s.warpKey t i with
      | some key => (match s.fragNode key f with
        | some nid => s.resumeFrag key nid (if k = 1 then s.instrLen key (s.node key nid).pc.toNat else 0)
        | none => s)
      | none => s)
    | .warp t i => (match s.warpKey t i with
      | some key => s.unpark key (k == 1)
      | none => s)
    | .gang t => (match s.team t with
      | some x => x.keys.foldl (fun st key => st.updWarp key (fun (v : Warp) =>
            if v.status == WarpStatus.parked && v.park.isNone then { v with status := WarpStatus.resident, age := s.clk } else v))
          (s.setTeam t (some { x with gangPark := none }))
      | none => s)
  s1.unawait w.team

/-- Every lane of a warp exits (16 R432). -/
def State.killWarp (s : State) (key : Nat) : State :=
  let s1 := s.updWarp key (fun (w : Warp) =>
    { w with park := none, detail := [], status := if w.status = WarpStatus.parked then .resident else w.status })
  s1.leaveLanes key 64 (s1.liveLanes key)

/-- Ends work (16 R432); its launch will be journalled FAILED (R435). -/
def State.killNow (s : State) (w : Work) : State :=
  match s.team w.team with
  | none => s
  | some x =>
    let s0 := match s.launch x.launch with
      | some l => s.setLaunch x.launch (some { l with failed := true })
      | none => s
    let s1 := match w with
      | .frag t i f => (match s0.warpKey t i with
        | some key => (match s0.fragNode key f with
          | some nid => s0.leaveLanes key nid (s0.node key nid).mask
          | none => s0)
        | none => s0)
      | .warp t i => (match s0.warpKey t i with
        | some key => s0.killWarp key
        | none => s0)
      | .gang t => x.keys.foldl (fun st key => st.killWarp key) (s0.setTeam t (some { x with gangPark := none }))
    s1.unawait w.team

/-- FRESUME, FKILL and the driver's RESUME and KILL on a handle (16 R431-R433): the status, and the state. Work of a team that
is saved, or being saved, changes when the team resumes (R442). -/
def State.handleOp (s : State) (ctx h : Nat) (kill : Bool) (k : Nat) : Nat × State :=
  match (s.ctx ctx).liveWork h with
  | none => (1, s)
  | some w =>
    let s1 := s.freeHandle ctx h
    if s.workSaved w then
      match s1.team w.team with
      | some t => (0, s1.setTeam w.team (some { t with changes := t.changes ++ [(w, kill, k)] }))
      | none => (0, s1)
    else (0, if kill then s1.killNow w else s1.resumeNow w k)

/-! ### The FRAG group -/

/-- The shape of a FRAG instruction: legal in handler warps alone, operand limits, once per issue (16 R428). One that is a release step ends a
spin (06 R172). -/
def execFrag (s : State) (release chk : Bool) (codes : List Nat) (body : Ctx → State → Except Trap State) :
    Host.Outcome State Fault Refusal :=
  issuing s true fun c s1 => do
    need c.w.handler trapInstr
    need chk trapOpnd
    if c.any then
      let s2 ← body c s1
      let s3 := s2.finish c (c.npc codes) .kill
      return if release then s3.clearSpin c else s3
    else return s1.finish c (c.npc codes) .kill

/-- A result that a path issues now comes some sub-core clk later (00 R5; 16 R428). -/
def State.fragAt (s : State) (c : Ctx) (n : Nat) : Nat := s.coreClk (coreOf c.key) n

/-- A result pending until its delivery (16 R428, 11 R297). -/
def State.fragResult (s : State) (c : Ctx) (p due : Nat) (vals : List Val) : State :=
  let pd : Pend := { nid := c.nid, dst := p, num := 1, mask := c.act, wb := c.p.wb, due := due, del := .frag vals }
  s.updWarp c.key (fun w => { w with pend := w.pend ++ [pd] })

/-- The physical address of a slot of a context's fault queue (16 R424). -/
def State.fqSlot (s : State) (ctx i : Nat) : Option Nat :=
  let c := s.ctx ctx
  s.ctxPa ctx (c.fqbase * 64 + 64 * (i % 2 ^ c.fqlog2)) needW

/-- 16 R429 FQPOP. -/
def execFqpop (p q : Nat) (s : State) : Host.Outcome State Fault Refusal :=
  execFrag s false (isS p && uaddrOk q) [] fun c s1 => do
    let x := c.addr q 0
    need (!x.2) (.all 5 x.1)
    match s1.translate c.key x.1 64 needW with
    | .error k => .error (.all k x.1)
    | .ok pa =>
      let cx := s1.ctx c.w.ctx
      match (if cx.fqhead = cx.fqtail then none else s1.fqSlot c.w.ctx cx.fqhead) with
      | none => return (s1.fragResult c p (s1.fragAt c 12) [⟨0xffffffff#32, false⟩]).acquireHold c (s1.fragAt c 12)
      | some src =>
        let r := s1.stopRead ctlStop src 64
        let h := bitsN r.1 159 128
        let s2 := r.2.2.2.setCtx c.w.ctx { cx with fqhead := cx.fqhead + 1 }
        let s3 := s2.plainSpan ctlStop deviceAgent pa 64 r.1 r.2.1
        let hop := match cx.liveWork h with
          | some w => s1.workHops (coreOf c.key) w
          | none => 0
        let due := max (s1.fragAt c (12 + 4 * hop)) (s1.clk + 17)
        return (s3.fragResult c p due [⟨BitVec.ofNat 32 h, false⟩]).acquireHold c due

/-- What FINFO reports of a lane of parked work (16 R430): the lane fault, if the lane is in `LMASK`. -/
def State.laneDetail (s : State) (w : Work) (lane : Nat) : Option LaneFault :=
  match w with
  | .frag t i f => do
    let key ← s.warpKey t i
    let nid ← s.fragNode key f
    (s.node key nid).detail.find? (fun d => d.lane == lane)
  | .warp t i => do
    let key ← s.warpKey t i
    let v ← s.warp key
    let pk ← v.park
    if !pk.2.2.2.2.getLsbD lane then none
    else some ((v.detail.find? (fun d => d.lane == lane)).getD ⟨lane, pk.1, 0, 0⟩)
  | .gang t => do
    let x ← s.team t
    let key ← x.keys.head?
    if (s.liveLanes key).getLsbD lane then some ⟨lane, 32, 0, 0⟩ else none

/-- The slot and window base of the path that parked (16 R430). -/
def State.workWindow (s : State) (w : Work) : Option (Nat × Nat) :=
  match w with
  | .frag t i f => do
    let key ← s.warpKey t i
    let nid ← s.fragNode key f
    return (key, (s.node key nid).wb)
  | .warp t i => do
    let key ← s.warpKey t i
    let v ← s.warp key
    let pk ← v.park
    return (key, (s.node key pk.2.2.2.1).wb)
  | .gang _ => none

/-- The item of a lane of parked work (16 R430). -/
def State.infoItem (s : State) (w : Work) (item lane : Nat) : Val :=
  let num (f : LaneFault → Nat) : Val := match s.laneDetail w lane with
    | some d => ⟨BitVec.ofNat 32 (f d), false⟩
    | none => {}
  match item with
  | 0 => num (fun d => d.va % 2 ^ 32)
  | 1 => num (fun d => d.va / 2 ^ 32)
  | 2 => num (fun d => d.code)
  | 3 => num (fun d => d.xf)
  | _ => match s.workWindow w with
    | some (key, wb) => (match s.warp key with
      | some v => v.vAt (wb + (item - 64)) lane
      | none => {})
    | none => {}

/-- 16 R430 FINFO. -/
def execFinfo (p q u : Nat) (s : State) : Host.Outcome State Fault Refusal :=
  execFrag s false (decide (p < 64) && uniOk q && uniOk u) [q, u] fun c s1 => do
    let h ← c.uval q
    let sel ← c.uval u
    let item := sel % 256
    let k := bitsN sel 9 8
    need (decide (sel < 1024 ∧ k ≤ 2) && (decide (item ≤ 3) || decide (64 ≤ item ∧ item ≤ 127))) trapOpnd
    match (s1.ctx c.w.ctx).liveWork h with
    | none => return s1.fragResult c p (s1.fragAt c 12) (List.replicate 96 ⟨0#32, true⟩)
    | some w =>
      let vals := (List.range 96).map (fun l => if l < 32 then s1.infoItem w item (32 * k + l) else {})
      return s1.fragResult c p (s1.fragAt c (12 + 4 * s1.workHops (coreOf c.key) w)) vals

/-- FRESUME and FKILL: the status is delivered to `p`. -/
def State.fragOp (s : State) (c : Ctx) (p h : Nat) (kill : Bool) (k : Nat) : State :=
  let hop := match (s.ctx c.w.ctx).liveWork h with
    | some w => s.workHops (coreOf c.key) w
    | none => 0
  let r := s.handleOp c.w.ctx h kill k
  r.2.fragResult c p (s.fragAt c (12 + 4 * hop)) [⟨BitVec.ofNat 32 r.1, false⟩]

/-- 16 R431 FRESUME; a release step at .DV (R433), whose waits come before issue (11 R279). -/
def execFresume (p q u : Nat) (s : State) : Host.Outcome State Fault Refusal :=
  execFrag s true (isS p && uniOk q && uniOk u) [q, u] fun c s1 => do
    let h ← c.uval q
    let k ← c.uval u
    need (decide (k ≤ 1)) trapOpnd
    return s1.fragOp c p h false k

/-- 16 R432 FKILL; a release step at .DV (R433). -/
def execFkill (p q : Nat) (s : State) : Host.Outcome State Fault Refusal :=
  execFrag s true (isS p && uniOk q) [q] fun c s1 => do
    let h ← c.uval q
    return s1.fragOp c p h true 0

/-- 16 R428: the result of a FRAG instruction reaches its path. -/
def execFragDelivery (k m : Nat) (s : State) : Host.Outcome State Fault Refusal :=
  .next <|
    let vals (p : Pend) : List Val := match p.del with
      | .frag vs => vs
      | _ => []
    s.deliver k (fun p => p.nid == m && decide (p.due ≤ s.clk) && (match p.del with
        | .frag _ => true
        | _ => false))
      (fun p => (lanesOf p.mask).map (fun l => (l, [(vals p).getD l {}]))) vals

/-! ### Fault records -/

/-- The place of a fault in the order of its context (16 R424): issue clk, core, sub-core. -/
def FaultItem.order (f : FaultItem) : Nat := bitsN f.image 127 64 * 2 ^ 12 + bitsN f.image 287 280 * 16 + bitsN f.image 279 276

/-- A task whose work awaits a handler is FAULTED (16 R435). -/
def State.markFaulted (s : State) (w : Work) : State :=
  match s.team w.team with
  | some t => (match t.tcb with
    | some a => s.setTaskState t.ctx a 5
    | none => s)
  | none => s

/-- One fault of a context takes a directory entry, waits for the writes in flight, and its record enters the fault queue, or the driver's log
(16 R424, R426). -/
def State.writeFault (s : State) (cx : Nat) (f0 : Option FaultItem) : State :=
    let c0 := s.ctx cx
    match f0 with
    | none => s
    | some f0 =>
      let taken : Option (FaultItem × Context) :=
        if f0.handle ≠ 0 then some (f0, c0)
        else match c0.takeEntry f0.work with
          | none => none
          | some (h, c1) =>
            let f1 := { f0 with handle := h }
            some (f1, { c1 with pending := c1.pending.map (fun x => if x = f0 then f1 else x) })
      match taken with
      | none => s
      | some (f, c) =>
        let s1 := s.setCtx cx c
        if s.clk < f.after then s1
        else
          let img := f.image + fieldN f.handle 128 32
          let left := c.pending.filter (· != f)
          match (if f.toDriver then none else s1.fqSlot cx c.fqtail) with
          | none => ((s1.setCtx cx { c with pending := left }).driverLog img).markFaulted f.work
          | some pa =>
            if c.fqtail - c.fqhead ≥ 2 ^ c.fqlog2 then s1
            else
              let s2 := s1.setCtx cx { c with pending := left, fqtail := c.fqtail + 1, fseq := (c.fseq + 1) % 2 ^ 32 }
              (s2.devWrite pa 64 (img + fieldN c.fseq 32 32)).markFaulted f.work

/-- 16 R424, R426: the oldest fault of a context that goes to its queue, and the oldest that goes to the driver's log, each go on: neither waits
for the other. -/
def execFaultRecordWrite (cx : Nat) (s : State) : Host.Outcome State Fault Refusal :=
  .next <|
    let oldest (st : State) (drv : Bool) : Option FaultItem :=
      leastBy (fun a b => decide (a.order < b.order)) ((st.ctx cx).pending.filter (fun f => f.toDriver == drv))
    let s1 := s.writeFault cx (oldest s false)
    s1.writeFault cx (oldest s1 true)

/-- After a failed handler acceptance a context counts as one without a handler (16 R425). -/
def State.handlerDead (s : State) (cx : Nat) : State :=
  let c := s.ctx cx
  let s1 := s.setCtx cx { c with hdead := true, fqhead := c.fqtail, pending := c.pending.map (fun f => { f with toDriver := true }) }
  (List.range (c.fqtail - c.fqhead)).foldl (fun st i =>
    match s.fqSlot cx (c.fqhead + i) with
    | some pa => let r := st.stopRead ctlStop pa 64; r.2.2.2.driverLog r.1
    | none => st) s1

/-- 16 R425: a handler launch of a context is accepted. -/
def execHandlerLaunchStart (cx : Nat) (s : State) : Host.Outcome State Fault Refusal :=
  .next <|
    let c := s.ctx cx
    if c.hrec = 0 ∨ c.hdead = true ∨ c.fqhead = c.fqtail ∨ c.hmax ≤ c.hrun then s
    else
      let r := s.readRec cx (c.hrec * 64)
      match r.1 with
      | none => (r.2.badLaunch 67 0 cx).handlerDead cx
      | some x =>
        if launchMalformed x true || lrKind x != 0 then (r.2.badLaunch 67 0 cx).handlerDead cx
        else
          let h := match s.fqSlot cx c.fqhead with
            | some pa => let y := r.2.stopRead ctlStop pa 64; (bitN y.1 272, y.2.2.2)
            | none => (false, r.2)
          let a := h.2.addLaunch { queue := c.hqueue, ctx := cx, pos := 0, recAddr := c.hrec * 64, image := x, kind := 0
                                   handler := true, strip := h.1, s5 := c.fqtail - c.fqhead, src := 67 }
          (a.2.setCtx cx { a.2.ctx cx with hrun := c.hrun + 1 }).journal 67 a.1 0 1 cx 0

end Sys2Proof.Machine
end

