-- ==== Sys2Proof/Machine/Place.lean ====
section
/-! DEFINITION. Where a team fits and where it is placed: warp slots, registers, scratchpads, spill areas, Ashlar contexts,
energy, reservations (06 R151-R155; 15 R403, R404, R407, R408; 16 R440, R441; 17 R451). -/
namespace Sys2Proof.Machine

/-! ### Occupancy -/

/-- Warps that occupy a sub-core for a context: those in its slots, and saved ones of the context that left it (16 R440): slot,
first register position, positions. -/
def State.subLoad (s : State) (ctx core sub : Nat) : List (Nat × Nat × Nat) :=
  s.warps.filterMap (fun x => match x.2 with
    | none => none
    | some w =>
      let k := if liveKey x.1 then x.1 else w.leftKey
      if k / 8 == core * 16 + sub && (liveKey x.1 || w.ctx == ctx) then some (k % 8, w.rbase, w.width / 32 * w.depth) else none)

/-- Free warp slots of a core, as a context sees them. -/
def State.freeSlots (s : State) (ctx core : Nat) : Nat :=
  128 - (List.range 16).foldl (fun a sub => a + (s.subLoad ctx core sub).length) 0

/-- The lowest gap of `n` in a range, beside ranges that are taken (start and length). -/
def lowestGap (lo hi n : Nat) (taken : List (Nat × Nat)) : Option Nat :=
  let starts := lo :: (taken.map (fun r => r.1 + r.2)).filter (fun a => decide (lo ≤ a))
  leastBy (fun a b => decide (a < b)) (starts.filter (fun a => decide (a + n ≤ hi)
    && taken.all (fun r => decide (a + n ≤ r.1 ∨ r.1 + r.2 ≤ a))))

/-- The sub-cores that take warps of `r` register positions each, one after another (15 R404): fewest occupied slots, lowest number;
none where one finds no room (06 R152). A sub-core is given by the positions taken on it, warp by warp, and its free belay entries; a
warp by the entries it brings. DESIGN CHOICE (log 123): a sub-core holds a warp only with a gap of `r` positions and, for a saved warp,
enough free entries. -/
def planWarps (r : Nat) : List Nat → List (List (Nat × Nat) × Nat) → Option (List Nat)
  | [], _ => some []
  | k :: rest, loads =>
    let room (x : (List (Nat × Nat) × Nat) × Nat) : Option (Nat × Nat × List (Nat × Nat) × Nat) :=
      if decide (x.1.1.length < 8) && (k == 0 || decide (k ≤ x.1.2)) then
        (lowestGap 0 512 r x.1.1).map (fun g => (x.1.1.length, x.2, x.1.1 ++ [(g, r)], x.1.2))
      else none
    match leastBy (fun a b => decide (a.1 < b.1)) ((loads.zip (List.range 16)).filterMap room) with
    | none => none
    | some x => (planWarps r rest (setAt loads x.2.1 (x.2.2.1, x.2.2.2 - k))).map (fun l => x.2.1 :: l)

/-- The register positions taken on each sub-core of a core, warp by warp, and its free belay entries. -/
def State.loads (s : State) (ctx core : Nat) : List (List (Nat × Nat) × Nat) :=
  (List.range 16).map (fun sub => ((s.subLoad ctx core sub).map (·.2),
    64 - (s.belay.filter (fun e => e.1 / 64 == core * 16 + sub && e.2.kind != .free)).length))

/-- Scratchpads and spill areas that teams of a context hold in the slice of a core: start and bytes (06 R153; 16 R441). -/
def State.heldRanges (s : State) (ctx core : Nat) : List (Nat × Nat) :=
  s.teams.flatMap (fun x => match x.2 with
    | none => []
    | some t =>
      if t.ctx != ctx || t.status == .waiting || t.gone != 0 then []
      else
        (if t.core == core then [(t.base0, t.scratch)] else [])
          ++ (if t.pair && partner t.core == core then [(t.base1, t.scratch)] else [])
          ++ (if t.restoring && t.oldCore == core then [(t.old0, t.scratch)] else [])
          ++ (if t.restoring && t.pair && partner t.oldCore == core then [(t.old1, t.scratch)] else [])
          ++ (t.spills.filter (fun r => r.1 == core)).map (fun r => (r.2.1, r.2.2)))

/-- Takes ranges of the given sizes from a context's placement region on a core, the lowest that fit (06 R153).
DESIGN CHOICE (log 52): the manual does not say where in the region a range is taken. -/
def State.takeRanges (s : State) (ctx core : Nat) (sizes : List Nat) : Option (List Nat) :=
  let c := s.ctx ctx
  let lo := c.ploff * 65536
  let hi := lo + c.plblk * 65536
  let r := sizes.foldl (fun (a : Option (List Nat × List (Nat × Nat))) n => match a with
    | none => none
    | some (got, taken) =>
      if n = 0 then some (got ++ [lo], taken)
      else (lowestGap lo hi n taken).map (fun p => (got ++ [p], taken ++ [(p, n)]))) (some ([], s.heldRanges ctx core))
  r.map (·.1)

/-! ### Fit -/

/-- Union of the `RSV` masks of the enabled pipelines (15 R408). -/
def State.rsvUnion (s : State) : Nat := s.pipes.foldl (fun m x => if x.2.en then m ||| x.2.rsv else m) 0

/-- Whether Plumb reserves a cluster (15 R407). -/
def State.reservedAt (s : State) (cl : Nat) : Bool :=
  s.pipes.any (fun x => x.2.en && bitN x.2.rsv cl && x.2.chains.any (·.res))

/-- Whether a cluster takes a team (15 R403, R407, R408; 17 R451). -/
def State.clusterFits (s : State) (t : Team) (cl : Nat) : Bool :=
  let c := s.cluster cl
  if t.strip then
    decide (c.scommit + t.energy ≤ c.sres) && (match t.rsv with
      | some m => bitN m cl
      | none => true)
  else
    decide (c.commit + t.energy + c.sres ≤ c.budget) && !s.reservedAt cl
      && ((s.ctx t.ctx).sv || !bitN s.rsvUnion cl)

/-- Cores of a team on a core: half 0 and, for a pair, half 1. -/
def Team.coresAt (t : Team) (core : Nat) : List Nat := if t.pair then [core, partner core] else [core]

/-- Warps of a half still to hold a slot, each by the belay entries it brings: those not exited for a saved team, else all. -/
def State.halfWarps (s : State) (t : Team) (half : Nat) : List Nat :=
  if t.status = .saved then
    (t.keys.filter (fun k => match s.warp k with
      | some w => w.half == half
      | none => false)).map (fun k => (s.entries k).length)
  else List.replicate t.nw 0

/-- Whether a partition swap keeps a core for the teams it restores, or sends the team elsewhere (16 R446). -/
def State.swapAllows (s : State) (t : Team) (core : Nat) : Bool :=
  match t.swapTo with
  | some m => bitN m core
  | none => match s.swap with
    | some (m, _) => !bitN m core
    | none => true

/-- Whether a team fits on a core, or a pair team on the pair whose half 0 it is (15 R403). -/
def State.fitsAt (s : State) (t : Team) (core : Nat) : Bool :=
  decide (core < 192) && (!t.pair || !bitN core 4) && s.clusterFits t (clusterOf core) && s.swapAllows t core
    && ((t.coresAt core).zip [0, 1]).all (fun x =>
      let n := s.halfWarps t x.2
      (planWarps (t.width / 32 * t.depth) n (s.loads t.ctx x.1)).isSome
        && (let spill := 4 * t.width * t.frame
            let sizes := if t.status = .saved then (if t.core = core then [] else [t.scratch]) else t.scratch :: List.replicate n.length spill
            (s.takeRanges t.ctx x.1 sizes).isSome)
        && (!t.ash || ([2 * x.1, 2 * x.1 + 1].any (fun ax => (s.ash ax).team.isNone))))
    && (!(t.status = .saved && t.ash && t.pair) || (s.latch core == .empty)
      || (s.ashs.all (fun x => !(x.2.team.isSome && decide (x.1 ≥ 384) && x.2.latch.isSome))))

/-- The core where a team is placed (15 R404): most free warp slots, lowest number. -/
def State.bestCore (s : State) (t : Team) : Option Nat :=
  let free (c : Nat) : Nat := (t.coresAt c).foldl (fun a k => a + s.freeSlots t.ctx k) 0
  (leastBy (fun a b => decide (a.1 > b.1)) (((List.range 192).filter (s.fitsAt t)).map (fun c => (free c, c)))).map (·.2)

/-! ### Placement -/

/-- Charges or releases a team's energy share (17 R451). -/
def State.share (s : State) (t : Team) (core : Nat) (up : Bool) : State :=
  s.updCluster (clusterOf core) (fun c =>
    let f (x : Nat) : Nat := if up then x + t.energy else x - t.energy
    if t.strip then { c with scommit := f c.scommit } else { c with commit := f c.commit })

/-- The lowest free warp slot and first register position of a sub-core (06 R152, 16 R438). -/
def State.subPlace (s : State) (ctx core sub n : Nat) : Nat × Nat :=
  let l := s.subLoad ctx core sub
  let slot := ((List.range 8).find? (fun i => l.all (fun x => x.1 != i))).getD 0
  (slot, (lowestGap 0 512 n (l.map (·.2))).getD 0)

/-- A half of a team holds an Ashlar context of a core (12 R308). -/
def State.takeAsh (s : State) (core tk half n : Nat) : State × Nat :=
  let ax := if (s.ash (2 * core)).team.isNone then 2 * core else 2 * core + 1
  (s.setAsh ax { team := some tk, half := half, n := n, gmask := 2 ^ n - 1 }, ax)

/-- A warp as it is before its team starts (06 R155; 15 R398; 06 R178). -/
def Team.freshWarp (t : Team) (tk wid rbase seed : Nat) : Warp :=
  let half := if t.pair then wid / t.nw else 0
  let sregs := (t.args.zip (List.range 4)) ++ [(t.s4, 4), (t.s5, 5)]
  { ctx := t.ctx, launch := t.launch, team := tk, teamId := t.teamId, warpId := wid, nwarps := if t.pair then 2 * t.nw else t.nw
    width := t.width, depth := t.depth, frame := t.frame, half := half, status := .placed, handler := t.handler, strip := t.strip
    view := t.view, stripIx := t.stripIx, srate := t.srate, tcb := t.tcb, taskDepth := t.taskDepth, seed := seed, rbase := rbase
    stageKind := t.stage
    s := sregs.foldl (fun (m : Sparse Val) x => sput {} m x.2 ⟨BitVec.ofNat 32 x.1, false⟩) []
    root := { kind := .path, mode := 7#16, mask := fullMask t.width, pc := BitVec.ofNat 32 t.kpc, swr := 0xffffffff#32 } }

/-- The start state of a pixel warp (14 R376): the covered lanes, and every lane's registers. -/
def State.pixelStart (s : State) (tk : Nat) (t : Team) (w : Warp) : Warp :=
  match (s.pipe t.pipe).rob.find? (fun e => e.team == tk) with
  | none => w
  | some e =>
    let m := maskOf (e.blocks.map (·.1))
    let w1 := { w with root := { w.root with mask := m } }
    e.regs.foldl (fun (a : Warp) r => (r.2.zip (List.range r.2.length)).foldl (fun (b : Warp) x =>
      b.setVAt x.2 r.1 ⟨BitVec.ofNat 32 x.1, false⟩) a) w1

/-- Places the warps of one half on a core. -/
def State.placeHalf (s : State) (tk : Nat) (t : Team) (core half seed : Nat) : State × List Nat :=
  let n := t.width / 32 * t.depth
  let subs := (planWarps n (List.replicate t.nw 0) (s.loads t.ctx core)).getD []
  (subs.zip (List.range t.nw)).foldl (fun (a : State × List Nat) x =>
    let p := a.1.subPlace t.ctx core x.1 n
    let key := core * 128 + x.1 * 8 + p.1
    let w := t.freshWarp tk (half * t.nw + x.2) p.2 seed
    (a.1.setWarp key (some (if t.stage = 2 then a.1.pixelStart tk t w else w)), a.2 ++ [key])) (s, [])

/-- Places a new team on a core (15 R403, R404; 06 R154). -/
def State.placeNew (s : State) (tk : Nat) (t : Team) (core : Nat) : State :=
  let seed := match s.launch t.launch with
    | some l => bitsN l.image 511 448
    | none => 0
  let spill := 4 * t.width * t.frame
  let ranges (c : Nat) : List Nat := (s.takeRanges t.ctx c (t.scratch :: List.replicate t.nw spill)).getD []
  let sp (c : Nat) : List (Nat × Nat × Nat) := if spill = 0 then [] else (ranges c).drop 1 |>.map (fun o => (c, o, spill))
  let two := partner core
  let t1 := { t with
    status := .placed, core := core, order := s.teamSeq, base0 := (ranges core).headD 0
    base1 := if t.pair then (ranges two).headD 0 else 0
    spills := sp core ++ (if t.pair then sp two else []) }
  let r0 := (s.setTeam tk (some t1)).placeHalf tk t1 core 0 seed
  let r1 := if t.pair then r0.1.placeHalf tk t1 two 1 seed else (r0.1, [])
  let a0 := if t.ash then r1.1.takeAsh core tk 0 t.nw else (r1.1, 0)
  let a1 := if t.ash && t.pair then a0.1.takeAsh two tk 1 t.nw else (a0.1, 0)
  let s2 := a1.1.setTeam tk (some { t1 with keys := r0.2 ++ r1.2, ash0 := a0.2, ash1 := a1.2 })
  let s3 := match s2.launch t.launch with
    | some l => s2.setLaunch t.launch (some { l with live := l.live + 1 })
    | none => s2
  ({ s3 with teamSeq := s3.teamSeq + 1 } : State).share t core true

end Sys2Proof.Machine
end

