-- ==== Sys2Proof/Machine/SaveImage.lean ====
section
/-! DEFINITION. What a save writes: the save slot, the warp-state area and the Ashlar save area (12 R324; 16 R437-R439;
06 R164; 02 R62, R64). -/
namespace Sys2Proof.Machine

/-- Writes a span of a save area. -/
def State.saveSpan (s : State) (pa n x : Nat) : State := s.setMem (s.mem.writeSpan pa (n + 1) n x false)

/-- `ST` of a path (06 R164), `held` where it is in an ordering hold. -/
def Wait.code (held : Bool) : Wait → Nat
  | .none => if held then 2 else 0
  | .join => 1
  | .frame _ => 3
  | _ => 2

/-- The 256-bit image of a belay entry or root record (06 R164): `parent` is none for the root, else whether the parent is an
entry, and its number; `held` says that the path is in an ordering hold. -/
def Node.image (n : Node) (held : Bool) (parent : Option (Bool × Nat)) : Nat :=
  let kind := match n.kind with
    | .free => 0
    | .path => 1
    | .split => 2
    | .frag => 3
  let up := match parent with
    | none => 0
    | some (pv, i) => fieldN n.slot 251 3 + fieldN (b2n pv) 250 1 + fieldN i 244 6
  fieldN kind 254 2 + up + fieldN n.mode.toNat 228 16 + fieldN n.wb 215 13 + fieldN (b2n n.fs) 214 1
    + fieldN (n.wait.code held) 211 3 + fieldN (b2n n.spn) 210 1 + fieldN (b2n n.jv) 209 1 + fieldN (n.pc.toNat / 4) 179 30
    + fieldN n.spc 175 4 + fieldN n.fcode 169 6 + fieldN (b2n n.tkv) 168 1 + fieldN n.tkt.toNat 136 32
    + fieldN n.mask.toNat 0 96

/-- The latency record (02 R64). -/
def Warp.latencyImage (w : Warp) : Nat :=
  fieldN w.lsum 192 64 + fieldN w.hold 128 64 + fieldN w.nmem 64 64 + fieldN w.lmax 48 16 + fieldN w.nurg 0 32

/-- An arrival record (16 R438). -/
def ArriveRec.image (r : ArriveRec) : Nat :=
  fieldN r.addr 0 64 + fieldN r.mask.toNat 64 96 + fieldN r.gen 160 4 + fieldN 1 167 1

/-- The entries of a warp in tree order from the root (16 R439): each node before its children, children by index. -/
def State.treeOrder (s : State) (key : Nat) : Nat → List Nat → List Nat
  | 0, _ => []
  | _ + 1, [] => []
  | fuel + 1, i :: rest => i :: s.treeOrder key fuel (s.children key i ++ rest)

/-- A warp's entries in tree order. -/
def State.treeOf (s : State) (key : Nat) : List Nat := (s.treeOrder key 80 [64]).drop 1

/-- The state word of a warp record (16 R438). -/
def Warp.stateWord (w : Warp) (nent : Nat) : Nat :=
  fieldN w.deadline 448 64 + fieldN w.fseq 432 16 + fieldN w.oc 416 16 + fieldN w.ic 412 4 + fieldN w.axf 407 5
    + fieldN w.hint 405 2 + fieldN w.yv 401 4 + fieldN (b2n (w.status == .parked)) 400 1 + fieldN nent 393 7
    + fieldN (w.serial.foldl (fun a g => a + g.sides.length) 0) 377 16 + fieldN w.sb 364 13 + fieldN w.rbase 355 9
    + fieldN (w.width / 32) 353 2 + fieldN (w.depth / 8) 347 6 + fieldN w.cyc 283 64 + fieldN w.teamId 259 24
    + fieldN w.launch 227 32 + fieldN w.warpId 221 6 + fieldN w.ocp 205 16

/-- Writes the save slot of a warp (16 R438). -/
def State.saveSlot (s : State) (key : Nat) (w : Warp) : State :=
  let base := coreOf key * 2 ^ 24 + (s.ctx w.ctx).saveoff * 65536 + subOf key * 69632
  let cells := (List.range w.depth).flatMap (fun i => (List.range w.width).map (fun l => (w.sb + i, l)))
  let pos (x l : Nat) : Nat := w.rbase + l / 32 * w.depth + x % w.depth
  let s1 := cells.foldl (fun st c => st.saveSpan (base + 128 * pos c.1 c.2 + 4 * (c.2 % 32)) 4 (w.vAt c.1 c.2).bits.toNat) s
  let rows := (List.range w.depth).flatMap (fun i => (List.range (w.width / 32)).map (fun g => (w.sb + i, g)))
  let s2 := rows.foldl (fun st c =>
    let m := (List.range 32).foldl (fun a j => a + b2n (w.vAt c.1 (32 * c.2 + j)).psn * 2 ^ j) 0
    st.saveSpan (base + 65536 + 4 * pos c.1 (32 * c.2)) 4 m) s1
  let wr := base + 0x10800 + 256 * slotOf key
  let s3 := (s2.saveSpan wr 32 (w.root.image (s.orderHeld key 64) none)).saveSpan (wr + 32) 32 w.latencyImage
  let recs := (List.range 4).map (fun i => match w.arrive[i]? with
    | some r => (i, r.image)
    | none => (i, 0))
  let s4 := recs.foldl (fun st r => st.saveSpan (wr + 64 + 32 * r.1) 32 r.2) s3
  s4.saveSpan (wr + 192) 64 (w.stateWord (s.entries key).length)

/-- A lane record (16 R439). -/
def Warp.laneImage (w : Warp) (l : Nat) : Nat :=
  let y (i : Nat) : Val := w.yAt i l
  let h : Hit := sget {} w.hits l
  (List.range 4).foldl (fun a i => a + fieldN (y i).bits.toNat (32 * i) 32 + fieldN (b2n (y i).psn) (320 + i) 1) 0
    + fieldN (w.cnt.getD l 0) 128 32 + fieldN h.t.toNat 160 32 + fieldN h.prim.toNat 192 32 + fieldN h.u.toNat 224 32
    + fieldN h.v.toNat 256 32 + fieldN h.status.toNat 288 32

/-- A path record (16 R439): the `%tb` snapshot as a timebase value (14 R363), the SWR word, `%fragid`, `%faultmask`. -/
def Node.pathImage (n : Node) : Nat :=
  fieldN n.tb.frac 0 16 + fieldN n.tb.ns 16 32 + fieldN n.tb.sec 48 48 + fieldN n.swr.toNat 96 32 + fieldN n.fragId 128 16
    + fieldN n.fmask.toNat 160 96

/-- Writes the warp-state area of a warp (16 R439). The spec does not lay out a serial record: its bytes are free values. -/
def State.saveArea (s : State) (key : Nat) (w : Warp) : State :=
  let base := coreOf key * 2 ^ 24 + (s.ctx w.ctx).wsaveoff * 65536 + (8 * subOf key + slotOf key) * 12288
  let tree := s.treeOf key
  let ixs := tree.zip (List.range tree.length)
  let place (i : Nat) : Bool × Nat := match findAt (fun j => j == i) tree with
    | some (k, _) => (true, k)
    | none => (false, 0)
  let s1 := (List.range w.width).foldl (fun st l => st.saveSpan (base + 48 * l) 48 (w.laneImage l)) s
  let s2 := ixs.foldl (fun st e =>
    let n := s.node key e.1
    (st.saveSpan (base + 0x1200 + 32 * e.2) 32 (n.image (s.orderHeld key e.1) (some (place n.parent)))).saveSpan
      (base + 0x1a20 + 32 * e.2) 32 n.pathImage) (s1.saveSpan (base + 0x1a00) 32 w.root.pathImage)
  if w.serial.isEmpty then s2
  else (List.range 64).foldl (fun st i =>
    { st.saveSpan (base + 0x2220 + 4 * i) 4 (Config.freeWord st.fresh).toNat with fresh := st.fresh + 1 }) s2

/-- Writes the Ashlar save area of a context (12 R324). The spec does not lay out a queue entry or an unmatched arrival: their
bytes are free values. -/
def State.saveAshlar (s : State) (ax ctx : Nat) : State :=
  let c := s.ash ax
  let base := ax / 2 * 2 ^ 24 + (s.ctx ctx).asaveoff * 65536 + ax % 2 * 2 ^ 18
  let free (st : State) (at_ n : Nat) : State := (List.range (n / 4)).foldl (fun t i =>
    { t.saveSpan (base + at_ + 4 * i) 4 (Config.freeWord t.fresh).toNat with fresh := t.fresh + 1 }) st
  let s1 := (List.range 2048).foldl (fun st k =>
    let pa := base + 32 * k
    st.setMem (st.mem.write pa 32 (memRead c.tiles (32 * k) 32) (sget false c.tpsn k))) s
  let s2 := (List.range 32768).foldl (fun st k => st.saveSpan (base + 0x10000 + 4 * k) 4 (sget {} c.acc k : Val).bits.toNat) s1
  let s3 := (List.range 4096).foldl (fun st k => st.saveSpan (base + 0x30000 + k) 1 (sget 127 c.scales k)) s2
  let s4 := (List.range 4).foldl (fun st q =>
    let bs : List Nat := sget [] c.mq q
    (bs.zip (List.range bs.length)).foldl (fun t b => t.saveSpan (base + 0x31000 + 4096 * q + b.2) 1 b.1) st) s3
  let s5 := match c.latch with
    | some (_, img, _) => (List.range 128).foldl (fun (st : State) k =>
        st.setMem (st.mem.write (base + 0x35000 + 32 * k) 32 (memRead img.rows (32 * k) 32) (sget false img.psn k))) s4
    | none => s4
  let s6 := (List.range 16).foldl (fun st t => st.saveSpan (base + 0x36000 + 4 * t) 4 (sget 0 c.tc t)) s5
  let s7 := (List.range 8).foldl (fun st d => st.saveSpan (base + 0x36040 + 4 * d) 4 (sget 0 c.aw d)) s6
  let es := (List.range 16).foldl (fun a t => a + b2n (sget false c.epsn t) * 2 ^ t) 0
  let lw := match c.latch with
    | some (_, img, _) => img.word
    | none => 0
  let lc := match c.latch with
    | some (_, _, n) => n
    | none => 0
  let s8 := ((((s7.saveSpan (base + 0x36060) 4 c.gmask).saveSpan (base + 0x36064) 4 c.ast).saveSpan (base + 0x36068) 4 es).saveSpan
    (base + 0x3606c) 4 lw).saveSpan (base + 0x36070) 8 lc
  let s9 := s8.saveSpan (base + 0x36078) 8 (c.arrivals.foldl (fun (a : Nat) (x : Arrival) => max a x.held) 0)
  let sa := (List.range 4).foldl (fun st q => st.saveSpan (base + 0x36080 + 4 * q) 4 (sget [] c.mq q).length) s9
  let sb := free sa 0x36090 (4 * c.arrivals.length)
  let sc := free sb 0x36100 (64 * c.ops.length)
  (List.range 4096).foldl (fun st k =>
    let m := (List.range 8).foldl (fun a j => a + b2n (sget {} c.acc (8 * k + j) : Val).psn * 2 ^ j) 0
    st.saveSpan (base + 0x36400 + k) 1 m) sc

/-- The granules of a range of SRAM that read poisoned, counted from its start, and the SRAM after their reads (02 R42). -/
def Sram.badGrans (m : Sram) (pa n : Nat) : List Nat × Sram :=
  (List.range n).foldl (fun (a : List Nat × Sram) k =>
    let r := a.2.readGran (granOf pa + k)
    (if r.1 then a.1 ++ [k] else a.1, r.2)) ([], m)

/-- Poison of granules of a tile image by half-row. -/
def poisonHalves (p : Sparse Bool) (ks : List Nat) : Sparse Bool := ks.foldl (fun a k => sput false a k true) p

/-- A saved Ashlar context as its save area gives it back (12 R324; 02 R42; 04 R116): a granule of tiles, accumulators, scales or
the latch's tile that reads poisoned poisons what it holds. -/
def AshCtx.restored (c : AshCtx) (m : Sram) (base : Nat) : AshCtx × Sram :=
  let r1 := m.badGrans base 2048
  let r2 := r1.2.badGrans (base + 0x10000) 4096
  let r3 := r2.2.badGrans (base + 0x30000) 128
  let r4 := match c.latch with
    | some _ => r3.2.badGrans (base + 0x35000) 128
    | none => ([], r3.2)
  ({ c with
    tpsn := poisonHalves c.tpsn r1.1
    acc := r2.1.foldl (fun a k => (List.range 8).foldl (fun (b : Sparse Val) j =>
      sput {} b (8 * k + j) { (sget {} b (8 * k + j) : Val) with psn := true }) a) c.acc
    epsn := r3.1.foldl (fun a k => sput false a (k / 8) true) c.epsn
    latch := c.latch.map (fun l => (l.1, { l.2.1 with psn := poisonHalves l.2.1.psn r4.1 }, l.2.2)) }, r4.2)

/-- The cells of a warp's window that its save slot gives back poisoned (16 R438; 02 R42), and the SRAM after the reads: eight
lanes to a granule. -/
def Warp.restored (w : Warp) (m : Sram) (base : Nat) : Warp × Sram :=
  let grans := (List.range w.depth).flatMap (fun i => (List.range (w.width / 8)).map (fun g => (w.sb + i, 8 * g)))
  grans.foldl (fun (a : Warp × Sram) c =>
    let pos := w.rbase + c.2 / 32 * w.depth + c.1 % w.depth
    let r := a.2.readGran (granOf (base + 128 * pos + 4 * (c.2 % 32)))
    (if r.1 then { a.1 with v := (List.range 8).foldl (fun (v : Sparse Val) j =>
        let k := c.1 * 128 + c.2 + j
        sput {} v k { (sget {} v k : Val) with psn := true }) a.1.v } else a.1, r.2)) (w, m)

end Sys2Proof.Machine
end

