-- ==== Sys2Proof/Machine/Preempt.lean ====
section
/-! DEFINITION. Starting a team, saving it, resuming it and discarding it (06 R155, R173, R177; 12 R323; 16 R437-R445). -/
namespace Sys2Proof.Machine

/-! ### Ranges of SRAM -/

/-- Zeroes a range of whole granules (06 R155, 01 R29): data, poison and latent errors go, and watched words wake. -/
def Sram.zeroRange (m : Sram) (pa n : Nat) : Sram :=
  let out (g : Nat) : Bool := !decide (pa / 32 ≤ g ∧ g < (pa + n) / 32)
  let m1 := { m with
    bytes := m.bytes.filter (fun e => !decide (pa ≤ e.1 ∧ e.1 < pa + n)), psn := m.psn.filter (fun e => out e.1)
    ceLat := m.ceLat.filter (fun e => out e.1), ueLat := m.ueLat.filter (fun e => out e.1) }
  let words := (m.cairn.flatMap (fun e => e.2.map (·.word))).eraseDups.filter (fun g => !out g)
  words.foldl (fun a g => a.wakeWord g) m1

/-- Copies a range of whole granules with its poison (16 R441, 02 R42): those that read poisoned or with an error are read. -/
def Sram.copyRange (m0 : Sram) (src dst n : Nat) : Sram :=
  let inR (a : Nat) : Bool := decide (src ≤ a ∧ a < src + n)
  let gs := (((m0.psn ++ m0.ceLat ++ m0.ueLat).map (·.1)).filter (fun g => inR (g * 32))).eraseDups
  let m := gs.foldl (fun (a : Sram) g => (a.readGran g).2) m0
  let bs := m.bytes.filter (fun e => inR e.1)
  let ps := m.psn.filter (fun e => inR (e.1 * 32))
  let z := m.zeroRange dst n
  { z with
    bytes := bs.foldl (fun b e => memSet b (e.1 - src + dst) e.2) z.bytes
    psn := ps.foldl (fun b e => sput false b (e.1 - src / 32 + dst / 32) e.2) z.psn }

/-- What core transfer engines move for a team joins their traffic: core, physical address, bytes (02 R54, R56). -/
def State.moveTeam (s : State) (tk : Nat) (x : Team) (spans : List (Nat × Nat × Nat)) : State :=
  (spans.foldl (fun st e => st.teamSpan e.1 tk e.2.1 e.2.2) s).setTeam tk (some { x with asked := true })

/-! ### Starting -/

/-- The scratchpads of a team: core, physical address, bytes. -/
def Team.pads (x : Team) : List (Nat × Nat × Nat) :=
  (x.core, x.core * 2 ^ 24 + x.base0, x.scratch)
    :: (if x.pair then [(partner x.core, partner x.core * 2 ^ 24 + x.base1, x.scratch)] else [])

/-- 06 R155, R173, R177: the transfer engines write the scratchpads with zero; when they have, a task is RUNNING, the deadlines are set,
and every warp of the team, in both halves, becomes Resident. -/
def execTeamStart (t : Nat) (s : State) : Host.Outcome State Fault Refusal :=
  .next <|
    match s.team t with
    | none => s
    | some x =>
      if x.status ≠ .placed ∨ x.restoring = true then s
      else if x.scratch ≠ 0 ∧ x.asked = false then s.moveTeam t x x.pads
      else if s.teamMoving t then s
      else
        let m1 := x.pads.foldl (fun m e => m.zeroRange e.2.1 e.2.2) s.mem
        let s1 := (s.setMem m1).setTeam t (some { x with status := .started, asked := false })
        let s2 := match x.tcb with
          | some a => s1.setTaskState x.ctx a 3
          | none => s1
        let dl := match x.deadlineAt with
          | some d => d
          | none => if x.wdl = 0 then 2 ^ 64 - 1 else (s.clk + x.wdl) % 2 ^ 64
        x.keys.foldl (fun st k => (st.updWarp k (fun (w : Warp) =>
          { w with status := WarpStatus.resident, age := s.clk, deadline := dl })).updNode k 64 (fun n => { n with since := s.clk })) s2

/-! ### Moving a warp -/

/-- Moves a warp with its belay entries to another key: the entries take the indices given, in tree order (16 R439, R442). -/
def State.moveWarp (s : State) (a b : Nat) (ids : List Nat) : State :=
  match s.warp a with
  | none => s
  | some w =>
    let tree := s.treeOf a
    let pairs := tree.zip ids
    let mp (i : Nat) : Nat := match pairs.find? (fun p => p.1 == i) with
      | some p => p.2
      | none => i
    let nodes := pairs.map (fun p => (p.2, s.node a p.1))
    let s1 := (tree.foldl (fun st i => st.setNode a i {}) s).setWarp a none
    let w1 := { w with
      serial := w.serial.map (fun g => { g with owner := mp g.owner }), lastPath := mp w.lastPath
      park := w.park.map (fun p => (p.1, p.2.1, p.2.2.1, mp p.2.2.2.1, p.2.2.2.2)), chosen := none
      pend := w.pend.map (fun p => { p with nid := mp p.nid }), heldAt := none, urgent := false, want := [] }
    nodes.foldl (fun st e => st.setNode b e.1 { e.2 with parent := mp e.2.parent, slot := slotOf b }) (s1.setWarp b (some w1))

/-- The key of a saved warp. -/
def savedKey (tk wid : Nat) : Nat := 24576 + (tk * 64 + wid) * 8

/-- Gang-level parking comes before a pre-emption at the boundary (16 R419). -/
def State.parkGang (s : State) (t : Team) : State :=
  if t.gangPark.isNone then s
  else t.keys.foldl (fun st k => st.updWarp k (fun (w : Warp) =>
    if w.status == WarpStatus.resident then { w with status := WarpStatus.parked } else w)) s

/-! ### Saving -/

/-- Whether every operation left in the queues of a team's Ashlar contexts is blocked (12 R323); an AREAD that has run is, while one
before it is. -/
def State.ashSettled (s : State) (tk : Nat) : Bool :=
  let axs := (s.ashs.filter (fun x => x.2.team == some tk && decide (x.1 < 384))).map (·.1)
  let latched (ax : Nat) (o : AshOp) : Bool := !(o.isArray && o.pair) || ((s.latch (ax / 2)).images ax o.id).isSome
  let may (ax : Nat) : Bool := (s.pairedReady ax).isSome && (match s.latch (ax / 2) with
    | .empty => true
    | .held a _ _ _ => axs.contains a
    | .joined _ _ _ _ _ _ _ _ => false)
  let stuck (ax : Nat) (o : AshOp) : Bool :=
    if o.started then o.kind == .aread && decide (o.till ≤ s.clk) && ((s.ash ax).ops.head?.map (·.id)) != some o.id
    else !o.held && s.opForked (s.ash ax) o && !(s.opReady (s.ash ax) o && latched ax o)
  axs.all (fun ax => (s.ash ax).ops.all (stuck ax))
    && !(decide (2 ≤ axs.length) && axs.all may)

/-- Whether every memory instruction of a warp has taken effect and is written back, and no texture-unit instruction, ray trace or
final arrival of it is still to come (04 R119, R120). -/
def State.memDone (s : State) (key : Nat) : Bool :=
  match s.warp key with
  | some w => w.inflight.all (fun x => decide (x ≤ s.clk)) && w.trace.isNone && w.tex.isEmpty && w.finals.isEmpty
      && s.flights.all (fun f => f.key != key)
  | none => true

/-- Whether an AREAD of a team still stands blocked in a queue: it is saved with its registers pending (12 R323; log 89). -/
def State.areadBlocked (s : State) (tk : Nat) (d : Delivery) : Bool :=
  match d with
  | .aread i => s.ashs.any (fun x => x.2.team == some tk && decide (x.1 < 384) && x.2.ops.any (fun o => o.id == i))
  | _ => false

/-- Whether no path of a warp waits for a frame move, whose units are an issued instruction's (06 R160). -/
def State.framesDone (s : State) (key : Nat) : Bool :=
  (64 :: s.entries key).all (fun i => match (s.node key i).wait with
    | .frame _ => false
    | _ => true)

/-- Whether a team's waits of 16 R437 step 2 are over. -/
def State.teamQuiet (s : State) (tk : Nat) (t : Team) : Bool :=
  t.keys.all (fun k => s.memDone k && s.framesDone k && (match s.warp k with
    | some w => w.pend.all (fun p => s.areadBlocked tk p.del)
    | none => true)) && s.ashSettled tk

/-- What a save of a warp in a slot writes, or its resume reads (16 R438, R439): its register positions in use and their poison, its warp
record, and its warp-state area with the records of `n` belay entries. -/
def State.warpSpans (s : State) (at_ n : Nat) (w : Warp) : List (Nat × Nat) :=
  let c := s.ctx w.ctx
  let base := coreOf at_ * 2 ^ 24 + c.saveoff * 65536 + subOf at_ * 69632
  let area := coreOf at_ * 2 ^ 24 + c.wsaveoff * 65536 + (8 * subOf at_ + slotOf at_) * 12288
  let k := w.width / 32 * w.depth
  [(base + 128 * w.rbase, 128 * k), (base + 65536 + 4 * w.rbase, 4 * k), (base + 0x10800 + 256 * slotOf at_, 256),
    (area, 48 * w.width), (area + 0x1200, 32 * n), (area + 0x1a00, 32 * (n + 1))]
    ++ (if w.serial.isEmpty then [] else [(area + 0x2220, 256)])

/-- The save area of an Ashlar context (12 R324). -/
def State.ashSpan (s : State) (ax ctx : Nat) : Nat × Nat :=
  (ax / 2 * 2 ^ 24 + (s.ctx ctx).asaveoff * 65536 + ax % 2 * 2 ^ 18, 0x37400)

/-- What a save of a team writes through its cores' issue sides (16 R437 step 3; 02 R62). -/
def State.saveSpans (s : State) (tk : Nat) (x : Team) : List (Nat × Nat × Nat) :=
  x.keys.flatMap (fun k => match s.warp k with
      | some w => (s.warpSpans k (s.entries k).length w).map (fun e => (coreOf k, e))
      | none => [])
    ++ (s.ashs.filter (fun e => e.2.team == some tk && decide (e.1 < 384))).map (fun e => (e.1 / 2, s.ashSpan e.1 x.ctx))

/-- An Ashlar context leaves its core with its hold on the latch (12 R323), under the key of a saved context; an AREAD that
has run runs again after the resume, since its value stands until it is delivered (R315). -/
def State.stowAsh (s : State) (tk ax ctx : Nat) : State :=
  let c := s.ash ax
  let r : AshCtx × State := match s.latch (ax / 2) with
    | .held a id img n => if a = ax then ({ c with latch := some (id, img, n) }, s.setLatch (ax / 2) .empty) else (c, s)
    | _ => (c, s)
  let again (o : AshOp) : AshOp := { o with started := false, busy := 0, till := 0 }
  let s1 := (r.2.setAsh ax r.1).saveAshlar ax ctx
  (s1.setAsh (384 + 2 * tk + c.half) { r.1 with savedAt := ax, ops := r.1.ops.map again }).setAsh ax {}

/-- 16 R437, R440, R119: a team stopped at its boundaries and quiet is written to its save areas through the transfer engines; then it is
saved: its slots, registers, Ashlar contexts and energy share are free, its scratchpad and spill areas stay. -/
def execTeamSave (t : Nat) (s : State) : Host.Outcome State Fault Refusal :=
  .next <|
    match s.team t with
    | none => s
    | some x =>
      if x.status ≠ .started ∨ x.preempt ≠ 1 ∨ s.teamQuiet t x = false then s
      else if x.asked = false then s.moveTeam t x (s.saveSpans t x)
      else if s.teamMoving t then s
      else
        let s1 := s.parkGang x
        let s2 := x.keys.foldl (fun st k => match st.warp k with
          | some w => (st.saveSlot k w).saveArea k w
          | none => st) s1
        let s3 := x.keys.foldl (fun st k => match st.warp k with
          | some w =>
            let st1 := (st.endWaits k false).updWarp k (fun (v : Warp) => { v with leftKey := k })
            let n := (st1.treeOf k).length
            st1.moveWarp k (savedKey t w.warpId) (List.range n)
          | none => st) s2
        let axs := (s3.ashs.filter (fun e => e.2.team == some t && decide (e.1 < 384))).map (·.1)
        let s4 := axs.foldl (fun st ax => st.stowAsh t ax x.ctx) s3
        let keys := x.keys.filterMap (fun k => (s2.warp k).map (fun w => savedKey t w.warpId))
        let s5 := (s4.setTeam t (some { x with status := .saved, preempt := 0, asked := false, keys := keys })).share x x.core false
        if x.strip then
          (if x.stage = 1 then { s5 with binQ := .team t :: s5.binQ } else { s5 with chainQ := .team t :: s5.chainQ })
        else { s5 with savedQ := s5.savedQ ++ [t] }

/-! ### Resuming -/

/-- A saved warp's registers are read back from its save slot (16 R442). -/
def State.readSlot (s : State) (key : Nat) : State :=
  match s.warp key with
  | none => s
  | some w =>
    let r := w.restored s.mem (coreOf w.leftKey * 2 ^ 24 + (s.ctx w.ctx).saveoff * 65536 + subOf w.leftKey * 69632)
    (s.setMem r.2).setWarp key (some r.1)

/-- Places a saved team on a core: slots, registers, belay entries, Ashlar contexts, a scratchpad where it moved (16 R441,
R442). -/
def State.placeSaved (s : State) (tk : Nat) (t : Team) (core : Nat) : State :=
  let moved := t.core != core
  let base (c : Nat) (old : Nat) : Nat := if moved then ((s.takeRanges t.ctx c [t.scratch]).getD []).headD 0 else old
  let b0 := base core t.base0
  let b1 := if t.pair then base (partner core) t.base1 else 0
  let n := t.width / 32 * t.depth
  let half (st : State) (h : Nat) : State × List Nat :=
    let c := if h = 1 then partner core else core
    let ks := t.keys.filter (fun k => match st.warp k with
      | some w => w.half == h
      | none => false)
    let subs := (planWarps n (ks.map (fun k => (st.entries k).length)) (st.loads t.ctx c)).getD []
    (ks.zip subs).foldl (fun (a : State × List Nat) x =>
      let p := a.1.subPlace t.ctx c x.2 n
      let key := c * 128 + x.2 * 8 + p.1
      let s0 := a.1.readSlot x.1
      let s1 := s0.updWarp x.1 (fun (w : Warp) =>
        let same := decide (w.leftKey / 8 = key / 8)
        { w with rbase := p.2, ocp := if same then w.ocp else w.oc, epoch := if same then w.epoch else w.epoch + 1 })
      let ids := s1.freeEntries key (s1.treeOf x.1).length
      (s1.moveWarp x.1 key ids, a.2 ++ [key])) (st, [])
  let r0 := half s 0
  let r1 := if t.pair then half r0.1 1 else (r0.1, [])
  let axs := (r1.1.ashs.filter (fun e => e.2.team == some tk && decide (384 ≤ e.1))).map (·.1)
  let s2 := axs.foldl (fun st0 k =>
    let c0 := st0.ash k
    let r := c0.restored st0.mem (c0.savedAt / 2 * 2 ^ 24 + (st0.ctx t.ctx).asaveoff * 65536 + c0.savedAt % 2 * 2 ^ 18)
    let st := st0.setMem r.2
    let c := r.1
    let at_ := if c.half = 1 then partner core else core
    let ax := if (st.ash (2 * at_)).team.isNone then 2 * at_ else 2 * at_ + 1
    let st1 := match c.latch with
      | some (id, img, cnt) => if st.latch at_ == Latch.empty then st.setLatch at_ (.held ax id img cnt) else st
      | none => st
    let op (o : AshOp) : AshOp := { o with core := at_ }
    (st1.setAsh ax { c with latch := none, ops := c.ops.map op,
                            arrivals := c.arrivals.map (fun a => { a with op := op a.op }) }).setAsh k {}) r1.1
  (s2.setTeam tk (some { t with
    status := .placed, restoring := true, oldCore := t.core, old0 := t.base0, old1 := t.base1, core := core, base0 := b0
    base1 := b1, keys := r0.2 ++ r1.2, swapTo := none, order := s.teamSeq })
    |> fun (st : State) => { st with teamSeq := st.teamSeq + 1 }).share t core true

/-- Applies what handles asked of a team while it was saved (16 R433, R442). -/
def State.applyChanges (s : State) (t : Team) : State :=
  t.changes.foldl (fun st c => if c.2.1 then st.killNow c.1 else st.resumeNow c.1 c.2.2) s

/-- A team that moved has its L-space barrier objects at new places, and so has a Hod command of it at work (16 R441; log 92). -/
def State.rebaseBars (s : State) (tk : Nat) : State :=
  let re (h : Nat) (f : Xfer) (lo : Nat) (old : Option Nat) : Option Nat :=
    match old, recBar (f.cmd.image.getD 0) lo with
    | some o, some va => if spaceOf va = 1 then some ((s.hodXlate h f.q f.cmd va needRWAT).toOption.getD o) else some o
    | o, _ => o
  { s with hods := s.hods.map (fun h => (h.1, { h.2 with slots := h.2.slots.map (fun x => (x.1, x.2.map (fun f =>
      if f.cmd.team = some tk then { f with dbar := re h.1 f 97 f.dbar, sbar := re h.1 f 67 f.sbar } else f))) })) }

/-- Copies of a moved team's scratchpads: the core, the old place and the new one, and the bytes (16 R441). -/
def Team.copies (x : Team) : List (Nat × Nat × Nat × Nat) :=
  let one (c0 o0 c1 o1 : Nat) : List (Nat × Nat × Nat × Nat) :=
    if c0 = c1 then [] else [(c1, c0 * 2 ^ 24 + o0, c1 * 2 ^ 24 + o1, x.scratch)]
  one x.oldCore x.old0 x.core x.base0 ++ (if x.pair then one (partner x.oldCore) x.old1 (partner x.core) x.base1 else [])

/-- What a resume of a team moves: the copies' reads and writes, and the reads of the save areas on the cores it left (16 R442; 12 R324). -/
def State.restoreSpans (s : State) (tk : Nat) (x : Team) : List (Nat × Nat × Nat) :=
  x.copies.flatMap (fun e => [(e.1, e.2.1, e.2.2.2), (e.1, e.2.2.1, e.2.2.2)])
    ++ x.keys.flatMap (fun k => match s.warp k with
      | some w => (s.warpSpans w.leftKey (s.entries k).length w).map (fun e => (coreOf k, e))
      | none => [])
    ++ (s.ashs.filter (fun e => e.2.team == some tk && decide (e.1 < 384))).map (fun e => (e.1 / 2, s.ashSpan e.2.savedAt x.ctx))

/-- 16 R441, R442: a placed saved team is restored on its core: the transfer engines read its save areas and copy its scratchpad if it
moved; then the changes made while it was saved take effect and its warps may issue. A deadline that expired meanwhile disarms its timer
and fires once (R443). -/
def execTeamResume (t core : Nat) (s : State) : Host.Outcome State Fault Refusal :=
  .next <|
    match s.team t with
    | none => s
    | some x =>
      if x.status ≠ .placed ∨ x.restoring = false ∨ x.core ≠ core then s
      else if x.asked = false then s.moveTeam t x (s.restoreSpans t x)
      else if s.teamMoving t then s
      else
        let m1 := x.copies.foldl (fun m e => m.copyRange e.2.1 e.2.2.1 e.2.2.2) s.mem
        let s1 := ((s.setMem m1).setTeam t (some { x with status := .started, restoring := false, asked := false, changes := [] })).rebaseBars t
        let s2 := x.keys.foldl (fun st k => st.updWarp k (fun (w : Warp) =>
          let late := !w.strip && w.deadline != 2 ^ 64 - 1 && decide (w.deadline ≤ s.clk)
          { w with age := s.clk, dlHit := w.dlHit || late, deadline := if late then 2 ^ 64 - 1 else w.deadline })) s1
        s2.applyChanges x

/-! ### Discarding -/

/-- Takes the work of a team out of its context's directory and of its faults on their way (16 R445, R464). -/
def State.dropWork (s : State) (ctx tk : Nat) : State :=
  let c := s.ctx ctx
  { s.setCtx ctx { c with dir := c.dir.filter (fun e => e.2.work.team != tk || e.2.serial == 0)
                          pending := c.pending.filter (fun f => f.work.team != tk) } with
    autoFrags := s.autoFrags.filter (fun a => a.team != tk) }

/-- What a warp that is dropped still has in flight delivers nothing. -/
def State.unlink (s : State) (key : Nat) : State :=
  { s with flights := s.flights.map (fun (f : Flight) => if f.key = key then { f with dst := .none, backs := [] } else f) }

/-- What transfer engines have still to move for a team or its warps is dropped. -/
def State.dropMoves (s : State) (tk : Nat) (keys : List Nat) : State :=
  let keep (m : Move) : Bool := match m.what with
    | .team t => t != tk
    | .frame k _ => !keys.contains k
    | .none => true
  { s with traffic := (s.traffic.map (fun x => (x.1, x.2.filter keep))).filter (fun x => !x.2.isEmpty) }

/-- Takes a team's warps, entries and Ashlar contexts off the machine. -/
def State.clearTeam (s0 : State) (tk : Nat) (t : Team) : State :=
  let s := s0.dropMoves tk t.keys
  let s1 := t.keys.foldl (fun st k =>
    let st1 := (st.setMem (st.mem.dropWaiter k none)).unlink k
    ((st1.entries k).foldl (fun a i => a.setNode k i {}) st1).setWarp k none) s
  s1.clearAsh tk

/-- Inserts into an ascending list. -/
def insertNat (x : Nat) : List Nat → List Nat := insertBy (fun a b => decide (a ≤ b)) x

/-- 16 R445, R120: an `.idem` team at its boundaries, its stores done, is dropped and returns to its launch's unplaced teams;
with some `IC` above 0 it is saved instead (08 R226). -/
def execTeamDiscard (t : Nat) (s : State) : Host.Outcome State Fault Refusal :=
  .next <|
    match s.team t with
    | none => s
    | some x =>
      let warps := x.keys.filterMap (fun k => s.warp k)
      if x.status ≠ .started ∨ x.preempt ≠ 2 then s
      else if warps.any (fun w => w.ic != 0) then s.setTeam t (some { x with preempt := 1 })
      else if !x.keys.all s.memDone || warps.any (fun w => decide (s.clk < w.lastPlain + 17)) then s
      else
        let s1 := (((s.clearTeam t x).dropWork x.ctx t).share x x.core false).setTeam t none
        match s1.launch x.launch with
        | none => s1
        | some l =>
          let s2 := s1.journal l.src x.launch l.pos 5 l.ctx 0
          match x.tcb with
          | some a => { s2.setLaunch x.launch (some { l with live := l.live - 1 }) with
              taskQ := ⟨x.launch, x.ctx, a, x.image, x.taskDepth, x.strip⟩ :: s2.taskQ }
          | none => s2.setLaunch x.launch (some { l with live := l.live - 1, again := insertNat x.teamId l.again })

end Sys2Proof.Machine
end

