-- ==== Sys2Proof/Machine/Sched.lean ====
section
/-! DEFINITION. The order within a queue, the stride arbiter and the distributor (15 R399-R405, R407). -/
namespace Sys2Proof.Machine

/-! ### Head items -/

/-- What a queue offers (15 R399): a task, a launch's next team, or a graph, which Traverse takes. -/
inductive Head where
  | task (x : TaskItem)
  | team (lid tid : Nat)
  | graph (lid : Nat)
deriving DecidableEq, Repr

/-- The next team of a launch not yet placed: one discarded before, or the next in order (15 R399, 16 R445). -/
def Launch.nextOf (l : Launch) : Option Nat :=
  match l.again with
  | t :: _ => some (if t < l.nextTeam then t else l.nextTeam)
  | [] => if l.nextTeam < lrTeams l.image then some l.nextTeam else none

/-- A team of a launch has been taken. -/
def Launch.take (l : Launch) (tid : Nat) : Launch :=
  if l.again.contains tid then { l with again := l.again.filter (· != tid) } else { l with nextTeam := tid + 1 }

/-- The team of a task (06 R174, R175, R178). -/
def TaskItem.teamOf (x : TaskItem) (l : Launch) : Team :=
  let g := x.image
  { ctx := x.ctx, launch := x.launch, teamId := 0, status := .waiting, kpc := bitsN g 291 262 * 4, width := 32 * bitsN g 261 260
    depth := 8 * bitsN g 259 254, frame := 8 * bitsN g 253 244, scratch := 256 * bitsN g 243 228, nw := 1, pair := false
    ash := false, idem := bitN g 227, energy := bitsN l.image 347 332, strip := x.strip, handler := l.handler, tcb := some x.addr
    taskDepth := x.depth, args := [bitsN g 415 384, bitsN g 447 416, bitsN g 479 448, bitsN g 511 480], s4 := x.addr % 2 ^ 32
    queue := l.queue, left := 1, image := g, rsv := l.rsv, deadlineAt := if x.strip then l.deadlineAt else none
    stripIx := if x.strip then l.stripIx else 0, srate := if x.strip then l.srate else 0 }

/-- The place of a launch in the order of its queue (15 R399): a launch that a graph's node placed stands where the graph does. -/
def State.launchPlace (s : State) (lid : Nat) (l : Launch) : Nat × Nat :=
  match l.parent with
  | some k => (match sget none s.walkers k with
    | some w => (w.launch, lid)
    | none => (lid, lid))
  | none => (lid, 0)

/-- Launches of a queue in their order, oldest first. -/
def State.queueLaunches (s : State) (q : Nat) : List (Nat × Launch) :=
  let ls := s.launches.filterMap (fun x => match x.2 with
    | some l => if l.queue == q && (l.parent.getD 0 < 8) && l.kind != 4 then some (x.1, l) else none
    | none => none)
  sortBy (fun a b =>
    let p := s.launchPlace a.1 a.2
    let r := s.launchPlace b.1 b.2
    decide (p.1 < r.1 ∨ (p.1 = r.1 ∧ p.2 ≤ r.2))) ls

/-- The head item of a queue's launches (15 R399): none where the oldest with work unplaced must wait. -/
def headTeam (earlier : Bool) : List (Nat × Launch) → Option Head
  | [] => none
  | (lid, l) :: rest =>
    if l.done then headTeam earlier rest
    else if l.kind = 1 ∨ l.kind = 2 then headTeam true rest
    else if bitN l.image 375 && l.parent.isNone && earlier then none
    else if l.kind = 3 then (if l.walker.isSome then headTeam true rest else some (.graph lid))
    else match l.nextOf with
      | some t => some (.team lid t)
      | none => headTeam true rest

/-- The identity of a head item, by which 15 R401 counts. -/
def Head.ident : Head → Nat × Nat × Nat
  | .task x => (0, x.launch, x.addr)
  | .team lid tid => (1, lid, tid)
  | .graph lid => (2, lid, 0)

/-- The launch whose team or graph a head item is. -/
def Head.launch : Head → Option Nat
  | .task _ => none
  | .team lid _ => some lid
  | .graph lid => some lid

/-- The head item of a queue (15 R399); a launch offers nothing before its journal record has taken effect (R397). -/
def State.headItem (s : State) (q : Nat) : Option Head :=
  match s.taskQ.find? (fun x => match s.launch x.launch with
    | some l => l.queue == q && decide (l.parent.getD 0 < 8)
    | none => false) with
  | some x => some (.task x)
  | none => (headTeam false (s.queueLaunches q)).filter (fun h => !(h.launch.any s.recordComing))

/-- The team that a head item stands for; a graph is none. -/
def State.headAsTeam (s : State) (h : Head) : Option Team :=
  match h with
  | .task x => (s.launch x.launch).map (fun l => x.teamOf l)
  | .team lid tid => (s.launch lid).map (fun l => l.teamOf lid tid)
  | .graph _ => none

/-- Where a head item fits: a team on a core, a graph on a free walker (15 R400, R410). -/
def State.headFits (s : State) (t : Option Team) : Option Nat :=
  match t with
  | some t => s.bestCore t
  | none => (List.range 8).find? (fun k => (sget none s.walkers k).isNone)

/-- Places a head item on a core. -/
def State.placeHead (s : State) (h : Head) (t : Team) (core : Nat) : State :=
  let s1 := match h with
    | .task x => { s with taskQ := s.taskQ.filter (· != x) }
    | .team lid tid => (match s.launch lid with
      | some l => s.setLaunch lid (some (l.take tid))
      | none => s)
    | .graph _ => s
  s1.placeNew s.teamSeq t core

/-! ### The stride arbiter -/

/-- Passes are compared as differences modulo 2^40, read as signed (15 R400). -/
def passLt (a b : Nat) : Bool := decide ((a + 2 ^ 40 - b % 2 ^ 40) % 2 ^ 40 ≥ 2 ^ 39)

/-- The least of some passes; a default where there is none. -/
def leastPass (d : Nat) (l : List Nat) : Nat := (leastBy passLt l).getD d

/-- The head items of the queues, each with the team it stands for. -/
def State.heads (s : State) : List (Nat × Head × Option Team) :=
  (List.range 64).filterMap (fun q => (s.headItem q).map (fun h => (q, h, s.headAsTeam h)))

/-- Every decision notes which queues are backlogged: one that becomes so rejoins at the pass of those that were (15 R400), and a new head
item has been passed over in no decision (R401). A graph at the head of a queue keeps the queue backlogged (R399; log 54). -/
def State.noteBacklog (s : State) : State :=
  let heads := s.heads
  let v := leastPass s.arb.vlast ((heads.filter (fun x => (s.queue x.1).back)).map (fun x => (s.queue x.1).pass))
  (List.range 64).foldl (fun (st : State) q =>
    let x := st.queue q
    let h := heads.find? (fun h => h.1 == q)
    let x1 := if h.isSome && !x.back && passLt x.pass v then { x with pass := v } else x
    let of_ := (h.map (fun y => y.2.1.ident)).getD (3, 0, 0)
    st.setQueue q { x1 with back := h.isSome, starve := if of_ = x1.starveOf then x1.starve else 0, starveOf := of_ }) s

/-- The stride arbiter's decision (15 R400-R402): the heads are looked at in the order of their passes, and those that fit nowhere are passed over,
up to the one placed. A graph is passed over while no walker is free; Traverse takes it, not this decision (R399; log 54). -/
def State.arbitrate (s : State) : State :=
  let pass (q : Nat) : Nat := (s.queue q).pass
  let starved := (s.heads.filter (fun x => (s.queue x.1).starve ≥ 256)).map (fun x => pass x.1)
  let cores := (s.heads.filter (fun x => starved.all (fun p => !passLt p (pass x.1)))).map (fun x => (x, s.headFits x.2.2))
  let may := cores.filterMap (fun c => match c.2, c.1.2.2 with
    | some k, some t => some ((c.1.1, c.1.2.1, t), k)
    | _, _ => none)
  let won := leastBy (fun a b => passLt (pass a.1.1) (pass b.1.1)) may
  let seen (q : Nat) : Bool := match won with
    | none => true
    | some ((k, _, _), _) => passLt (pass q) (pass k) || (pass q == pass k && decide (q < k))
  let s2 := cores.foldl (fun (st : State) c =>
    let x := st.queue c.1.1
    if c.2.isSome then (if x.starve < 256 then st.setQueue c.1.1 { x with starve := 0 } else st)
    else if seen c.1.1 then st.setQueue c.1.1 { x with skips := satAdd x.skips 1 32, starve := min 256 (x.starve + 1) }
    else st) s
  match won with
  | none => s2
  | some ((q, h, t), core) =>
    let x := s2.queue q
    let p := (x.pass + 2 ^ 20 / max 1 (x.ticketsNow s.clk)) % 2 ^ 40
    let s3 := s2.setQueue q { x with pass := p, placed := satAdd x.placed 1 32, starve := 0 }
    ({ s3 with arb := { s3.arb with vlast := p } } : State).placeHead h t core

/-! ### The distributor -/

/-- Whether `SER` keeps a launch that came from a queue back: an earlier launch of the queue is not complete (15 R395). -/
def State.serHeld (s : State) (lid : Nat) (l : Launch) : Bool :=
  bitN l.image 375 && l.parent.isNone && (s.queueLaunches l.queue).any (fun x => decide (x.1 < lid) && x.2.parent.isNone && !x.2.done)

/-- The team a piece of strip work offers next, with the number it will have. -/
def State.stripTeam (s : State) (x : StripItem) : Option (Nat × Team) :=
  match x with
  | .launch lid => (match s.launch lid with
    | some l => if s.recordComing lid || s.serHeld lid l then none else l.nextOf.map (fun tid => (s.teamSeq, l.teamOf lid tid))
    | none => none)
  | .team t => (s.team t).map (fun y => (t, y))

/-- Places a piece of strip work; a launch stays until its last team is placed. -/
def State.placeStrip (s : State) (x : StripItem) (tk : Nat) (t : Team) (core : Nat) : State :=
  let drop (st : State) : State := { st with chainQ := st.chainQ.filter (· != x), binQ := st.binQ.filter (· != x) }
  match x with
  | .launch lid =>
    (match s.launch lid with
    | none => drop s
    | some l =>
      let l1 := l.take t.teamId
      let s1 := (s.setLaunch lid (some l1)).placeNew tk t core
      if l1.nextOf.isSome then s1 else drop s1)
  | .team _ => if t.status = .saved then (drop s).placeSaved tk t core else (drop s).placeNew tk t core

/-- Tasks of strip chains, which have no hardware queue: placed after the chains' teams (log entry on R399). -/
def State.chainTask (s : State) : Option (TaskItem × Team × Nat) :=
  s.taskQ.findSome? (fun x => match s.launch x.launch with
    | some l => if l.parent.getD 0 < 8 then none
      else (s.bestCore (x.teamOf l)).map (fun c => (x, x.teamOf l, c))
    | none => none)

/-- Plumb pre-empts one background team for a strip-chain team that fits nowhere (15 R407): the most recently placed on its
reserved clusters, once no pre-emption there is in progress. -/
def State.plumbPreempt (s : State) (t : Team) : State :=
  match t.rsv with
  | none => s
  | some m =>
    let on := s.teams.filterMap (fun x => match x.2 with
      | some y => if !y.strip && bitN m (clusterOf y.core) && (y.status == .started || y.status == .placed) then some (x.1, y) else none
      | none => none)
    if on.any (fun x => x.2.preempt != 0 || x.2.status != .started) then s
    else match leastBy (fun a b => decide (a.2.order > b.2.order)) on with
      | none => s
      | some (k, y) =>
        let calm := y.keys.all (fun key => match s.warp key with
          | some w => w.ic == 0
          | none => true)
        if y.idem && calm then s.setTeam k (some { y with preempt := 2 })
        else if (s.ctx y.ctx).sv then s.setTeam k (some { y with preempt := 1 })
        else s

/-- 15 R403: the distributor's decision of a mesh clk: strip work, then resumes, then the stride arbiter. -/
def execDistributorDecision (s0 : State) : Host.Outcome State Fault Refusal :=
  .next <|
    if s0.clk < s0.arb.decAt then s0
    else
      let s := ({ s0 with arb := { s0.arb with decAt := s0.clk + 1 } } : State).noteBacklog
      let work := (s.chainQ ++ s.binQ).filterMap (fun x => (s.stripTeam x).map (fun t => (x, t)))
      let fit := work.findSome? (fun x => (s.bestCore x.2.2).map (fun c => (x, c)))
      match fit with
      | some ((x, tk, t), core) => s.placeStrip x tk t core
      | none =>
        match s.chainTask with
        | some (x, t, core) => s.placeHead (.task x) t core
        | none =>
          let s1 := work.foldl (fun (st : State) x => st.plumbPreempt x.2.2) s
          match s1.savedQ.findSome? (fun k => match s1.team k with
              | some t => (s1.bestCore t).map (fun c => (k, t, c))
              | none => none) with
          | some (k, t, core) => ({ s1 with savedQ := s1.savedQ.filter (· != k) } : State).placeSaved k t core
          | none => s1.arbitrate

end Sys2Proof.Machine
end

