-- ==== Sys2Proof/Machine/Traverse.lean ====
section
/-! DEFINITION. Traverse: node records, walkers and their nodes (15 R410-R413). -/
namespace Sys2Proof.Machine

/-! ### Node records -/

/-- `KIND` of a node record (15 R410). -/
def nKind (x : Nat) : Nat := bitsN x 511 508
/-- `NPRED`. -/
def nPred (x : Nat) : Nat := bitsN x 507 500
/-- `SUCC0`. -/
def nSucc0 (x : Nat) : Nat := bitsN x 499 488
/-- `SUCC1`. -/
def nSucc1 (x : Nat) : Nat := bitsN x 486 475
/-- `LREC` and `CREC` (15 R411), as an address. -/
def nRec (x : Nat) : Nat := bitsN x 383 358 * 64
/-- `SKIND` of a KERNEL node. -/
def nSkind (x : Nat) : Nat := bitsN x 357 356
/-- `CORE` of a COPY node. -/
def nCore (x : Nat) : Nat := bitsN x 357 350
/-- `BEND` of a WHILE node. -/
def nBend (x : Nat) : Nat := bitsN x 319 308

/-- Malformed nodes (15 R411; 00 R6 for the bits no field names); `graph` says that the node is not a strip chain's. -/
def gnodeBad (x nnm1 : Nat) (graph : Bool) : Bool :=
  bitsN x 426 384 != 0 || (bitN x 487 && decide (nnm1 < nSucc0 x)) || (bitN x 474 && decide (nnm1 < nSucc1 x))
    || (match nKind x with
      | 1 => bitsN x 307 0 != 0 || (graph && bitsN x 357 308 != 0)
          || ((nSkind x == 1 || nSkind x == 3) && bitsN x 383 358 != 0)
      | 2 => bitsN x 349 0 != 0 || decide (191 < nCore x)
      | 3 => bitsN x 318 0 != 0
      | 4 => bitsN x 291 0 != 0 || nPred x != 1 || decide (nBend x < nSucc0 x)
      | 5 => bitsN x 383 0 != 0
      | 6 => bitsN x 318 0 != 0
      | 7 => bitsN x 319 0 != 0
      | _ => true)

/-- The condition of a COND or WHILE on its word (15 R411 `COP`). -/
def condHolds (x v : Nat) : Bool :=
  let c := bitsN x 353 322
  match bitsN x 321 320 with
  | 0 => v == c
  | 1 => v != c
  | 2 => decide (v < c)
  | _ => decide (v ≥ c)

/-- A node's SIGNAL step on `SWORD` (15 R412): none where the word does not translate or is poisoned. -/
def State.signalStep (s : State) (ctx x : Nat) : Option State :=
  match s.ctxPa ctx (bitsN x 383 354 * 4) needWAT with
  | none => none
  | some pa =>
    let r := s.devRead pa 4
    r.1.map (fun old =>
      r.2.setMem (r.2.mem.storeAtomic pa 4 old (if bitN x 321 then bitsN x 353 322 else (old + bitsN x 353 322) % 2 ^ 32)))

/-- The first clk at which a WAITTIME node that started at a clk is over. -/
def waitTill (x start : Nat) : Nat := if bitN x 319 then start + bitsN x 383 320 else bitsN x 383 320

/-! ### Walkers -/

/-- A walker's graph. -/
def State.walker (s : State) (k : Nat) : Option Walker := sget none s.walkers k
/-- Replaces a walker's graph. -/
def State.setWalker (s : State) (k : Nat) (w : Option Walker) : State := { s with walkers := sput none s.walkers k w }
/-- A node of a walker. -/
def State.gnode (s : State) (k n : Nat) : GNode :=
  match s.walker k with
  | some w => sget {} w.nodes n
  | none => {}

/-- Changes a node; a change of `PEND` or `NSTATE` is written to its record (15 R412). -/
def State.putNode (s : State) (k n : Nat) (f : GNode → GNode) : State :=
  match s.walker k with
  | none => s
  | some w =>
    let old := sget {} w.nodes n
    let g := f old
    let s1 := s.setWalker k (some { w with nodes := sput {} w.nodes n g })
    if g.pend = old.pend ∧ g.st = old.st then s1
    else match s1.ctxPa w.ctx (w.base + 64 * n + 53) needW with
      | none => s1
      | some pa => s1.devWrite pa 3 (bitsN g.image 426 424 + fieldN g.st 3 3 + fieldN g.pend 6 12
          + fieldN (bitsN g.image 447 442) 18 6)

/-- `fail(n)` (15 R412). -/
def State.failNode (s : State) (k n : Nat) : State :=
  let s1 := s.putNode k n (fun g => { g with st := 4 })
  match s1.walker k with
  | some w => s1.setWalker k (some { w with failed := true })
  | none => s1

/-- Reads a condition word: none where it does not translate or is poisoned. -/
def State.condWord (s : State) (ctx x : Nat) : Option Nat × State :=
  match s.ctxPa ctx (bitsN x 383 354 * 4) needR with
  | none => (none, s)
  | some pa => s.devRead pa 4

/-- A COND reads its word and chooses, or registers (15 R412, R413; 04 R117, R118). DESIGN CHOICE (log 122): `MPOLL` of 05 R142 counts the
rechecks of paths, and not those of a node. -/
def State.condRead (s : State) (k n : Nat) : State :=
  match s.walker k with
  | none => s
  | some w =>
    let x := (s.gnode k n).image
    match s.condWord w.ctx x with
    | (none, s1) => s1.failNode k n
    | (some v, s1) =>
      if condHolds x v then s1.putNode k n (fun g => { g with choice := 2, poll := none })
      else if !bitN x 319 then s1.putNode k n (fun g => { g with choice := 3 })
      else match s1.ctxPa w.ctx (bitsN x 383 354 * 4) needR with
        | none => s1
        | some pa =>
          let r := s1.mem.register (granOf pa) (.node k n) 3
          (s1.setMem r.1).putNode k n (fun g => { g with poll := if r.2 then none else some (s.clk + 256) })

/-- A WHILE reads its word, counts, re-arms its body and chooses (15 R412). -/
def State.whileRead (s : State) (k n : Nat) : State :=
  match s.walker k with
  | none => s
  | some w =>
    let g := s.gnode k n
    let x := g.image
    match s.condWord w.ctx x with
    | (none, s1) => s1.failNode k n
    | (some v, s1) =>
      let max := bitsN x 307 292
      if condHolds x v && (max == 0 || decide (g.count + 1 ≤ max)) then
        let body := (List.range w.n).filter (fun i => decide (nSucc0 x ≤ i ∧ i ≤ nBend x))
        let s2 := body.foldl (fun st i => st.putNode k i (fun y => { y with pend := nPred y.image, st := 1 })) s1
        s2.putNode k n (fun y => { y with count := g.count + 1, choice := 2, st := 2 })
      else s1.putNode k n (fun y => { y with count := 0, choice := 3 })

/-- Queues a COPY node's command at its Hod, if there is room (15 R412). -/
def State.copyNode (s : State) (k n : Nat) : State :=
  match s.walker k with
  | none => s
  | some w =>
    let x := (s.gnode k n).image
    if s.hodFull (nCore x) 16 then s
    else
      let c : HodCmd := { op := 0, ctx := w.ctx, recAddr := nRec x, ready := s.clk, jsrc := 66, jpos := n, jlaunch := w.launch
                          node := some (k, n) }
      (s.queueHod (nCore x) 16 c).1.putNode k n (fun g => { g with queued := true })

/-- A node becomes ready and starts (15 R412); after a failure none does. -/
def State.startNode (s : State) (k n : Nat) : State :=
  match s.walker k with
  | none => s
  | some w =>
    let x := (s.gnode k n).image
    if w.failed then s
    else if gnodeBad x (w.n - 1) true then s.failNode k n
    else
      let s1 := s.putNode k n (fun g => { g with st := 2, start := s.clk, launch := none, queued := false, choice := 0
                                                 poll := none })
      match nKind x with
      | 1 =>
        let q := match s1.launch w.launch with
          | some l => l.queue
          | none => 0
        (match s1.innerLaunch w.ctx (nRec x) 0 q k 66 n with
        | (none, s2) => s2.failNode k n
        | (some l, s2) => s2.putNode k n (fun g => { g with launch := some l }))
      | 2 => s1.copyNode k n
      | 3 => s1.condRead k n
      | 4 => s1.whileRead k n
      | 5 => s1.putNode k n (fun g => { g with choice := 1 })
      | 6 => s1
      | _ =>
        match s1.signalStep w.ctx x with
        | none => s1.failNode k n
        | some s2 =>
          let pos := match s2.launch w.launch with
            | some l => l.pos
            | none => 0
          let s3 := if bitN x 320 then s2.journal 66 w.launch pos 6 w.ctx n else s2
          s3.putNode k n (fun g => { g with choice := 1 })

/-- One successor edge of a completed node (15 R412). -/
def State.edge (s : State) (k n succ : Nat) : State :=
  let g := s.gnode k succ
  if g.pend = 0 then s.failNode k n
  else
    let s1 := s.putNode k succ (fun y => { y with pend := g.pend - 1 })
    if g.pend = 1 then s1.startNode k succ else s1

/-- A node is Done (15 R412): its successors, for COND and WHILE the chosen one alone; a WHILE is re-armed. -/
def State.nodeDone (s : State) (k n : Nat) : State :=
  let g := s.gnode k n
  let x := g.image
  let s1 := if nKind x = 4 then s.putNode k n (fun y => { y with st := 1, pend := 1 })
    else s.putNode k n (fun y => { y with st := 3 })
  let succ := (if bitN x 487 && g.choice != 3 then [nSucc0 x] else [])
    ++ (if bitN x 474 && g.choice != 2 then [nSucc1 x] else [])
  succ.foldl (fun st e => st.edge k n e) s1

/-- Whether the work of a RUNNING node is over (15 R412). -/
def State.nodeOver (s : State) (k n : Nat) : Bool :=
  let g := s.gnode k n
  let x := g.image
  g.st == 2 && (match nKind x with
    | 1 => (match g.launch with
      | some l => s.launchOver l
      | none => true)
    | 2 => s.copyDone.any (fun e => e.1 == k && e.2.1 == n)
    | 6 => decide (waitTill x g.start ≤ s.clk)
    | _ => g.choice != 0)

/-- Whether a node is the next of its walker to complete: completions of one clk go in ascending index (15 R412). -/
def State.nodeTurn (s : State) (k n : Nat) : Bool :=
  s.nodeOver k n && (List.range n).all (fun i => !s.nodeOver k i)

/-- Whether a GRAPH launch is the head item of its queue (15 R399). -/
def State.graphHead (s : State) (q lid : Nat) : Bool :=
  let ls := s.queueLaunches q
  let before := ls.filter (fun x => decide (x.1 < lid) && !x.2.done)
  s.taskQ.all (fun x => match s.launch x.launch with
      | some l => l.queue != q || decide (8 ≤ l.parent.getD 0)
      | none => true)
    && before.all (fun x => match x.2.kind with
      | 0 => x.2.nextOf.isNone
      | 3 => x.2.walker.isSome
      | _ => true)
    && (match s.launch lid with
      | some l => !bitN l.image 375 || before.isEmpty
      | none => false)
    && !s.recordComing lid

/-- 15 R410, R412: a GRAPH launch at the head of its queue is placed on a free walker; every node is armed and those without
predecessors start in index order. -/
def execGraphPlace (l : Nat) (s : State) : Host.Outcome State Fault Refusal :=
  .next <|
    match s.launch l with
    | none => s
    | some x =>
      if x.kind ≠ 3 ∨ x.walker.isSome = true ∨ x.done = true ∨ s.graphHead x.queue l = false then s
      else match (List.range 8).find? (fun k => (s.walker k).isNone) with
        | none => s
        | some k =>
          let base := bitsN x.image 299 274 * 64
          let n := bitsN x.image 273 262 + 1
          let s1 := (s.setLaunch l (some { x with walker := some k })).setWalker k (some { launch := l, ctx := x.ctx, base := base, n := n })
          let s2 := (List.range n).foldl (fun st i =>
            let r := st.readRec x.ctx (base + 64 * i)
            let img := r.1.getD 0
            r.2.putNode k i (fun _ => { image := img, pend := nPred img, st := 1 })) s1
          (List.range n).foldl (fun st i => if nPred (s2.gnode k i).image = 0 then st.startNode k i else st) s2

/-- 15 R412: TRAVERSE_NODE_DONE. A node whose work is over completes in its turn; a COPY whose Hod's queue was full asks
again. -/
def execTraverseNodeDone (tw m : Nat) (s : State) : Host.Outcome State Fault Refusal :=
  .next <|
    let g := s.gnode tw m
    if nKind g.image = 2 ∧ g.st = 2 ∧ g.queued = false then s.copyNode tw m
    else if nKind g.image = 6 ∨ s.nodeTurn tw m = false then s
    else match nKind g.image with
      | 1 =>
        let bad := match g.launch with
          | some l => (match s.launch l with
            | some x => x.failed
            | none => false)
          | none => false
        let s1 := match g.launch with
          | some l => s.setLaunch l none
          | none => s
        let s2 := match s.walker tw with
          | some w => (match s1.launch w.launch with
            | some x => s1.setLaunch w.launch (some { x with failed := x.failed || bad })
            | none => s1)
          | none => s1
        s2.nodeDone tw m
      | 2 =>
        let st := ((s.copyDone.find? (fun e => e.1 == tw && e.2.1 == m)).map (·.2.2)).getD 0
        let s1 := { s with copyDone := s.copyDone.filter (fun e => !(e.1 == tw && e.2.1 == m)) }
        if st = 0 then s1.nodeDone tw m else s1.failNode tw m
      | _ => s.nodeDone tw m

/-- 15 R412: WAITTIME_EXPIRY. -/
def execWaittimeExpiry (tw m : Nat) (s : State) : Host.Outcome State Fault Refusal :=
  .next <| if nKind (s.gnode tw m).image = 6 ∧ s.nodeTurn tw m = true then s.nodeDone tw m else s

/-- Whether a wake for a waiter is on its way (05 R140). -/
def Sram.woken (m : Sram) (w : Waiter) : Bool := m.wakes.any (fun e => e.2.any (fun c => c.waiter == w))
/-- Takes the wakes of a waiter. -/
def Sram.takeWakes (m : Sram) (w : Waiter) : Sram :=
  { m with wakes := (m.wakes.map (fun e => (e.1, e.2.filter (fun c => c.waiter != w)))).filter (fun e => !e.2.isEmpty) }

/-- 15 R413: COND_RECHECK. A waiting COND re-reads its word on a wake, or 256 clk after its last check when the monitor was
full. -/
def execCondRecheck (tw m : Nat) (s : State) : Host.Outcome State Fault Refusal :=
  .next <|
    let g := s.gnode tw m
    let due := match g.poll with
      | some c => decide (c ≤ s.clk)
      | none => false
    if nKind g.image ≠ 3 ∨ g.st ≠ 2 ∨ g.choice ≠ 0 ∨ (!s.mem.woken (.node tw m) && !due) = true then s
    else (s.setMem (s.mem.takeWakes (.node tw m))).condRead tw m

end Sys2Proof.Machine
end

