-- ==== Sys2Proof/Machine/WarpEvents.lean ====
section
/-! DEFINITION. What happens to a warp between its instructions: write-back, urgency, moves, wakes, timers, and the release of
its slot (02 R48, R55; 05 R140; 06 R156, R160; 08 R220, R224, R228; 14 R385). -/
namespace Sys2Proof.Machine

/-- The read that a path's instruction has waited for is there (05 R146; 08 R222; 12 R332; 13 R339): the instruction ends with what follows
from it, faults, or goes on to its second issue. -/
def State.readBack (s : State) (c : Ctx) (h : HalfIssue) : State :=
  match h.instr with
  | .tld _ _ u | .tst _ _ u | .adrain _ _ _ u => s.shapeBack c u h
  | i =>
    if h.psn then s.stepFault c (.all 5 h.va)
    else if descBadFor i h.img then s.stepFault c trapOpnd
    else match i with
      | .spawn d a => s.spawnBack c d a h
      | .texq p _ u => s.texqBack c p u h
      | _ => s

/-- What a read of a path has found reaches the path, if it still stands at the instruction that it issued in the clk `at_`. -/
def State.halfBack (s : State) (key nid at_ : Nat) (ps : List AccPart) : State :=
  match s.warp key, (s.node key nid).step with
  | some w, some h0 =>
    let p := s.node key nid
    if p.kind != .path || p.mask = 0#96 || h0.at_ ≠ at_ then s
    else
      let base := ps.foldl (fun m q => min m q.pa) (2 ^ 64)
      let h := { h0 with img := ps.foldl (fun n q => n + q.got * 2 ^ (8 * (q.pa - base))) 0, psn := ps.any (·.psn) }
      (s.updNode key nid (fun n => { n with step := some h })).readBack ⟨key, nid, w, p, 0#32, guardMask w p⟩ h
  | _, _ => s

/-- The beats of a warp's instruction in flight whose write-back time has come write their registers (02 R48), or reach the path that
waits for them; the reads of texture-unit instructions and of rays are taken by those. -/
def State.writeBack (s : State) (key : Nat) (f : Flight) : State :=
  let due := f.backs.filter (fun b => decide (b.2 ≤ s.clk))
  let ps := (f.accs.filter (fun a => due.any (fun b => b.1 == a.beat))).flatMap (·.parts)
  match f.dst with
  | .half nid at_ => if due.isEmpty then s else s.halfBack key nid at_ ps
  | _ => s.updWarp key (fun w => w.deliver f.dst ps)

/-- An instruction in flight after its write-backs of this clk. -/
def Flight.after (f : Flight) (clk : Nat) : Flight := { f with backs := f.backs.filter (fun b => decide (clk < b.2)) }

/-- Whether an instruction in flight has nothing left to do. -/
def Flight.over (f : Flight) : Bool :=
  f.backs.isEmpty && f.accs.all (·.served) && (match f.dst with
    | .tex _ => false
    | .ray _ => false
    | _ => true)

/-- 02 R48, 13 R340: beats whose time has come have reached write-back, and texture-unit instructions whose results are due end; final
arrivals that waited for them are performed (05 R132). On the low rail a result waits for a clk of the sub-core (02 R45). -/
def execMemoryWriteback (k : Nat) (s : State) : Host.Outcome State Fault Refusal :=
  .next <|
    let s0 := s.passSlots s.clk
    let s1 := s0.updWarp k (fun w => { w with inflight := w.inflight.filter (fun t => decide (s.clk < t)) })
    let tick := arithTick (s.railOf (coreOf k)) s.clk
    let s2 := if tick then
        (let mine := s1.flights.filter (fun f => f.key == k)
         let s2 := mine.foldl (fun st f => st.writeBack k f) s1
         { s2 with flights := (s2.flights.map (fun f => if f.key = k then f.after s.clk else f)).filter (fun f => f.key != k || !f.over) })
      else s1
    (s2.texDue k).doFinals k

/-- 02 R55: a warp held for 64 clk on one instruction makes its attempt urgent. -/
def execAttemptUrgent (k : Nat) (s : State) : Host.Outcome State Fault Refusal :=
  .next <| s.updWarp k (fun w => match w.heldAt with
    | some t => if w.urgent || decide (s.clk < t + 64) then w else { w with urgent := true, nurg := satAdd w.nurg 1 32 }
    | none => w)

/-- Ends a path's wait where a test holds: it is selectable again. -/
def State.endWait (s : State) (k m : Nat) (test : Wait → Bool) : State :=
  if test (s.node k m).wait then s.updNode k m (fun n => { n with wait := .none, since := s.clk }) else s

/-- 06 R160: the last unit of a frame move has reached write-back, and the path may issue. -/
def execFrameMoveDone (k m : Nat) (s : State) : Host.Outcome State Fault Refusal :=
  .next <| s.endWait k m (fun w => match w with
    | .frame (some t) => decide (t ≤ s.clk)
    | _ => false)

/-- 08 R220: a yielding path is selectable again. -/
def execYieldExpiry (k m : Nat) (s : State) : Host.Outcome State Fault Refusal :=
  .next <| s.endWait k m (fun w => match w with
    | .yield t => decide (t ≤ s.clk)
    | _ => false)

/-- 05 R140: the oldest four wakes of a slice reach their paths, which reissue their waiting instructions; a wake whose waiter
has gone is dropped (R141). Wakes of Traverse nodes are COND_RECHECK's. -/
def execMonitorWake (sl : Nat) (s : State) : Host.Outcome State Fault Refusal :=
  .next <|
    let es := sget [] s.mem.wakes sl
    let isPath (e : CairnEntry) : Bool := match e.waiter with
      | .path _ _ _ => true
      | .node _ _ => false
    let go := (es.filter isPath).take 4
    let s1 := s.setMem { s.mem with wakes := sput [] s.mem.wakes sl (es.filter (fun e => !go.contains e)) }
    go.foldl (fun st e => match e.waiter with
      | .path c k i => (match st.warp k with
        | some w => if w.ctx = c then st.endWait k i (fun x => match x with
            | .monitor none => true
            | _ => false) else st
        | none => st)
      | .node _ _ => st) s1

/-- 05 R140, R142, 04 R118: a path that found the monitor full rechecks. -/
def execMonitorRecheck (k m : Nat) (s : State) : Host.Outcome State Fault Refusal :=
  .next <|
    match (s.node k m).wait with
    | .monitor (some x) =>
      if s.clk < x.2 then s else
      let c1 : Sparse MonCtr := supd {} s.mem.mon x.1 (fun c => { c with mpoll := satAdd c.mpoll 1 32 })
      (s.setMem { s.mem with mon := c1 }).endWait k m (fun _ => true)
    | _ => s

/-! ### Deadlines -/

/-- Takes the faults of a warp out of its context's directory and queue. -/
def State.dropWarpWork (s : State) (ctx tk wid : Nat) : State :=
  let mine (w : Work) : Bool := match w with
    | .frag t i _ => t == tk && i == wid
    | .warp t i => t == tk && i == wid
    | .gang _ => false
  let c := s.ctx ctx
  let s1 := s.setCtx ctx { c with dir := c.dir.filter (fun e => !mine e.2.work), pending := c.pending.filter (fun f => !mine f.work) }
  { s1 with autoFrags := s1.autoFrags.filter (fun a => !(a.team == tk && a.warp == wid)) }

/-- A strip-class warp that takes DEADLINE is ended by Plumb as FKILL would (14 R385; 16 R418). -/
def State.plumbKill (s : State) (k : Nat) (w : Warp) : State :=
  let s1 := match s.launch w.launch with
    | some l => s.setLaunch w.launch (some { l with failed := true })
    | none => s
  (s1.dropWarpWork w.ctx w.team w.warpId).killWarp k

/-- Whether a path of a warp waits, as 05 R136 has it. -/
def State.someWaiting (s : State) (k : Nat) : Option Nat :=
  (s.leaves k).find? (fun i => match (s.node k i).wait with
    | .monitor _ => true
    | .await _ _ => true
    | .asking _ _ _ => true
    | .ticket _ _ _ => true
    | _ => false)

/-- 08 R228: the deadline timer expires: it disarms, and the warp takes DEADLINE at once if a path waits, else at its next
boundary. An expiry met while the warp was out or parked, or behind a gang-level park or a pre-emption of its team (16 R419), is looked at again
here. -/
def execDeadline (k : Nat) (s : State) : Host.Outcome State Fault Refusal :=
  .next <|
    match s.warp k with
    | none => s
    | some w =>
      let running := match s.team w.team with
        | some t => t.status == .started
        | none => false
      let late := w.deadline != 2 ^ 64 - 1 && decide (w.deadline ≤ s.clk)
      if !liveKey k || !running || w.status == .exited || !(late || w.dlHit) then s
      else
        let s1 := s.setWarp k (some { w with deadline := if late then 2 ^ 64 - 1 else w.deadline, dlHit := false })
        let behind := match s.team w.team with
          | some t => t.gangPark.isSome || t.preempt != 0
          | none => false
        if behind then s1.updWarp k (fun v => { v with dlHit := true })
        else if w.strip then s1.plumbKill k w
        else if w.status == .parked then s1.updWarp k (fun v => { v with dlHit := true })
        else match s.someWaiting k with
          | some i => (s1.endWaits k true).takeTrap k i 0#96 (.warp 21 0 0)
          | none => s1.updWarp k (fun v => { v with dlHit := true })

/-! ### Release -/

/-- The reorder buffer receives what a pixel warp emitted (14 R377). -/
def State.pixelDone (s : State) (w : Warp) : State :=
  match s.team w.team with
  | none => s
  | some t => s.updPipe t.pipe (fun x => { x with rob := x.rob.map (fun e =>
      if e.team = w.team then { e with done := true, colour := w.colour, emitted := w.emitted, killed := w.killedPix } else e) })

/-- 08 R224, 06 R156: an exited warp whose instructions have reached write-back frees its registers and slot; the last warp of a team
frees its scratchpads, spill areas and energy share with them. Its Ashlar contexts go with `State.dropEnded`. -/
def execWarpRelease (k : Nat) (s : State) : Host.Outcome State Fault Refusal :=
  .next <|
    match s.warp k with
    | none => s
    | some w =>
      if w.status != .exited || !s.memDone k || w.busy.any (fun b => decide (s.clk < b.till)) then s
      else
        let s1 := if w.stageKind = 2 then s.pixelDone w else s
        let s2 := (((s1.entries k).foldl (fun a i => a.setNode k i {}) s1).unlink k).setWarp k none
        match s2.team w.team with
        | none => s2
        | some t =>
          let t1 := { t with keys := t.keys.filter (· != k), gapAt := max t.gapAt (w.lastPlain + 17) }
          if t1.keys.isEmpty then (s2.share t1 t1.core false).setTeam w.team (some { t1 with spills := [], gone := 1 })
          else s2.setTeam w.team (some t1)

end Sys2Proof.Machine
end

