-- ==== Sys2Proof/Machine/Issue.lean ====
section
/-! DEFINITION. What an instruction waits for before it issues, and what its issue charges and counts (11 R279, R297, R298;
13 R341, R357; 15 R414-R417; 17 R447, R450, R452; 07 R195). -/
namespace Sys2Proof.Machine

/-! ### Latency classes -/

/-- The place of a register in `Warp.busy` (07 R195): lane registers by stack position, then s-registers, latches and predicates. -/
def busyReg (wb code : Nat) : Nat := if code < 64 then wb + code else 65536 + code
/-- The place of a predicate in `Warp.busy`. -/
def busyPred (i : Nat) : Nat := 131072 + i
/-- The place of latch y1. -/
def busyY1 : Nat := 65536 + 96

/-- Whether a path's operands are readable (07 R195; 06 R162): registers, latches, predicates and the guard. DEDUCED (log 108): a path
waits for a register that is not readable yet in any of its lanes. -/
def Warp.operandsReady (w : Warp) (n : Node) (x : IssueInfo) (clk : Nat) : Bool :=
  (w.busy.filter (fun e => decide (clk < e.till) && (e.lanes &&& n.mask) != 0#96)).all (fun e =>
    x.reads.all (fun r => (List.range r.2).all (fun j => busyReg n.wb (r.1 + j) != e.reg))
      && x.rp.all (fun i => busyPred i != e.reg) && (!x.guarded || busyPred (bitsN n.mode.toNat 2 0) != e.reg))

/-- An instruction has issued in the lanes of `act` whose results become readable at a clk (07 R195): its registers and predicates are
busy until then, and so is latch y1 of those lanes; that of the path's other lanes is what the register there is. An earlier result in
their place has nothing left that reads it. -/
def Warp.claims (w : Warp) (wb : Nat) (x : IssueInfo) (act path : LaneMask) (clk till : Nat) : Warp :=
  let live := w.busy.filter (fun e => decide (clk < e.till))
  if act = 0#96 then { w with busy := live } else
  let m := if x.once then BitVec.allOnes 96 else act
  let regs := x.writes.flatMap (fun r => (List.range r.2).map (fun j => busyReg wb (r.1 + j))) ++ x.wp.map busyPred
  let kept := live.flatMap (fun e => if regs.contains e.reg then e.without m else [e])
  let own := if x.lat ≤ 1 then [] else regs.map (fun r => (⟨r, m, till⟩ : Busy))
  let latch := if x.once || !x.wp.isEmpty then [] else
    (if x.lat ≤ 1 then [] else [(⟨busyY1, act, till⟩ : Busy)])
      ++ kept.flatMap (fun e => if some e.reg = regs.head? then e.within (path &&& ~~~act) busyY1 else [])
  { w with busy := kept ++ own ++ latch }

/-! ### Waits before issue -/

/-- Whether a pending delivery covers a register code as a path with a window base names it (11 R297). -/
def Pend.covers (p : Pend) (wb code : Nat) : Bool :=
  if code < 64 then decide (p.dst < 64 ∧ p.wb + p.dst ≤ wb + code ∧ wb + code < p.wb + p.dst + p.num)
  else decide (code < 96 ∧ 64 ≤ p.dst ∧ p.dst ≤ code ∧ code < p.dst + p.num)

/-- The deliveries that a path awaits. -/
def State.awaited (s : State) (key nid : Nat) : List Pend :=
  match s.warp key with
  | some w => w.pend.filter (fun p => p.nid == nid || (p.mask &&& (s.node key nid).mask) != 0#96)
  | none => []

/-- The charge of an instruction (17 R450). -/
def State.chargeOf (s : State) (key nid : Nat) (i : Instr) : Nat :=
  match s.warp key with
  | none => 0
  | some w =>
    let x := s.infoAt key nid i
    let n := (lanesOf (guardMask w (s.node key nid))).length
    x.weight * (if x.once then min n 1 else n)

/-- Whether 17 R452 holds an instruction back. -/
def State.heldBack (s : State) (key nid : Nat) (i : Instr) : Bool :=
  s.throttled (coreOf key) && decide ((s.cluster (clusterOf (coreOf key))).heavy ≤ s.chargeOf key nid i)

/-- Whether an instruction of a path waits for what its warp has begun: an Ashlar instruction for the joint operation that the warp has
arrived for (12 R318), a TRACE for the warp's earlier one or for room in the traversal unit (13 R357). Its warp is no candidate then
(15 R414). -/
def State.joinWait (s : State) (key nid : Nat) (i : Instr) : Bool :=
  match s.warp key with
  | none => false
  | some w =>
    let core := coreOf key
    guardMask w (s.node key nid) != 0#96 && (match i with
      | .tctl _ _ | .trdc _ _ _ | .tzero _ | .tscl _ _ | .tld _ _ _ | .tst _ _ _ | .mma _ _ _ _ | .mmas _ _ _ _ _ | .azero _ _
        | .adrain _ _ _ _ | .aread _ _ _ | .awrite _ _ _ => (match s.ashOf core w.team with
          | some ax => (s.ash ax).arrived (halfIndex w)
          | none => false)
      | .trace _ _ => w.trace.isSome || decide (s.raysHeld core ≥ 512)
      | _ => false)

/-- Whether a path's next instruction is free of the waits that keep its warp from being a candidate (15 R414; 17 R447): it issues
nothing before a clk (05 R126, 13 R339), its operands are not readable yet (07 R195), it names a register that an instruction in
flight or a delivery will write (02 R48; 11 R297; log 90), it is held by the order of accesses (11 R279), or it waits for a joint
operation or a TRACE (12 R318; 13 R357). EXIT, and DISCARD which ends lanes
as it does, wait for every delivery (11 R297; 13 R361). -/
def State.mayIssue (s : State) (key nid : Nat) (i : Instr) : Bool :=
  match s.warp key with
  | none => false
  | some w =>
    let x := s.infoAt key nid i
    let n := s.node key nid
    let ps := s.awaited key nid
    let fs := s.flights.filter (fun f => f.key == key)
    let free (wb c : Nat) : Bool := ps.all (fun p => !p.covers wb c) && fs.all (fun f => !f.covers wb c n.mask)
    decide ((s.cluster (clusterOf (coreOf key))).pause ≤ s.clk) && decide (n.stop ≤ s.clk)
      && (!x.mem || s.orderFree key w nid n) && (!x.rel || s.released key) && w.operandsReady n x s.clk
      && x.reads.all (fun r => (List.range r.2).all (fun j => free n.wb (r.1 + j)))
      && x.writes.all (fun r => (List.range r.2).all (fun j => free (n.wb + x.slide) (r.1 + j)))
      && ((i != .exit && i != .discard) || ps.isEmpty) && !s.joinWait key nid i

/-- Whether an instruction finds its engine's queue full: it then does not issue in this clk, and a later candidate may (15 R417). -/
def State.queueWait (s : State) (key nid : Nat) (i : Instr) : Bool :=
  match s.warp key with
  | none => false
  | some w =>
    let core := coreOf key
    guardMask w (s.node key nid) != 0#96 && (match i with
      | .hcopy _ _ | .hcopys _ _ | .hgather _ _ | .hscatter _ _ | .hstage _ _ | .hevict _ _ | .hfill _ _ | .hmeta _ _
        | .hldr _ _ _ => s.hodFull core (subOf key)
      | .rring _ _ | .rtree _ _ => decide ((s.fabQ core).cmds.length ≥ 4)
      | .tzero _ | .tscl _ _ | .tld _ _ _ | .tst _ _ _ | .mma _ _ _ _ | .mmas _ _ _ _ _ | .azero _ _ | .adrain _ _ _ _
        | .aread _ _ _ | .awrite _ _ _ => (match s.ashOf core w.team with
          | some ax => decide ((s.ash ax).ops.length ≥ 8)
          | none => false)
      | _ => false)

/-! ### Issue -/

/-- Charges of an instruction by beat (17 R450): beat j enters in its own clk, which `at_` gives. -/
def beatCharges (x : IssueInfo) (act : LaneMask) (width : Nat) (at_ : Nat → Nat) : List (Nat × Nat) :=
  if x.once then (if act = 0#96 ∨ x.weight = 0 then [] else [(at_ 0, x.weight)])
  else ((List.range (x.beats width)).map (fun j =>
    (at_ j, x.weight * ((lanesOf act).filter (fun l => x.solo || l / (if x.narrow then 16 else 32) == j)).length))).filter (fun e => e.2 != 0)

/-- An instruction issues: the selection (06 R171), its charge, whether it was heavy (15 R416), the clk to which it holds the issue slot
(06 R150), and the end of its warp's hold. -/
def State.noteIssue (s : State) (key nid : Nat) (i : Instr) : State :=
  match s.warp key with
  | none => s
  | some w =>
    let x := s.infoAt key nid i
    let core := coreOf key
    let cl := clusterOf core
    let es := beatCharges x (guardMask w (s.node key nid)) w.width (s.coreClk core)
    let heavy := decide ((s.cluster cl).heavy ≤ s.chargeOf key nid i)
    let s1 := (s.noteSelection key nid).updWarp key (fun v => { v with heldAt := none, urgent := false, want := [] })
    let s2 := if es.isEmpty then s1 else s1.updCluster cl (fun c => { c with
      recent := c.recent.filter (fun e => decide (s.clk < e.1 + 97)) ++ es })
    { s2 with heavy := sput false s2.heavy (key / 8) heavy
              slotTill := sput 0 s2.slotTill (key / 8) (s.coreClk core (x.beats w.width)) }

/-- The results of an instruction that has issued from `s` are readable after the latency of its class (07 R195; 06 R162). -/
def State.noteResult (s t : State) (key nid : Nat) (i : Instr) : State :=
  match s.warp key with
  | none => t
  | some w =>
    let x := s.infoAt key nid i
    let last := if x.uni then 0 else x.beats w.width - 1
    let n := s.node key nid
    t.updWarp key (fun v => v.claims (n.wb + x.slide) x (if x.guarded then guardMask w n else n.mask) n.mask s.clk
      (s.coreClk (coreOf key) (last + x.lat)))

/-- A clk in which 17 R452 holds back a candidate of a sub-core is counted once in `THROT`. -/
def State.noteHeld (s : State) (key : Nat) : State :=
  if s.clk < sget 0 s.throtTill (key / 8) then s else
  { s.updCluster (clusterOf (coreOf key)) (fun c => { c with throt := satAdd c.throt 1 32 }) with
    throtTill := sput 0 s.throtTill (key / 8) (s.clk + 1) }

/-- What an instruction that ran from `s` and left `t` would have reserved: the resources whose calendars have grown. -/
def State.sought (s t : State) : List Nat :=
  ((t.cal.filter (fun e => decide (sget 0 s.cal e.1 < e.2))).map (fun e => e.1 % 32768)).eraseDups

/-- A failed attempt of a warp, which left `t` aside, is its sub-core's one attempt of the clk and counts in `HOLD` (02 R53): its path
stays chosen (06 R171), and an urgent attempt keeps every resource that it needs from later ones (02 R55; log 109). -/
def State.attemptFails (s : State) (key nid : Nat) (t : State) : State :=
  { s.updWarp key (fun w => { w with hold := satAdd w.hold 1 64, heldAt := some (w.heldAt.getD s.clk), chosen := some nid
                                     want := if w.urgent then s.sought t else [] }) with
    tried := sput 0 s.tried (key / 8) (s.clk + 1) }

/-- Whether the warp of a slot is one that issues (06 R173; 06 R150; 17 R447): Resident, of a team that has started, in a
clk of its sub-core in which the issue slot is free. -/
def State.issuable (s : State) (key : Nat) : Bool :=
  match s.warp key with
  | some w => liveKey key && w.status == .resident && decide (sget 0 s.slotTill (key / 8) ≤ s.clk)
      && arithTick (s.railOf (coreOf key)) s.clk && (match s.team w.team with
    | some t => t.status == .started
    | none => false)
  | none => false

end Sys2Proof.Machine
end

