-- ==== Sys2Proof/Machine/Crypto.lean ====
section
/-! DEFINITION. The device's cryptography (00 R2; 18 R465-R468): the SHA-512 digest and ECDSA on P-521. PRESUMED (log 9): the spec names both and
does not define them; the definitions and constants are those of FIPS 180-4 and FIPS 186-5. -/
namespace Sys2Proof.Machine

/-! ### Bytes -/

/-- The first `n` bytes of memory given as a number, lowest address first. -/
def bytesOf (x n : Nat) : List Nat := (List.range n).map (fun i => x / 256 ^ i % 256)
/-- A number in memory whose bytes from the lowest address are given. -/
def leOf (l : List Nat) : Nat := l.foldr (fun b a => b + 256 * a) 0
/-- A big-endian number. -/
def beOf (l : List Nat) : Nat := l.foldl (fun a b => 256 * a + b) 0
/-- The bytes of a big-endian number of `n` bytes. -/
def beBytes (x n : Nat) : List Nat := (bytesOf x n).reverse

/-! ### SHA-512 -/

/-- The round constants: fractions of the cube roots of the first 80 primes. -/
def shaKa : List Nat := [
  0x428a2f98d728ae22, 0x7137449123ef65cd, 0xb5c0fbcfec4d3b2f, 0xe9b5dba58189dbbc,
  0x3956c25bf348b538, 0x59f111f1b605d019, 0x923f82a4af194f9b, 0xab1c5ed5da6d8118,
  0xd807aa98a3030242, 0x12835b0145706fbe, 0x243185be4ee4b28c, 0x550c7dc3d5ffb4e2,
  0x72be5d74f27b896f, 0x80deb1fe3b1696b1, 0x9bdc06a725c71235, 0xc19bf174cf692694,
  0xe49b69c19ef14ad2, 0xefbe4786384f25e3, 0x0fc19dc68b8cd5b5, 0x240ca1cc77ac9c65,
  0x2de92c6f592b0275, 0x4a7484aa6ea6e483, 0x5cb0a9dcbd41fbd4, 0x76f988da831153b5,
  0x983e5152ee66dfab, 0xa831c66d2db43210, 0xb00327c898fb213f, 0xbf597fc7beef0ee4,
  0xc6e00bf33da88fc2, 0xd5a79147930aa725, 0x06ca6351e003826f, 0x142929670a0e6e70,
  0x27b70a8546d22ffc, 0x2e1b21385c26c926, 0x4d2c6dfc5ac42aed, 0x53380d139d95b3df,
  0x650a73548baf63de, 0x766a0abb3c77b2a8, 0x81c2c92e47edaee6, 0x92722c851482353b]
/-- The later round constants. -/
def shaKb : List Nat := [
  0xa2bfe8a14cf10364, 0xa81a664bbc423001, 0xc24b8b70d0f89791, 0xc76c51a30654be30,
  0xd192e819d6ef5218, 0xd69906245565a910, 0xf40e35855771202a, 0x106aa07032bbd1b8,
  0x19a4c116b8d2d0c8, 0x1e376c085141ab53, 0x2748774cdf8eeb99, 0x34b0bcb5e19b48a8,
  0x391c0cb3c5c95a63, 0x4ed8aa4ae3418acb, 0x5b9cca4f7763e373, 0x682e6ff3d6b2b8a3,
  0x748f82ee5defb2fc, 0x78a5636f43172f60, 0x84c87814a1f0ab72, 0x8cc702081a6439ec,
  0x90befffa23631e28, 0xa4506cebde82bde9, 0xbef9a3f7b2c67915, 0xc67178f2e372532b,
  0xca273eceea26619c, 0xd186b8c721c0c207, 0xeada7dd6cde0eb1e, 0xf57d4f7fee6ed178,
  0x06f067aa72176fba, 0x0a637dc5a2c898a6, 0x113f9804bef90dae, 0x1b710b35131c471b,
  0x28db77f523047d84, 0x32caab7b40c72493, 0x3c9ebe0a15c9bebc, 0x431d67c49c100d4c,
  0x4cc5d4becb3e42b6, 0x597f299cfc657e2a, 0x5fcb6fab3ad6faec, 0x6c44198c4a475817]
/-- The initial hash value: fractions of the square roots of the first eight primes. -/
def shaInit : List Nat := [
  0x6a09e667f3bcc908, 0xbb67ae8584caa73b, 0x3c6ef372fe94f82b, 0xa54ff53a5f1d36f1,
  0x510e527fade682d1, 0x9b05688c2b3e6c1f, 0x1f83d9abfb41bd6b, 0x5be0cd19137e2179]

/-- A 64-bit rotation to the right. -/
def ror64 (x n : Nat) : Nat := (x >>> n ||| x <<< (64 - n)) % 2 ^ 64

/-- The message schedule of a block of sixteen words. -/
def shaSchedule (m : List Nat) : List Nat :=
  ((List.range 64).foldl (fun (w : List Nat) _ =>
    let a := w.getD 1 0
    let b := w.getD 14 0
    (((ror64 a 19 ^^^ ror64 a 61 ^^^ a >>> 6) + w.getD 6 0 + (ror64 b 1 ^^^ ror64 b 8 ^^^ b >>> 7) + w.getD 15 0) % 2 ^ 64) :: w) m.reverse).reverse

/-- One round on the working variables `a` to `h`, with a constant and a schedule word. -/
def shaRound (v : List Nat) (k : Nat × Nat) : List Nat :=
  match v with
  | [a, b, c, d, e, f, g, h] =>
    let t1 := h + (ror64 e 14 ^^^ ror64 e 18 ^^^ ror64 e 41) + (e &&& f ^^^ (2 ^ 64 - 1 - e) &&& g) + k.1 + k.2
    let t2 := (ror64 a 28 ^^^ ror64 a 34 ^^^ ror64 a 39) + (a &&& b ^^^ a &&& c ^^^ b &&& c)
    [(t1 + t2) % 2 ^ 64, a, b, c, (d + t1) % 2 ^ 64, e, f, g]
  | _ => v

/-- The hash value after a block of 128 bytes. -/
def shaBlock (h : List Nat) (bs : List Nat) : List Nat :=
  let m := (List.range 16).map (fun i => beOf ((bs.drop (8 * i)).take 8))
  (h.zip (((shaKa ++ shaKb).zip (shaSchedule m)).foldl shaRound h)).map (fun x => (x.1 + x.2) % 2 ^ 64)

/-- A message padded to whole blocks. -/
def shaPad (bs : List Nat) : List Nat :=
  bs ++ 0x80 :: List.replicate ((239 - bs.length % 128) % 128) 0 ++ beBytes (8 * bs.length) 16

/-- The hash value after some blocks. -/
def shaRun : Nat → List Nat → List Nat → List Nat
  | 0, h, _ => h
  | k + 1, h, bs => shaRun k (shaBlock h (bs.take 128)) (bs.drop 128)

/-- The SHA-512 digest of a message, as its 64 bytes. -/
def sha512 (bs : List Nat) : List Nat :=
  let m := shaPad bs
  (shaRun (m.length / 128) shaInit m).flatMap (fun w => beBytes w 8)

/-! ### P-521 -/

/-- The prime of the field. -/
def p521 : Nat := 2 ^ 521 - 1
/-- The order of the group. -/
def n521 : Nat := 0x1fffffffffffffffffffffffffffffffffffffffffffffffffffffffffffffffffa51868783bf2f966b7fcc0148f709a5d03bb5c9b8899c47aebb6fb71e91386409
/-- The coefficient `b` of the curve y² = x³ − 3x + b. -/
def b521 : Nat := 0x51953eb9618e1c9a1f929a21a0b68540eea2da725b99b315f3b8b489918ef109e156193951ec7e937b1652c0bd3bb1bf073573df883d2c34f1ef451fd46b503f00
/-- The generator. -/
def g521 : Nat × Nat :=
  (0xc6858e06b70404e9cd9e3ecb662395b4429c648139053fb521f828af606b4d3dbaa14b5e77efe75928fe1dc127a2ffa8de3348b3c1856a429bf97e7e31c2e5bd66,
   0x11839296a789a3bc0045c8a5fb42c7d1bd998f54449579b446817afbd17273e662c97ee72995ef42640c550b9013fad0761353c7086a272c24088be94769fd16650)

/-- `x ^ e` modulo `m`, by the bits of `e` from the highest. -/
def powMod (x e m : Nat) : Nat :=
  (List.range 521).reverse.foldl (fun a i => let q := a * a % m; if e.testBit i then q * x % m else q) 1

/-- A point in Jacobian coordinates; the point at infinity has `z` 0. -/
structure JPoint where
  x : Nat
  y : Nat
  z : Nat
deriving DecidableEq, Repr

/-- Subtraction in the field. -/
def subP (a b : Nat) : Nat := (a + p521 - b % p521) % p521

/-- Twice a point. -/
def JPoint.dbl (a : JPoint) : JPoint :=
  let zz := a.z * a.z % p521
  let yy := a.y * a.y % p521
  let s := 4 * a.x * yy % p521
  let m := 3 * (subP a.x zz) * ((a.x + zz) % p521) % p521
  let x := subP (m * m) (2 * s)
  ⟨x, subP (m * subP s x) (8 * yy * yy), 2 * a.y * a.z % p521⟩

/-- The sum of two points. -/
def JPoint.add (a b : JPoint) : JPoint :=
  if a.z = 0 then b else if b.z = 0 then a else
  let za := a.z * a.z % p521
  let zb := b.z * b.z % p521
  let u1 := a.x * zb % p521
  let s1 := a.y * b.z * zb % p521
  let h := subP (b.x * za) u1
  let r := subP (b.y * a.z * za) s1
  if h = 0 then (if r = 0 then a.dbl else ⟨1, 1, 0⟩) else
  let hh := h * h % p521
  let v := u1 * hh % p521
  let x := subP (r * r) (h * hh + 2 * v)
  ⟨x, subP (r * subP v x) (s1 * h * hh), a.z * b.z * h % p521⟩

/-- A multiple of a point. -/
def JPoint.smul (k : Nat) (a : JPoint) : JPoint :=
  (List.range 521).reverse.foldl (fun (r : JPoint) i => let d := r.dbl; if k.testBit i then d.add a else d) ⟨1, 1, 0⟩

/-- A point that is not at infinity, as `x` and `y`. -/
def JPoint.affine (a : JPoint) : Nat × Nat :=
  let i := powMod a.z (p521 - 2) p521
  (a.x * i * i % p521, a.y * i * i % p521 * i % p521)

/-- The generator. -/
def gen521 : JPoint := ⟨g521.1, g521.2, 1⟩

/-- Whether 133 bytes are an uncompressed public key: a point of the curve. -/
def keyOk (k : List Nat) : Bool :=
  let x := beOf ((k.drop 1).take 66)
  let y := beOf ((k.drop 67).take 66)
  k.headD 0 == 4 && decide (x < p521 ∧ y < p521 ∧ y * y % p521 = (x * x * x + (p521 - 3) * x + b521) % p521)

/-- The uncompressed public key of a private key. -/
def keyOf (d : Nat) : List Nat :=
  let q := (gen521.smul d).affine
  4 :: (beBytes q.1 66 ++ beBytes q.2 66)

/-- Whether a signature r then s of 132 bytes verifies for a message under a public key (ECDSA on P-521 with SHA-512). -/
def verifies (key sig msg : List Nat) : Bool :=
  let r := beOf (sig.take 66)
  let s := beOf ((sig.drop 66).take 66)
  let e := beOf (sha512 msg)
  let w := powMod s (n521 - 2) n521
  let q : JPoint := ⟨beOf ((key.drop 1).take 66), beOf ((key.drop 67).take 66), 1⟩
  let c := (gen521.smul (e * w % n521)).add (q.smul (r * w % n521))
  keyOk key && decide (0 < r ∧ r < n521 ∧ 0 < s ∧ s < n521) && c.z != 0 && c.affine.1 % n521 == r

/-- The signature of a message under a private key `d`, with the secret number `k` of this signature. -/
def signature (d k : Nat) (msg : List Nat) : List Nat :=
  let r := (gen521.smul k).affine.1 % n521
  let s := powMod k (n521 - 2) n521 * (beOf (sha512 msg) + r * d) % n521
  beBytes r 66 ++ beBytes s 66

end Sys2Proof.Machine
end

