-- ==== Sys2Proof/Machine/Platform.lean ====
section
/-! DEFINITION. The host's apertures and registers, the timebase, the rails and sensors, margin searches, the wipe and the life
cycle (01 R38; 02 R65, R66; 03 R90-R93; 05 R142; 14 R363-R365, R392; 15 R393; 17 R447-R455; 18 R456-R467). -/
namespace Sys2Proof.Machine

/-! ### The timebase -/

/-- The value of a timebase in 2^-16 ns. -/
def Timebase.now (t : Timebase) : Int := (((t.sec * 10 ^ 9 + t.ns) * 65536 + t.frac : Nat) : Int)

/-- A timebase with another value; a value below zero becomes zero (14 R365). -/
def Timebase.setNow (t : Timebase) (x : Int) : Timebase :=
  let n := x.toNat
  { t with frac := n % 65536, ns := n / 65536 % 10 ^ 9, sec := n / 65536 / 10 ^ 9 % 2 ^ 48 }

/-- The timebase `n` mesh clk on (14 R363). -/
def Timebase.tick (t : Timebase) (n : Nat) : Timebase :=
  let x := ((t.sec * 10 ^ 9 + t.ns) * 65536 + t.frac) * 65536 + t.acc + t.inc * n
  { (t.setNow ((x / 65536 : Nat) : Int)) with acc := x % 65536 }

/-- A step adds `SNS` and `SFRAC` (14 R365). -/
def Timebase.step (t : Timebase) : Timebase := t.setNow (t.now + sextN t.sns 64 * 65536 + (t.sfrac : Int))

/-- The word that holds `SNS` is written with the value it holds, which steps the timebase in one clk (14 R364, R365). -/
def State.tbStep (s : State) : State := { s with tbase := s.tbase.step }
/-- A write of `INC` takes effect, in force from the next mesh clk (14 R365). -/
def State.tbIncWrite (s : State) (x : Nat) : State := { s with tbase := { s.tbase with inc := x % 2 ^ 40 } }

/-- 14 R365: a PPS rising edge is captured while `PPSEN` = 1. -/
def execPpsCapture (s : State) : Host.Outcome State Fault Refusal :=
  .next <|
    if s.tbase.ppsen then
      { s with tbase := { s.tbase with capSec := s.tbase.sec, capNs := s.tbase.ns, capFrac := s.tbase.frac, capv := true } }
    else s

/-- 14 R365: loss of lock clears `REFLK` and is journalled. -/
def execRefLockLoss (s : State) : Host.Outcome State Fault Refusal :=
  .next <|
    if s.tbase.reflk then ({ s with tbase := { s.tbase with reflk := false } } : State).journal 255 0 0 11 0 0 else s

/-- 14 R365: with `REFEN` = 1 the mesh clock locks to the 10 MHz input. -/
def execRefLockGained (s : State) : Host.Outcome State Fault Refusal :=
  .next <| if s.tbase.refen then { s with tbase := { s.tbase with reflk := true } } else s

/-! ### Register blocks -/

/-- `IDLE` of a slice (02 R65). -/
def SliceCtr.idle (c : SliceCtr) (clk : Nat) : Nat := min (((64 * clk : Nat) : Int) - (c.used : Int) - c.idleRef).toNat (2 ^ 64 - 1)

/-- The block of a slice (02 R65). -/
def SliceCtr.image (c : SliceCtr) (clk : Nat) : Nat :=
  fieldN c.ce 480 32 + fieldN c.ue 448 32 + fieldN c.ueaddr 429 19 + fieldN (b2n c.uev) 428 1 + fieldN c.racep 384 32
    + fieldN c.poisr 352 32 + fieldN c.prot 320 32 + fieldN c.scrub 288 32 + fieldN c.locacc 192 64 + fieldN c.meshacc 128 64
    + fieldN (c.idle clk) 64 64

/-- A slice's block once its image is written; `w1` are the bits written as 1. -/
def SliceCtr.load (c : SliceCtr) (clk x w1 : Nat) : SliceCtr :=
  { c with ce := bitsN x 511 480, ue := bitsN x 479 448, uev := c.uev && !bitN w1 428, racep := bitsN x 415 384
           poisr := bitsN x 383 352, prot := bitsN x 351 320, locacc := bitsN x 255 192, meshacc := bitsN x 191 128
           idleRef := if bitsN x 127 64 = c.idle clk then c.idleRef
             else ((64 * clk : Nat) : Int) - (c.used : Int) - ((bitsN x 127 64 : Nat) : Int) }

/-- The monitor block of a slice (05 R142); `now` is `MNOW`. -/
def MonCtr.image (c : MonCtr) (now : Nat) : Nat :=
  fieldN c.mreg 192 64 + fieldN c.mwake 128 64 + fieldN c.mrefused 96 32 + fieldN c.mpoll 64 32 + fieldN c.mhigh 55 9
    + fieldN now 46 9

/-- A monitor block once its image is written. -/
def MonCtr.load (x : Nat) : MonCtr :=
  { mreg := bitsN x 255 192, mwake := bitsN x 191 128, mrefused := bitsN x 127 96, mpoll := bitsN x 95 64, mhigh := bitsN x 63 55 }

/-- The block of a Hod (03 R90). -/
def HodCtr.image (c : HodCtr) : Nat :=
  fieldN c.bytes 448 64 + fieldN c.rdlat 384 64 + fieldN c.nrd 352 32 + fieldN c.rdmax 336 16 + fieldN c.rfstall 288 32
    + fieldN c.bkstall 256 32 + fieldN c.mstall 224 32 + fieldN c.walks 192 32 + fieldN c.tcmiss 160 32 + fieldN c.qfull 128 32
    + fieldN c.staged 96 32 + fieldN c.evicted 64 32 + fieldN c.derr 32 32 + fieldN c.ncmd 0 32

/-- A Hod's block once its image is written. -/
def HodCtr.load (x : Nat) : HodCtr :=
  { bytes := bitsN x 511 448, rdlat := bitsN x 447 384, nrd := bitsN x 383 352, rdmax := bitsN x 351 336
    rfstall := bitsN x 319 288, bkstall := bitsN x 287 256, mstall := bitsN x 255 224, walks := bitsN x 223 192
    tcmiss := bitsN x 191 160, qfull := bitsN x 159 128, staged := bitsN x 127 96, evicted := bitsN x 95 64
    derr := bitsN x 63 32, ncmd := bitsN x 31 0 }

/-- The block of a sub-channel (03 R91). -/
def SubCh.image (c : SubCh) : Nat :=
  fieldN c.ce 224 32 + fieldN c.ue 192 32 + fieldN c.ueaddr 158 34 + fieldN (b2n c.uev) 157 1 + fieldN c.refpb 96 32
    + fieldN c.refpp 64 32 + fieldN c.refab 32 32 + fieldN c.list.length 28 4 + fieldN c.debtMax 24 4

/-- A sub-channel's block once its image is written. -/
def SubCh.load (c : SubCh) (x w1 : Nat) : SubCh :=
  { c with ce := bitsN x 255 224, ue := bitsN x 223 192, uev := c.uev && !bitN w1 157, refpb := bitsN x 127 96
           refpp := bitsN x 95 64, refab := bitsN x 63 32, debtMax := bitsN x 27 24 }

/-- Suspect sensors of a cluster (17 R449 `SUSP`). -/
def Cluster.susp (c : Cluster) : Nat := (c.sensors.filter (fun x => x.2.suspect)).length

/-- The block of a cluster (17 R449). -/
def Cluster.image (c : Cluster) (clk : Nat) : Nat :=
  fieldN (c.crec clk) 235 21 + fieldN c.pairt 214 21 + fieldN c.clim 193 21 + fieldN c.heavy 185 8 + fieldN c.budget 169 16
    + fieldN c.sres 153 16 + fieldN c.commit 137 16 + fieldN c.scommit 121 16 + fieldN c.railm 119 2 + fieldN c.rail 118 1
    + fieldN (b2n c.flow) 117 1 + fieldN (b2n c.tlow) 116 1 + fieldN c.susp 112 4 + fieldN c.swit 80 32 + fieldN c.throt 48 32

/-- A cluster's block once its image is written; a write of 3 to `RAILM` is ignored. -/
def Cluster.load (c : Cluster) (x : Nat) : Cluster :=
  { c with pairt := bitsN x 234 214, clim := bitsN x 213 193, heavy := bitsN x 192 185, budget := bitsN x 184 169
           sres := bitsN x 168 153, railm := if bitsN x 120 119 = 3 then c.railm else bitsN x 120 119, swit := bitsN x 111 80
           throt := bitsN x 79 48 }

/-- The block of a hardware queue (15 R393). -/
def HwQueue.image (q : HwQueue) : Nat :=
  fieldN q.rbase 232 24 + fieldN q.rlog2 228 4 + fieldN q.ctx 223 5 + fieldN (b2n q.en) 222 1 + fieldN q.tickets 212 10
    + fieldN q.tail 160 32 + fieldN q.head 128 32 + fieldN q.pass 88 40 + fieldN q.placed 32 32 + fieldN q.skips 0 32

/-- A queue's block once its image is written: the fixed fields of an enabled queue stay, a write that enables it with `RLOG2`
above 11 is ignored as a whole, and so is a `TICKETS` of 0. -/
def HwQueue.load (q : HwQueue) (clk x : Nat) : HwQueue :=
  let rl := if q.en then q.rlog2 else bitsN x 231 228
  if bitN x 222 && decide (11 < rl) then q
  else
    { (if bitsN x 221 212 = 0 then q else q.withTickets clk (bitsN x 221 212)) with
             rbase := if q.en then q.rbase else bitsN x 255 232, rlog2 := rl, ctx := if q.en then q.ctx else bitsN x 227 223
             en := bitN x 222, tail := bitsN x 191 160 }

/-- The pointer block (18 R458). -/
def PtrBlock.image (p : PtrBlock) : Nat :=
  fieldN p.cqbase 488 24 + fieldN p.cqlog2 484 4 + fieldN p.cqtail 452 32 + fieldN p.cqhead 420 32 + fieldN p.jbase 404 16
    + fieldN p.jlog2 400 4 + fieldN p.jwseq 336 64 + fieldN p.flbase 320 16 + fieldN p.fllog2 316 4 + fieldN p.flwseq 284 32
    + fieldN (b2n p.jen) 283 1

/-- The pointer block once its image is written: `CQBASE` stays while commands wait, and sizes above 8 are ignored. -/
def PtrBlock.load (p : PtrBlock) (x : Nat) : PtrBlock :=
  let size (new old : Nat) : Nat := if new ≤ 8 then new else old
  { p with cqbase := if p.cqhead = p.cqtail then bitsN x 511 488 else p.cqbase, cqlog2 := size (bitsN x 487 484) p.cqlog2
           cqtail := bitsN x 483 452, jbase := bitsN x 419 404, jlog2 := size (bitsN x 403 400) p.jlog2
           flbase := bitsN x 335 320, fllog2 := size (bitsN x 319 316) p.fllog2, jen := bitN x 283 }

/-- A timebase value as 96 bits. -/
def tbBits (sec ns frac : Nat) : Nat := fieldN sec 48 48 + fieldN ns 16 32 + fieldN frac 0 16

/-- The timebase block (14 R364). -/
def Timebase.image (t : Timebase) : Nat :=
  tbBits t.capSec t.capNs t.capFrac * 2 ^ 160 + tbBits t.sec t.ns t.frac * 2 ^ 64 + fieldN t.inc 24 40 + fieldN (b2n t.capv) 7 1
    + fieldN (b2n t.reflk) 6 1 + fieldN (b2n t.refen) 5 1 + fieldN (b2n t.ppsen) 4 1

/-- The timebase block once its image is written; a write of the word that holds `SNS` performs the step. -/
def Timebase.load (t : Timebase) (x w1 word : Nat) : Timebase :=
  let t1 : Timebase := { t with
    inc := bitsN x 63 24, capv := t.capv && !bitN w1 7, refen := bitN x 5, ppsen := bitN x 4
    sns := if word = 5 then bitsN x 383 320 else t.sns, sfrac := if word = 4 then bitsN x 319 304 else t.sfrac }
  if word = 5 then t1.step else t1

/-- The block of a pipeline (14 R392). -/
def PipeCtr.image (c : PipeCtr) : Nat :=
  fieldN c.frames 224 32 + fieldN c.late 192 32 + fieldN c.rep 160 32 + fieldN c.skipped 128 32 + fieldN c.dropm 96 32
    + fieldN c.slotw 64 32 + fieldN c.underrun 32 32 + fieldN c.ebfull 0 32

/-- A pipeline's block once its image is written. -/
def PipeCtr.load (x : Nat) : PipeCtr :=
  { frames := bitsN x 255 224, late := bitsN x 223 192, rep := bitsN x 191 160, skipped := bitsN x 159 128
    dropm := bitsN x 127 96, slotw := bitsN x 95 64, underrun := bitsN x 63 32, ebfull := bitsN x 31 0 }

/-- The die's private identity key, a number that ECDSA admits (18 R468). -/
def identityKey : Nat := Config.identityKey % (n521 - 1) + 1

/-- A 64-bit word of the identity block (18 R459): word 0, the serial number, and `IDPUB`. -/
def Life.word (l : Life) (i : Nat) : Nat :=
  match i with
  | 0 => fieldN l.fwver 32 32 + fieldN l.fwstat 4 4 + fieldN l.lcs 0 3
  | 1 => Config.serial.toNat
  | 2 => 4 + leOf (((keyOf identityKey).drop 1).take 7) * 256
  | _ => leOf (((keyOf identityKey).drop (8 * i - 16)).take 8)

/-- A block of the control aperture (18 R457). -/
inductive CtlBlock where
  | identity | pointers | queue (q : Nat) | slice (n : Nat) | hod (c : Nat) | subch (q : Nat) | power (cl : Nat) | timebase
  | pipe (p : Nat) | window
deriving DecidableEq, Repr

/-- The block that holds an offset of the control aperture, and the offset in it; none where nothing is listed. -/
def ctlBlock (a : Nat) : Option (CtlBlock × Nat) :=
  if a < 0x1000 then some (.identity, a)
  else if a < 0x1040 then some (.pointers, a - 0x1000)
  else if 0x10000 ≤ a ∧ a < 0x10800 then some (.queue ((a - 0x10000) / 32), (a - 0x10000) % 32)
  else if 0x100000 ≤ a ∧ a < 0x104800 then some (.slice ((a - 0x100000) / 96), (a - 0x100000) % 96)
  else if 0x110000 ≤ a ∧ a < 0x113000 then some (.hod ((a - 0x110000) / 64), (a - 0x110000) % 64)
  else if 0x114000 ≤ a ∧ a < 0x114800 then some (.subch ((a - 0x114000) / 32), (a - 0x114000) % 32)
  else if 0x118000 ≤ a ∧ a < 0x118600 then some (.power ((a - 0x118000) / 32), (a - 0x118000) % 32)
  else if 0x11a000 ≤ a ∧ a < 0x11a030 then some (.timebase, a - 0x11a000)
  else if 0x11a040 ≤ a ∧ a < 0x11a0c0 then some (.pipe ((a - 0x11a040) / 32), (a - 0x11a040) % 32)
  else if 0x1000000 ≤ a ∧ a < 0x2000000 then some (.window, a - 0x1000000)
  else none

/-- Image of a slice's two blocks. -/
def State.sliceImage (s : State) (n : Nat) : Nat :=
  (s.mem.ctrOf n).image s.clk + (s.mem.monOf n).image (sget [] s.mem.cairn n).length * 2 ^ 512

/-- Eight bytes of the control aperture; a read of an offset that is not listed gives zero (18 R457). -/
def State.ctlRead (s : State) (a : Nat) : Nat :=
  match ctlBlock a with
  | none => 0
  | some (b, off) =>
    let img := match b with
      | .identity => s.life.word (off / 8) * 2 ^ (64 * (off / 8))
      | .pointers => s.ptr.image
      | .queue q => (s.queue q).image
      | .slice n => s.sliceImage n
      | .hod c => (s.hod c).ctr.image
      | .subch q => (s.lp.subOf q).image
      | .power cl => (s.cluster cl).image s.clk
      | .timebase => s.tbase.image
      | .pipe p => (s.pipe p).ctr.image
      | .window => memRead s.life.window (off - off % 8) 8 * 2 ^ (64 * (off / 8))
    bitsN img (64 * (off / 8) + 63) (64 * (off / 8))

/-- An image with its 64-bit word `w` replaced. -/
def putWord64 (img w x : Nat) : Nat := img - fieldN (bitsN img (64 * w + 63) (64 * w)) (64 * w) 64 + fieldN x (64 * w) 64

/-- The machine after a transition to a state (18 R466; 02 R66; 03 R93): SRAM, LPDDR 6 and everything listed there is wiped;
time, the power blocks, sensors, margin searches, display links and port states go on. -/
def State.wiped (s : State) (lcs : Nat) : State :=
  { State.reset with
    agenda := s.agenda, cur := s.cur, fresh := s.fresh, clk := s.clk, tbase := s.tbase, launchCtr := s.launchCtr
    mem := { ctr := if s.clk = 0 then [] else (List.range 192).map (fun i => (i, { idleRef := (64 * s.clk : Nat) })) }
    dps := s.dps, margins := s.margins, fab := { down := s.fab.down }
    clusters := (s.clusters.map (fun x => (x.1, { x.2 with commit := 0, scommit := 0 }))).filter (fun x => x.2 != {})
    life := { s.life with
      lcs := lcs, wiping := true, wipeAt := s.clk, ctx0 := false, window := if lcs = 2 ∨ lcs = 4 then [] else s.life.window
      token := if lcs = 0 then 0 else s.life.token } }

/-- 18 R466: `FWGO` in BOOT takes effect. -/
def State.fwgo (s : State) : State := if s.life.lcs = 0 ∧ s.life.wiping = false then s.wiped 1 else s

/-- 00 R6, 18 R457: a host write of the 64-bit word at an offset of the control aperture takes effect. Writes to offsets that are not
listed, and to fields that may not be written, are ignored; a 1 in `FWGO` starts verification (R458, R466). -/
def State.regWrite (s : State) (a x : Nat) : State :=
  if a % 8 ≠ 0 then s
  else match ctlBlock a with
    | none => s
    | some (b, off) =>
      let w := off / 8
      let v := x % 2 ^ 64
      let w1 := v * 2 ^ (64 * w)
      match b with
      | .identity => s
      | .pointers =>
        let s1 := { s with ptr := s.ptr.load (putWord64 s.ptr.image w v) }
        if bitN w1 282 then s1.fwgo else s1
      | .queue q => s.setQueue q ((s.queue q).load s.clk (putWord64 (s.queue q).image w v))
      | .slice n =>
        if w < 8 then s.setMem (s.mem.updCtr n (fun c => c.load s.clk (putWord64 (c.image s.clk) w v) w1))
        else s.setMem { s.mem with mon := supd {} s.mem.mon n (fun c => MonCtr.load (putWord64 (c.image 0) (w - 8) v)) }
      | .hod c => s.countHod c (fun k => HodCtr.load (putWord64 k.image w v))
      | .subch q => s.setLp (s.lp.updSub q (fun c => c.load (putWord64 c.image w v) w1))
      | .power cl => s.updCluster cl (fun c => c.load (putWord64 (c.image s.clk) w v))
      | .timebase => { s with tbase := s.tbase.load (putWord64 s.tbase.image w v) w1 w }
      | .pipe p => s.updPipe p (fun y => { y with ctr := PipeCtr.load (putWord64 y.ctr.image w v) })
      | .window =>
        if s.life.lcs = 0 then { s with life := { s.life with window := memWrite s.life.window (off - off % 8) 8 v } } else s

/-- 15 R393, R402: a write of a queue's `TICKETS` takes effect. -/
def State.ticketsWrite (s : State) (q x : Nat) : State :=
  if q < 64 ∧ x % 1024 ≠ 0 then s.setQueue q ((s.queue q).withTickets s.clk (x % 1024)) else s

/-- Whether a control write must wait (04 R122): for host writes to take effect, for 17 clk after them, or behind others. -/
def State.hostBusy (s : State) : Bool := !s.hostQ.isEmpty || decide (s.clk < s.hostGap) || !s.ctlQ.isEmpty

/-- A control write takes effect now, or waits (04 R122). -/
def State.ctlWrite (s : State) (i : Instr) (now : State) : Host.Outcome State Fault Refusal :=
  .next <| if s.hostBusy then { s with ctlQ := s.ctlQ ++ [i] } else now

/-- 00 R6, 18 R457: a host write of the 64-bit word at an offset of the control aperture; a write of 1 to `FWGO` is an FWGO. -/
def execRegisterWrite (a x : Nat) (s : State) : Host.Outcome State Fault Refusal := s.ctlWrite (.registerWrite a x) (s.regWrite a x)

/-- 15 R393, R402: a write of a queue's `TICKETS`. -/
def execTicketsWrite (q x : Nat) (s : State) : Host.Outcome State Fault Refusal := s.ctlWrite (.ticketsWrite q x) (s.ticketsWrite q x)

/-- 14 R364, R365: a host write of the word that holds `SNS`, a control write. -/
def execTbStep (s : State) : Host.Outcome State Fault Refusal := s.ctlWrite .tbStep s.tbStep

/-- 14 R365: a host write of `INC`, a control write. -/
def execTbIncWrite (x : Nat) (s : State) : Host.Outcome State Fault Refusal := s.ctlWrite (.tbIncWrite x) (s.tbIncWrite x)

/-! ### The SRAM aperture -/

/-- Whether a block is marked protected (01 R29). -/
def Sram.protAt (m : Sram) (pa : Nat) : Bool := sget false m.prot (pa / 65536)

/-- A host access met protected blocks of slices, each of which counts it once (01 R38; 02 R65 `PROT`). -/
def Sram.countProt (m : Sram) (pas : List Nat) : Sram :=
  (pas.map (· / 2 ^ 24)).eraseDups.foldl (fun m sl => m.updCtr sl (fun c => { c with prot := satAdd c.prot 1 32 })) m

/-- Whether a host access is answered: not during a wipe (02 R66), and on slices that exist (01 R38). -/
def State.hostOk (s : State) (a n : Nat) : Bool := !s.life.wiping && decide (a + n ≤ 192 * 2 ^ 24)

/-- The key of the flights of a Renore stop. -/
def hostKey (stop : Nat) : Nat := 2 ^ 21 + stop

/-- The Renore stop that an offset of the SRAM aperture passes (04 R121). -/
def hostStopAt (pa : Nat) : Nat := 16 + bitsN pa 12 12

/-- The data of a unit that a host read has found, zeros where it is poisoned, and whether any of it is (18 R456). -/
def hostUnit (g : Nat × Nat × Nat) (n : Nat) : Nat × Bool :=
  ((List.range n).foldl (fun a i => if bitN g.2.1 i then a else a + bytesAt g.1 i 1 * 256 ^ i) 0, g.2.1 != 0)

/-- A host read is answered: what it returned stands in `hostData`, of a poisoned granule zeros, with the link's poison indication (04 R123;
18 R456). -/
def State.hostAnswer (s : State) (r : HostRead) : State :=
  match r.ctl with
  | some a => { s with hostData := s.ctlRead a, hostPsn := false }
  | none => r.units.foldl (fun (st : State) u => match st.takeUnit (hostKey u.1) u.2.1 with
      | some (g, s1) =>
        let x := hostUnit g 256
        { s1 with hostData := s1.hostData + x.1 * 2 ^ (8 * u.2.2), hostPsn := s1.hostPsn || x.2 }
      | none => st) { s with hostData := 0, hostPsn := false }

/-- The host reads whose clk has come are answered, oldest first. -/
def State.hostAnswers (s : State) : State :=
  (s.hostRds.filter (fun r => decide (r.due ≤ s.clk))).foldl State.hostAnswer { s with hostRds := s.hostRds.filter (fun r => decide (s.clk < r.due)) }

/-- A unit of a host read is on its way to its bank slots (01 R38; 02 R56), which come after those of every write that the same half took
before it (04 R121). -/
def State.hostUnitRead (s : State) (r : HostRead) (p : Nat × Nat × Nat) : State × HostRead :=
  let stop := hostStopAt p.1
  let e := s.edgeBeat stop (hostKey stop) (hostAgent stop) (.load true) (.hod s.hostSeq) p.1 p.2.2 0 0 (sget 0 s.hostSlot stop)
  ({ e.1 with hostSeq := s.hostSeq + 1 }, { r with due := max r.due e.2.2, units := r.units ++ [(stop, s.hostSeq, p.2.1)] })

/-- 01 R38, 04 R121, R123, 18 R456: a host read of `n` bytes through the SRAM aperture reserves the bank slots of its units; an offset of 2^32
and more reads eight bytes of the control aperture, once every write that came through stop 16 before it has taken effect. `hostAnswer`
answers it; a protected block reads zero, and an error completion returns nothing. -/
def execHostApertureRead (a n : Nat) (s : State) : Host.Outcome State Fault Refusal :=
  .next <|
    if 2 ^ 32 ≤ a then
      ({ s with hostErr := false,
                hostRds := s.hostRds ++ [{ due := max s.clk (sget 0 s.hostSlot 16), ctl := some (a - 2 ^ 32) }] } : State).hostAnswers
    else if !s.hostOk a n then { s with hostErr := true }
    else
      let us := spanPieces 256 (n + 1) a 0 n
      let s1 := { s.setMem (s.mem.countProt ((us.filter (fun p => s.mem.protAt p.1)).map (·.1))) with hostErr := false }
      let r := (us.filter (fun p => !s.mem.protAt p.1)).foldl (fun (x : State × HostRead) p => x.1.hostUnitRead x.2 p) (s1, ⟨s.clk, none, []⟩)
      ({ r.1 with hostRds := r.1.hostRds ++ [r.2] } : State).hostAnswers

/-- 01 R38, 04 R121, R122, 18 R456: a host write of `n` bytes through the SRAM aperture reaches its stop, with the link's poison attribute; it
takes effect at the bank slots that the stop reserves for it, none before those of an earlier write of the same half. -/
def execHostApertureWrite (a n x ps : Nat) (s : State) : Host.Outcome State Fault Refusal :=
  .next <|
    if !s.hostOk a n then { s with hostErr := true }
    else
      let us := spanPieces 256 (n + 1) a 0 n
      let s1 := { s.setMem (s.mem.countProt ((us.filter (fun p => s.mem.protAt p.1)).map (·.1))) with hostErr := false }
      (us.filter (fun p => !s.mem.protAt p.1)).foldl (fun st p =>
        let stop := hostStopAt p.1
        let r := st.edgeBeat stop (hostKey stop) (hostAgent stop) .store .none p.1 p.2.2 (bytesAt x p.2.1 p.2.2) (if ps = 0 then 0 else maskAt 0 p.2.2)
          (sget 0 st.hostSlot stop)
        { r.1 with hostQ := r.1.hostQ ++ [⟨s.clk, r.2.1⟩], hostGap := max r.1.hostGap (r.2.1 + 17),
                   hostSlot := sput 0 r.1.hostSlot stop (r.2.1 + 1) }) s1

/-! ### Rails and sensors -/

/-- Mesh clk in a second, and in a millisecond (02 R45). -/
def clkSecond : Nat := 1050000000
/-- Mesh clk in a millisecond. -/
def clkMilli : Nat := 1050000

/-- Whether rule 1 of 17 R448 forces a cluster to the low rail. -/
def Cluster.forced (c : Cluster) : Bool := c.flow || c.tlow

/-- Warps that a cluster holds. -/
def State.clusterWarps (s : State) (cl : Nat) : List Warp :=
  s.warps.filterMap (fun x => match x.2 with
    | some w => if liveKey x.1 && clusterOf (coreOf x.1) == cl then some w else none
    | none => none)

/-- Whether rule 3 of 17 R448 keeps a cluster on the high rail: reserved, a strip-class warp whatever its state, or a resident warp with
`HINT compute`. -/
def State.wantsHigh (s : State) (cl : Nat) : Bool :=
  s.reservedAt cl || (s.clusterWarps cl).any (fun w => w.strip || (w.status == .resident && w.hint == 0))

/-- Whether every resident warp of a cluster carries `HINT memory` or `HINT wait`. -/
def State.calmHints (s : State) (cl : Nat) : Bool :=
  (s.clusterWarps cl).all (fun w => w.status != .resident || w.hint == 1 || w.hint == 2)

/-- The rail of a cluster (17 R448). -/
def State.wantRail (s : State) (cl : Nat) : Nat :=
  let c := s.cluster cl
  if c.forced then 1
  else if c.railm ≤ 1 then c.railm
  else if s.wantsHigh cl then 0
  else if c.lowSince + 4096 ≤ s.clk && s.calmHints cl then 1
  else c.rail

/-- A cluster changes rail (17 R447): issue pauses for 16 ns. -/
def State.switchRail (s : State) (cl r : Nat) : State :=
  s.updCluster cl (fun c => { c with rail := r, swit := satAdd c.swit 1 32, pause := s.clk + 17 })

/-- 17 R447, R448: RAIL_SWITCH. -/
def execRailSwitch (cl r : Nat) (s : State) : Host.Outcome State Fault Refusal :=
  .next <| if decide (cl < 48) && s.wantRail cl == r && (s.cluster cl).rail != r then s.switchRail cl r else s

/-- 17 R448 rule 3: the cluster moves to the low rail after 4,096 clk of memory or wait hints. -/
def execLowRailIdle (cl : Nat) (s : State) : Host.Outcome State Fault Refusal :=
  .next <|
    let c := s.cluster cl
    if decide (cl < 48) && c.railm == 2 && c.rail == 0 && s.wantRail cl == 1 && !c.forced then s.switchRail cl 1 else s

/-- Core of a cluster's thermal sensor (17 R453, 02 R39). -/
def sensorCore (cl se : Nat) : Nat := (cl % 8 * 2 + se % 2) + 16 * (cl / 8 * 2 + se / 2)
/-- Sensor of a core in its cluster. -/
def coreSensor (core : Nat) : Nat := core % 2 + 2 * (core / 16 % 2)
/-- A sensor. -/
def State.sensor (s : State) (cl se : Nat) : Sensor := sget {} (s.cluster cl).sensors se

/-- Thermal sensors one hop from a core's that are not suspect, and have been read. -/
def State.goodNeighbours (s : State) (core : Nat) : List Int :=
  ((List.range 192).filter (fun c => hops c core == 1)).filterMap (fun c =>
    let x := s.sensor (clusterOf c) (coreSensor c)
    if x.suspect then none else x.last)

/-- Twice the median of a list. -/
def median2 (l : List Int) : Int :=
  let t := sortBy (fun a b => decide (a ≤ b)) l
  t.getD ((t.length - 1) / 2) 0 + t.getD (t.length / 2) 0

/-- The hottest thermal value of a cluster. -/
def Cluster.hot (c : Cluster) : Bool := c.sensors.any (fun x => decide (x.1 < 4 ∧ 105000 < x.2.value))

/-- 17 R453, R448: a sample of a sensor, each of whose causes that begins to force the low rail makes a record: 0 to 3 thermal, in thousandths of a degree, 4 current, in milliamperes; the reading is
a signed 32-bit number. The sensor is judged, its value replaced while suspect, changes journalled, and forcing decided. -/
def execSensorSample (cl se x : Nat) (s : State) : Host.Outcome State Fault Refusal :=
  .next <|
    if cl ≥ 48 ∨ se > 4 then s
    else
      let v := sextN x 32
      let old := s.sensor cl se
      let near := s.goodNeighbours (sensorCore cl se)
      let scaled : Int := (((s.cluster cl).crec s.clk * (Config.calibration cl).1 / ((Config.calibration cl).2 + 1) : Nat) : Int)
      let jump := match old.last with
        | some l => decide (1000 < v - l ∨ 1000 < l - v)
        | none => false
      let far := !near.isEmpty && decide (30000 < 2 * v - median2 near ∨ 30000 < median2 near - 2 * v)
      let odd := if se < 4 then decide (v < -40000 ∨ 150000 < v) || jump || far
        else decide (v < 0 ∨ 80000 < v ∨ scaled < 4 * (v - scaled) ∨ scaled < 4 * (scaled - v))
      let since := if odd || old.last.isNone then s.clk else old.since
      let susp := odd || (old.suspect && decide (s.clk < since + clkSecond))
      let top := near.foldl max (near.headD 0)
      let val := if !susp then v else if se = 4 then scaled * 5 / 4 else if near.isEmpty then 110000 else top + 5000
      let s1 := s.updCluster cl (fun c => { c with sensors := sput {} c.sensors se ⟨some v, val, susp, since⟩ })
      let s2 := if susp != old.suspect then s1.journal 255 0 0 9 0 (cl + se * 256 + b2n susp * 65536) else s1
      let c := s2.cluster cl
      let was := s.cluster cl
      let many := decide (3 ≤ c.susp)
      let forced (b : Bool) (st : State) : State := if b then st.journal 255 0 0 10 0 (cl + 256 + 65536) else st
      (forced (c.hot && !c.tlow) (forced (many && !c.flow) s2)).updCluster cl (fun c =>
        { c with flow := c.flow || many, tlow := c.tlow || c.hot
                 calm := if many || decide (3 ≤ was.susp) then s.clk else c.calm, calmT := if c.hot || was.hot then s.clk else c.calmT })

/-- 17 R448 rule 1: a forced low rail ends when its cause has been absent for 1 s. -/
def execForceClear (cl : Nat) (s : State) : Host.Outcome State Fault Refusal :=
  .next <|
    if cl ≥ 48 then s
    else s.updCluster cl (fun c =>
      { c with flow := c.flow && (decide (3 ≤ c.susp) || decide (s.clk < c.calm + clkSecond))
               tlow := c.tlow && (c.hot || decide (s.clk < c.calmT + clkSecond)) })

/-! ### Margin searches -/

/-- Millivolts below nominal at which a rail is at its nominal minimum (17 R455). -/
def railSlack (rail : Nat) : Nat := if rail = 0 then 30 else 20

/-- 17 R454, R455: what a search's domain has met. `cl` names a cluster of the domain, or 48 and 49 the rails themselves; `e`
holds the corrected errors of the step in [15:0] and an uncorrectable one in [16]. An uncorrectable error below the nominal
minimum ends the search at once; else the step is judged after 1 ms. -/
def execMarginStep (cl e : Nat) (s : State) : Host.Outcome State Fault Refusal :=
  .next <|
    let rail := if cl < 48 then (s.cluster cl).rail else cl - 48
    match sget none s.margins rail with
    | none => s
    | some m =>
      let put (st : State) (m1 : Margin) : State := { st with margins := sput none st.margins rail (some m1) }
      let bad := bitN e 16
      if bad && decide (railSlack rail < m.mv) then
        put (s.journal 255 0 0 8 0 ((if cl < 48 then cl else 0) + rail * 256 + m.mv * 65536)) { m with mv := m.safe, isOver := true }
      else if m.isOver || decide (s.clk < m.since + clkMilli) then s
      else if bad || decide (4 < e % 65536) then put s { m with mv := m.safe, isOver := true }
      else if m.mv ≥ 60 then put s { m with safe := m.mv, isOver := true }
      else put s { m with safe := m.mv, mv := m.mv + 5, since := s.clk }

/-! ### Display events -/

/-- 18 R462, R469: a hot-plug event is journalled. -/
def execDpHotplug (po x : Nat) (s : State) : Host.Outcome State Fault Refusal :=
  .next <|
    if po > 3 then s
    else
      let d : DpOut := { sget {} s.dps po with plugged := x != 0 }
      ({ s with dps := sput {} s.dps po d } : State).journal 255 0 0 13 0 (po + (if x = 0 then 0 else 256))

/-! ### The wipe and the life cycle -/

/-- 18 R466: power-up or a link reset; nothing is kept. -/
def execPowerUp (s : State) : Host.Outcome State Fault Refusal :=
  .next <| { State.reset with agenda := s.agenda, fresh := s.fresh }

/-- 02 R66, 03 R93: the wipes have completed; that of the slices takes 8,192 clk. -/
def execWipeComplete (s : State) : Host.Outcome State Fault Refusal :=
  .next <| if s.life.wiping && decide (s.life.wipeAt + 8192 ≤ s.clk) then { s with life := { s.life with wiping := false }, lp := { s.lp with epoch := s.clk } } else s

/-- 18 R466: `FWGO` in BOOT, a control write. -/
def execFwgo (s : State) : Host.Outcome State Fault Refusal := s.ctlWrite .fwgo s.fwgo

/-- A control write that has waited takes effect (04 R122). -/
def State.ctlApply (s : State) (i : Instr) : State :=
  match i with
  | .registerWrite a x => s.regWrite a x
  | .ticketsWrite q x => s.ticketsWrite q x
  | .fwgo => s.fwgo
  | .tbStep => s.tbStep
  | .tbIncWrite x => s.tbIncWrite x
  | _ => s

/-- Host writes whose bank slots have passed have taken effect, and host reads are answered; then the control writes that waited for the
writes take effect (04 R121, R122). -/
def State.drainHost (s0 : State) : State :=
  let s := s0.hostAnswers
  let s1 := { s with hostQ := s.hostQ.filter (fun h => decide (s.clk ≤ h.slot)) }
  if !s1.hostQ.isEmpty || decide (s1.clk < s1.hostGap) then s1
  else s1.ctlQ.foldl State.ctlApply { s1 with ctlQ := [] }

/-- The signed bytes of a firmware image (18 R465): those before 0x100, and the body. -/
def Life.signed (l : Life) : List Nat :=
  bytesOf (memRead l.window 0 256) 256 ++ bytesOf (memRead l.window 0x1000 (memRead l.window 8 4)) (memRead l.window 8 4)

/-- What the boot ROM finds in the firmware window (18 R465): `FWSTAT`. -/
def Life.verdict (l : Life) : Nat :=
  let m := l.window
  let len := memRead m 8 4
  let key := bytesOf (memRead m 0x40 133) 133
  if memRead m 0 4 ≠ 0x5a393646 ∨ memRead m 4 4 ≠ 1 ∨ len % 64 ≠ 0 ∨ 2 ^ 24 - 4096 < len then 2
  else if leOf (sha512 key) ≠ Config.keyDigest then 3
  else if !verifies key (bytesOf (memRead m 0x100 132) 132) l.signed then 4
  else 1

/-- 18 R465, R466: verification ends. -/
def execFwVerifyDone (s : State) : Host.Outcome State Fault Refusal :=
  .next <|
    if s.life.lcs ≠ 1 ∨ s.life.wiping = true then s
    else
      let v := s.life.verdict
      let m := s.life.window
      if v = 1 then
        let t := s.wiped 2
        { t with life := { t.life with fwstat := 1, fwver := memRead m 12 4, key := memRead m 0x40 133
                                       digest := leOf (sha512 s.life.signed) } }
      else
        let t := s.wiped 4
        { t with life := { t.life with fwstat := v } }

end Sys2Proof.Machine
end

