-- ==== Sys2Proof/Machine/Commands.lean ====
section
/-! DEFINITION. The control queue and its commands, but for those of the strip pipelines (01 R18-R35; 16 R426, R446; 17 R454;
18 R460-R468, R472). -/
namespace Sys2Proof.Machine

/-! ### Physical addresses -/

/-- Whether a command may use a physical span: its slices exist and no block of it is protected (18 R460). -/
def State.physOk (s : State) (pa n : Nat) : Bool :=
  decide (pa + n ≤ 192 * 2 ^ 24) && (List.range ((pa + n - 1) / 65536 + 1 - pa / 65536)).all (fun i => !s.mem.protAt ((pa / 65536 + i) * 65536))

/-- A physical span read for a command: none where it may not be used, or is poisoned. -/
def State.physRead (s : State) (pa n : Nat) : Option Nat × State :=
  if !s.physOk pa n then (none, s)
  else s.devRead pa n

/-! ### The control queue -/

/-- What a command comes to: still in progress, or ended with `CSTAT`, `RET` and the context it names. -/
inductive CmdEnd where
  | busy (s : State)
  | ends (stat ret ctx : Nat) (s : State)

/-- Physical address of the command at the head (18 R458). -/
def PtrBlock.cqAddr (p : PtrBlock) : Nat := p.cqbase * 256 + 64 * (p.cqhead % 2 ^ (p.cqlog2 + 4))

/-- A record that the device writes as a release, by the control stop (18 R460). -/
def State.relWrite (s : State) (pa n x : Nat) : State := (s.setMem (s.mem.writeSpan pa (n + 1) n x false)).stopSpan ctlStop pa n

/-- The command at the head ends (18 R460, R461, R469): its result is written, `CQHEAD` advances, CMDDONE is journalled. -/
def State.cmdDone (s : State) (cmd stat ret ctx : Nat) : State :=
  let h := s.ptr.cqhead
  let pa := s.ptr.cqAddr
  let s1 := if pa + 64 ≤ 192 * 2 ^ 24 then s.relWrite (pa + 58) 5 (ret % 2 ^ 32 + stat * 2 ^ 32 + 2 ^ 39) else s
  ({ s1 with ptr := { s1.ptr with cqhead := (h + 1) % 2 ^ 32, begun := false } } : State).journal 64 0 h 7 ctx
    (cmd + stat * 256 + ret % 2 ^ 32 * 2 ^ 32)

/-- Whether the Z96 takes commands (18 R460). -/
def State.takesCommands (s : State) : Bool :=
  !s.life.wiping && (s.life.lcs == 2 || s.life.lcs == 3) && s.ptr.cqhead != s.ptr.cqtail

/-- The shape of a command (18 R460, R461): it runs when it stands at the head. `used` is its lowest operand bit. An entry with an unknown `CMD`, or that cannot be read, is taken as MALFORMED by
whichever command event comes. -/
def execCommand (code used : Nat) (s : State) (body : Nat → State → CmdEnd) : Host.Outcome State Fault Refusal :=
  .next <|
    if !s.takesCommands then s
    else
      let pa := s.ptr.cqAddr
      match (if 192 * 2 ^ 24 < pa + 64 then (none, s) else if s.ptr.begun then (some (memRead s.mem.bytes pa 64), s) else s.devRead pa 64) with
      | (none, s0) => s0.cmdDone 0 1 0 0
      | (some x, s0) =>
        let cmd := bitsN x 511 504
        if cmd = 0 ∨ 0x14 < cmd then s0.cmdDone cmd 1 0 0
        else if cmd ≠ code then s
        else if used ≠ 0 ∧ bitsN x (used - 1) 0 ≠ 0 then s0.cmdDone cmd 1 0 0
        else match body x s0 with
          | .busy s1 => { s1 with ptr := { s1.ptr with begun := !s1.life.wiping } }
          | .ends stat ret ctx s1 => s1.cmdDone cmd stat ret ctx

/-- A command that fails with a `CSTAT`. -/
def cmdFail (stat ctx : Nat) (s : State) : CmdEnd := .ends stat 0 ctx s
/-- A command that ends OK. -/
def cmdOk (ctx : Nat) (s : State) : CmdEnd := .ends 0 0 ctx s

/-! ### Contexts -/

/-- Areas of a context record in every slice, by first block and blocks (02 R62; 12 R324; 16 R439). -/
def recAreas (x : Nat) : List (Nat × Nat) :=
  (if bitN x 505 then [(bitsN x 435 428, 17), (bitsN x 419 412, 24)] else [])
    ++ (if bitN x 504 then [(bitsN x 427 420, 8)] else [])

/-- The placement region of a context record. -/
def recRegion (x : Nat) : List (Nat × Nat) := if bitsN x 403 396 = 0 then [] else [(bitsN x 411 404, bitsN x 403 396)]

/-- Whether two ranges of blocks meet. -/
def blocksMeet (a b : Nat × Nat) : Bool := decide (a.1 < b.1 + b.2 ∧ b.1 < a.1 + a.2)

/-- Whether some two of a list of ranges meet. -/
def someMeet : List (Nat × Nat) → Bool
  | [] => false
  | a :: t => t.any (blocksMeet a) || someMeet t

/-- Blocks of each backing slice that a segment entry takes. -/
def segBlocks (e : Nat) : Nat × Nat :=
  let lo := segOff e / 65536
  (lo, (segOff e + segSize e / segN e - 1) / 65536 + 1 - lo)

/-- Whether an area meets committed backing of any context (18 R463). -/
def State.meetsBacking (s : State) (a : Nat × Nat) : Bool :=
  s.ctxs.any (fun c => c.2.seg.any (fun e => segKind e.2 != 0 && blocksMeet a (segBlocks e.2)))

/-- A malformed H-window entry (01 R34). -/
def hwinBad (e : Nat) : Bool := decide (1 < segKind e) || bitsN e 123 122 != 0 || bitsN e 119 108 != 0 || bitsN e 35 0 != 0

/-- Malformed context records (18 R463). -/
def State.ctxBad (s : State) (x : Nat) : Bool :=
  let c := bitsN x 511 507
  let all := recAreas x ++ recRegion x
  bitsN x 328 0 != 0
    || bitsN x 403 396 == 0
    || (if c = 0 then bitsN x 506 504 != 0 || bitsN x 395 340 != 0
        else decide (bitsN x 369 366 < 4 ∨ 12 < bitsN x 369 366)
          || (bitsN x 365 340 != 0 && decide (bitsN x 339 335 < 1 ∨ 16 < bitsN x 339 335)))
    || all.any (fun a => decide (256 < a.1 + a.2)) || someMeet all || all.any s.meetsBacking
    || !lpPresent (bitsN x 487 460 * 2048)

/-- The H-window table of an image of 16 entries. -/
def hwinTable (img : Nat) : Sparse Nat :=
  (List.range 16).foldl (fun (m : Sparse Nat) i => sput 0 m i (bitsN img (128 * i + 127) (128 * i))) []

/-- A new context from its record (01 R18; 18 R463). -/
def ctxOfRec (x hw : Nat) : Context :=
  { live := true, phys := bitsN x 511 507 = 0, dbg := bitN x 506, sv := bitN x 505, av := bitN x 504, group := bitsN x 503 488
    ptroot := bitsN x 487 460, hwin := hwinTable hw, saveoff := bitsN x 435 428, asaveoff := bitsN x 427 420
    wsaveoff := bitsN x 419 412, ploff := bitsN x 411 404, plblk := bitsN x 403 396, fqbase := bitsN x 395 370
    fqlog2 := bitsN x 369 366, hrec := bitsN x 365 340, hmax := bitsN x 339 335, hqueue := bitsN x 334 329 }

/-- Marks ranges of blocks in every slice protected (01 R29). -/
def Sram.markAreas (m : Sram) (as : List (Nat × Nat)) : Sram :=
  { m with prot := (List.range 192).foldl (fun p sl => as.foldl (fun p1 a =>
      (List.range a.2).foldl (fun (p2 : Sparse Bool) i => sput false p2 (sl * 256 + a.1 + i) true) p1) p) m.prot }

/-- 18 R463 CTX_CREATE. -/
def execCtxCreate (s : State) : Host.Outcome State Fault Refusal :=
  execCommand 0x01 438 s fun w s1 =>
    match s1.physRead (bitsN w 463 438 * 64) 64 with
    | (none, s2) => cmdFail 1 0 s2
    | (some x, s2) =>
      let c := bitsN x 511 507
      if (s2.ctx c).live || (c == 0 && s2.life.ctx0) || (bitN x 506 && s2.life.lcs != 3) then cmdFail 2 c s2
      else if s2.ctxBad x then cmdFail 1 c s2
      else match s2.physRead (bitsN x 459 436 * 256) 256 with
        | (none, s3) => cmdFail 1 c s3
        | (some hw, s3) =>
          if (hwinTable hw).any (fun e => hwinBad e.2) then cmdFail 1 c s3
          else
            let s4 := (s3.setCtx c (ctxOfRec x hw)).setMem (s3.mem.markAreas (recAreas x))
            cmdOk c { s4 with life := { s4.life with ctx0 := s4.life.ctx0 || c == 0 } }

/-! ### Destroying a context -/

/-- Zeroes whole blocks and unmarks them (01 R29). -/
def Sram.freeBlocks (m : Sram) (on : Nat → Bool) : Sram :=
  let out (g : Nat) : Bool := !on (g / 2048)
  let m1 := { m with
    bytes := m.bytes.filter (fun e => !on (e.1 / 65536)), psn := m.psn.filter (fun e => out e.1)
    ceLat := m.ceLat.filter (fun e => out e.1), ueLat := m.ueLat.filter (fun e => out e.1), prot := m.prot.filter (fun e => !on e.1) }
  ((m.cairn.flatMap (fun e => e.2.map (·.word))).eraseDups.filter (fun g => !out g)).foldl (fun a g => a.wakeWord g) m1

/-- Whether a segment entry backs a block. -/
def segBacks (e b : Nat) : Bool :=
  decide (segSlice e ≤ b / 256 ∧ b / 256 < segSlice e + segN e ∧ (segBlocks e).1 ≤ b % 256 ∧ b % 256 < (segBlocks e).1 + (segBlocks e).2)

/-- Whether a block is protected for a context: one of its areas, or backing of a protected segment. -/
def Context.guards (c : Context) (b : Nat) : Bool :=
  let areas := (if c.sv then [(c.saveoff, 17), (c.wsaveoff, 24)] else []) ++ (if c.av then [(c.asaveoff, 8)] else [])
  areas.any (fun a => decide (a.1 ≤ b % 256 ∧ b % 256 < a.1 + a.2)) || c.seg.any (fun e => segKind e.2 == 5 && segBacks e.2 b)

/-- Final arrivals of a saved warp that exits take effect at once (18 R464; 05 R132). DESIGN CHOICE (log 85): one on the team's own L-space, which
nothing reaches any more (16 R441), does nothing. -/
def State.finalsNow (s : State) (key : Nat) : State :=
  match s.warp key with
  | none => s
  | some w => w.finals.foldl (fun st a => match (if spaceOf a = 0 then st.ctxPa w.ctx a needRWAT else none) with
    | some pa => st.barDec pa .arriveFinal
    | none => st) (s.updWarp key (fun v => { v with finals := [] }))

/-- A saved team exits as under FKILL (18 R464): its warps' last arrivals are made, its task is DONE, and it is gone. -/
def State.exitSaved (s : State) (tk : Nat) (x : Team) : State :=
  let s1 := x.keys.foldl (fun st k => (st.killWarp k).finalsNow k) s
  ((s1.clearTeam tk x).teamEnd tk).setTeam tk none

/-- Step 1 of 18 R464: the teams, tasks, graphs and launches of a context end. -/
def State.endWork (s : State) (c : Nat) : State :=
  let lids := s.launches.filterMap (fun x => match x.2 with
    | some l => if l.ctx = c then some x.1 else none
    | none => none)
  let mine (x : StripItem) : Bool := match x with
    | .launch l => lids.contains l
    | .team t => (match s.team t with
      | some y => y.ctx == c
      | none => false)
  let s0 := { s with
    taskQ := s.taskQ.filter (fun x => x.ctx != c), waitTasks := s.waitTasks.filter (fun x => x.ctx != c)
    chainQ := s.chainQ.filter (fun x => !mine x), binQ := s.binQ.filter (fun x => !mine x)
    savedQ := s.savedQ.filter (fun t => !mine (.team t))
    walkers := s.walkers.filter (fun x => match x.2 with
      | some w => w.ctx != c
      | none => true)
    pipes := (s.pipes.map (fun x => (x.1, { x.2 with held := x.2.held.filter (fun l => !lids.contains l) }))).filter (fun x => x.2 != {}) }
  let teams : List (Nat × Team) := s0.teams.filterMap (fun x => match x.2 with
    | some t => if t.ctx = c && t.status != .ended then some (x.1, t) else none
    | none => none)
  let s1 := teams.foldl (fun (st : State) (x : Nat × Team) =>
    if x.2.status == .saved then st.exitSaved x.1 x.2
    else if x.2.status == .waiting then (st.clearTeam x.1 x.2).setTeam x.1 none
    else x.2.keys.foldl (fun a k => a.killWarp k) (st.setTeam x.1 (some { x.2 with gangPark := none, preempt := 0 }))) s0
  lids.foldl (fun st l => (st.finishLaunch l true).setLaunch l none) s1

/-- Step 2 of 18 R464: commands of a context that have not started are dropped, and its reductions end. -/
def State.dropCommands (s0 : State) (c : Nat) : State :=
  let reads := s0.hods.flatMap (fun x => (x.2.qs.filter (fun q => q.2.cmds.head?.any (fun k => k.ctx == c && k.asked.isSome))).map
    (fun q => recKey x.1 q.1))
  let s : State := { s0 with flights := s0.flights.filter (fun f => !reads.contains f.key) }
  let s1 := s.hods.foldl (fun st x => st.updHod x.1 (fun h => { h with
    qs := (h.qs.map (fun q => (q.1, { q.2 with
      cmds := if q.1 = 17 then q.2.cmds.filter (fun k => k.ctx != c)
        else q.2.cmds.map (fun k => if k.ctx = c then { k with early := 18, image := some 0, ready := 0, asked := none } else k) }))).filter (fun q => q.2 != {}) })) s
  let s2 := { s1 with autoFrags := s1.autoFrags.filter (fun a => a.ctx != c), stageWait := s1.stageWait.filter (fun r => r.2.1 != c) }
  (s2.fabs.map (·.1)).foldl (fun (st : State) core =>
    let s3 := { st with fabs := supd {} st.fabs core (fun (f : FabQueue) => { f with
      cmds := f.cmds.map (fun (k : FabCmd) => if k.ctx = c && !k.started then { k with early := 17, image := some 0 } else k) }) }
    match (s3.fabQ core).cmds with
    | k :: _ => if k.ctx = c && k.started then s3.fabDone core 17 else s3
    | [] => s3) s2

/-- Whether anything of a context still runs: teams that hold their slots, commands in queues and slots. -/
def State.ctxBusy (s : State) (c : Nat) : Bool :=
  s.teams.any (fun x => match x.2 with
    | some t => t.ctx == c
    | none => false)
  || s.hods.any (fun x => x.2.qs.any (fun q => q.2.cmds.any (fun k => k.ctx == c))
    || x.2.slots.any (fun t => match t.2 with
      | some f => f.cmd.ctx == c
      | none => false))
  || s.fabs.any (fun x => x.2.cmds.any (fun k => k.ctx == c))

/-- Steps 3 and 4 of 18 R464. -/
def State.clearCtx (s : State) (c : Nat) : State :=
  let cx := s.ctx c
  let gone (w : Waiter) : Bool := match w with
    | .path k _ _ => k == c
    | .node k _ => (sget none s.walkers k).isNone
  let drop (m : Sparse (List CairnEntry)) : Sparse (List CairnEntry) :=
    (m.map (fun e => (e.1, e.2.filter (fun x => !gone x.waiter)))).filter (fun e => !e.2.isEmpty)
  let m := { s.mem with cairn := drop s.mem.cairn, wakes := drop s.mem.wakes }
  let s1 := (s.setMem (m.freeBlocks cx.guards)).setCtx c {}
  { s1 with fab := { s1.fab with exports := s1.fab.exports.filter (fun e => bitsN e.2 103 99 != c) } }

/-- 18 R464 CTX_DESTROY: it stays in progress until the context's last slot and command are free. -/
def execCtxDestroy (s : State) : Host.Outcome State Fault Refusal :=
  execCommand 0x02 459 s fun w s1 =>
    let c := bitsN w 463 459
    let named := s1.pipes.any (fun p => p.2.en && p.2.ctx == c) || s1.queues.any (fun q => q.2.en && q.2.ctx == c)
    if !(s1.ctx c).live || named then cmdFail 2 c s1
    else
      let s2 := (s1.endWork c).dropCommands c
      let s3 := s2.setCtx c { s2.ctx c with dir := [], pending := [], fqhead := (s2.ctx c).fqtail, hdead := true }
      if s3.ctxBusy c then .busy s3 else cmdOk c (s3.clearCtx c)

/-! ### Segment tables -/

/-- Malformed segment entries (01 R22), but for overlaps within the table. -/
def State.segBad (s : State) (e : Nat) : Bool :=
  let k := segKind e
  if k = 0 then e != 0
  else
    let n := segN e
    let size := segSize e
    let unit := if k = 3 then 65536 else 256
    decide (5 < k) || (if k = 3 then bitsN e 53 32 != 0 else bitsN e 40 0 != 0 || (k != 4 && bitsN e 44 41 != 0))
      || (bitN e 123 && bitN e 121) || (k == 4 && (bitN e 121 || bitN e 122 || bitN e 123))
      || ((k == 1 || k == 4) && n != 1) || (k == 2 && n == 1) || size / unit % n != 0 || decide (192 < segSlice e + n)
      || decide (2 ^ 24 < segOff e + size / n) || decide (2 ^ 32 < segBase e + size)
      || (k == 3 && decide (16384 < segRbase e + size / 65536)) || (k == 5 && (segOff e % 65536 != 0 || size / n % 65536 != 0))
      || (k != 5 && (List.range n).any (fun i => (List.range (segBlocks e).2).any (fun j =>
          s.mem.protAt (((segSlice e + i) * 256 + (segBlocks e).1 + j) * 65536))))

/-- The index of the first bad entry of a table of 64 (01 R22, R23). DESIGN CHOICE (log 97): an entry of a reserved `KIND` counts
in the overlap test, so a good entry that it overlaps may be the first bad one. -/
def State.firstBad (s : State) (es : List Nat) : Option Nat :=
  (findAt (fun x => s.segBad x.1 || (segKind x.1 != 0 && (es.zip (List.range 64)).any (fun y =>
    y.2 != x.2 && segKind y.1 != 0 && decide (segBase x.1 < segBase y.1 + segSize y.1 ∧ segBase y.1 < segBase x.1 + segSize x.1))))
    (es.zip (List.range 64))).map (·.1)

/-- The commands of a context that a Hod has accepted and not finished: core, queue, sequence. -/
def State.hodCommands (s : State) (c : Nat) : List (Nat × Nat × Nat) :=
  s.hods.flatMap (fun x =>
    x.2.qs.flatMap (fun q => (q.2.cmds.filter (fun k => k.ctx == c)).map (fun k => (x.1, q.1, k.seq)))
      ++ x.2.slots.filterMap (fun t => match t.2 with
        | some f => if f.cmd.ctx = c then some (x.1, f.q, f.cmd.seq) else none
        | none => none))

/-- Blocks that a table protects. -/
def protBlocks (es : List Nat) : List Nat :=
  (es.filter (fun e => segKind e == 5)).flatMap (fun e => (List.range (segN e)).flatMap (fun i =>
    (List.range (segBlocks e).2).map (fun j => (segSlice e + i) * 256 + (segBlocks e).1 + j)))

/-- The clk by which every memory access in flight for a context's warps has passed its bank slot and is written back. -/
def State.accessesTill (s : State) (c : Nat) : Nat :=
  let m := s.warps.foldl (fun a x => match x.2 with
    | some w => if w.ctx = c then w.inflight.foldl max a else a
    | none => a) s.clk
  s.flights.foldl (fun a f => match s.warp f.key with
    | some w => if w.ctx = c then f.accs.foldl (fun b y => max b (y.slot + 1)) a else a
    | none => a) m

/-- Whether no access made through the table before the commit in progress is left (01 R23, R29): those in flight at the switch have passed
their slots; texture instructions, ray traces and instructions between their two issues that issued before it, which keep the translation
of their issue, are complete; and so are the Ashlar operations that had started. -/
def State.oldAccessesDone (s : State) (cx : Nat) : Bool :=
  let c := s.ctx cx
  decide (c.commitTill ≤ s.clk) && s.warps.all (fun x => match x.2 with
    | some w => w.ctx != cx || s.jobsDone x.1 c.commitAt
    | none => true)
  && c.commitOps.all (fun o => (s.ash o.1).ops.all (fun p => p.id != o.2))

/-- The Ashlar operations of a context's teams that have started: Ashlar context and number. -/
def State.ashStarted (s : State) (c : Nat) : List (Nat × Nat) :=
  s.ashs.flatMap (fun a => match a.2.team.bind s.team with
    | some t => if t.ctx = c then (a.2.ops.filter (·.started)).map (fun o => (a.1, o.id)) else []
    | none => [])

/-- 01 R23 SEG_COMMIT: the image is checked, the new blocks are marked, and every core switches between two instructions; the
command stays in progress until SEG_COMMIT_DONE. -/
def execSegCommit (s : State) : Host.Outcome State Fault Refusal :=
  execCommand 0x03 433 s fun w s1 =>
    let c := bitsN w 463 459
    let cx := s1.ctx c
    if cx.commit.isSome then .busy s1
    else if !cx.live then cmdFail 2 c s1
    else match s1.physRead (bitsN w 458 433 * 64) 1024 with
      | (none, s2) => cmdFail 1 c s2
      | (some img, s2) =>
        let es := (List.range 64).map (fun i => bitsN img (128 * i + 127) (128 * i))
        match s2.firstBad es with
        | some i => .ends 1 i c s2
        | none =>
          let new := protBlocks es
          let old := (protBlocks (cx.seg.map (·.2))).filter (fun b => !new.contains b)
          let tab := (es.zip (List.range 64)).foldl (fun (m : Sparse Nat) x => sput 0 m x.2 x.1) []
          let m := { s2.mem with prot := new.foldl (fun (p : Sparse Bool) b => sput false p b true) s2.mem.prot }
          let cx1 := { cx with seg := tab, segOld := cx.seg, commitOps := s2.ashStarted c, commit := some (s2.hodCommands c, old), commitReleased := old.isEmpty
                               commitAt := s2.clk + 1, commitTill := s2.accessesTill c }
          .busy ((s2.setMem m).setCtx c cx1)

/-- 01 R29: once every access made through the old table has passed its bank slot, the blocks no longer protected are zeroed and
unmarked; one that an area or a protected segment of a context still marks stays as it is. -/
def execProtectRelease (cx : Nat) (s : State) : Host.Outcome State Fault Refusal :=
  .next <|
    let c := s.ctx cx
    match c.commit with
    | none => s
    | some (cmds, blocks) =>
      if c.commitReleased || !s.oldAccessesDone cx || cmds.any (fun k => (s.hodCommands cx).contains k) then s
      else
        let stays (b : Nat) : Bool := s.ctxs.any (fun x => x.2.guards b)
        (s.setMem (s.mem.freeBlocks (fun b => blocks.contains b && !stays b))).setCtx cx { c with commitReleased := true }

/-- 01 R23 step 3: the commit reports completion. -/
def execSegCommitDone (cx : Nat) (s : State) : Host.Outcome State Fault Refusal :=
  .next <|
    let c := s.ctx cx
    match c.commit with
    | none => s
    | some (cmds, _) =>
      if !c.commitReleased || !s.oldAccessesDone cx || cmds.any (fun k => (s.hodCommands cx).contains k) then s
      else (s.setCtx cx { c with commit := none, commitReleased := false }).cmdDone 0x03 0 0 cx

/-- A transfer at a shootdown (01 R33): the shootdown waits for one that has translated a page or has begun a walk, of which nothing is kept. -/
def Xfer.outdated (f : Xfer) : Xfer :=
  { f with xlOld := f.xl || f.walk.any (fun w => w.level != 0)
           walk := f.walk.map (fun w => { w with old := w.level != 0 }) }

/-- 01 R33 SHOOTDOWN: translations held for the context go; the command stays in progress until SHOOTDOWN_DONE. -/
def execShootdown (s : State) : Host.Outcome State Fault Refusal :=
  execCommand 0x04 395 s fun w s1 =>
    let c := bitsN w 463 459
    let first := bitsN w 458 427
    let n := bitsN w 426 395
    let cx := s1.ctx c
    if cx.shoot then .busy s1
    else if !cx.live then cmdFail 2 c s1
    else
      let hit (p : Nat) : Bool := n == 0 || decide (first ≤ p ∧ p < first + n)
      let s2 := s1.hods.foldl (fun st x => st.updHod x.1 (fun h => { h with
        tc := h.tc.filter (fun e => !(e.ctx == c && hit e.page))
        slots := h.slots.map (fun t => (t.1, t.2.map (fun f => if f.cmd.ctx = c then f.outdated else f))) })) s1
      let s3 := { s2 with dirCaches := (s2.dirCaches.map (fun (d : Nat × List DirCache) => (d.1, d.2.filter (fun (e : DirCache) => e.ctx != c)))).filter (fun d => !d.2.isEmpty) }
      .busy (s3.setCtx c { cx with shoot := true })

/-- 01 R33 step 2: no transfer of the context that translated a page before the shootdown is left. -/
def execShootdownDone (cx : Nat) (s : State) : Host.Outcome State Fault Refusal :=
  .next <|
    let c := s.ctx cx
    let old := s.hods.any (fun x => x.2.slots.any (fun t => match t.2 with
      | some f => f.cmd.ctx == cx && f.xlOld
      | none => false))
    if !c.shoot || old then s else (s.setCtx cx { c with shoot := false }).cmdDone 0x04 0 0 cx

/-! ### Windows, exports, routes, Hod commands -/

/-- 01 R34 HWIN_SET. -/
def execHwinSet (s : State) : Host.Outcome State Fault Refusal :=
  execCommand 0x05 427 s fun w s1 =>
    let c := bitsN w 463 459
    if !(s1.ctx c).live then cmdFail 2 c s1
    else match s1.physRead (bitsN w 454 427 * 16) 16 with
      | (none, s2) => cmdFail 1 c s2
      | (some e, s2) =>
        if hwinBad e then cmdFail 1 c s2
        else cmdOk c (s2.setCtx c { s2.ctx c with hwin := sput 0 (s2.ctx c).hwin (bitsN w 458 455) e })

/-- Malformed export entries (01 R35). -/
def State.exportBad (s : State) (e : Nat) : Bool :=
  let lo := bitsN e 15 0 * 65536
  let n := (bitsN e 76 58 + 1) * 65536
  decide (2 < segKind e) || bitN e 123 || bitsN e 98 96 != 0 || bitsN e 57 32 != 0
    || (segKind e == 1 && (bitsN e 31 16 != 0 || (s.ctx (bitsN e 103 99)).seg.any (fun x =>
        segKind x.2 == 5 && decide (segBase x.2 < lo + n ∧ lo < segBase x.2 + segSize x.2))))

/-- 01 R35 EXPORT_SET. -/
def execExportSet (s : State) : Host.Outcome State Fault Refusal :=
  execCommand 0x06 430 s fun w s1 =>
    match s1.physRead (bitsN w 457 430 * 16) 16 with
    | (none, s2) => cmdFail 1 0 s2
    | (some e, s2) =>
      if s2.exportBad e then cmdFail 1 0 s2
      else cmdOk 0 { s2 with fab := { s2.fab with exports := sput 0 s2.fab.exports (bitsN w 463 458) e } }

/-- Whether a P-space transfer or a reduction is in flight (18 R472). -/
def State.fabricBusy (s : State) : Bool :=
  s.hods.any (fun x => x.2.slots.any (fun t => match t.2 with
    | some f => (let i := f.cmd.image.getD 0; spaceOf (recSrc i) == 4 || spaceOf (recDst i) == 4)
    | none => false)) || s.fabs.any (fun x => x.2.cmds.any (·.started))

/-- 18 R472 ROUTE_SET; reductions over a rebuilt route replay (11 R305). -/
def execRouteSet (s : State) : Host.Outcome State Fault Refusal :=
  execCommand 0x07 438 s fun w s1 =>
    match s1.physRead (bitsN w 463 438 * 64) 16448 with
    | (none, s2) => cmdFail 1 0 s2
    | (some img, s2) =>
      let id := bitsN img 12 0
      let es := (List.range 8192).map (fun d => (d, bitsN img (512 + 16 * d + 15) (512 + 16 * d)))
      if bitsN img 511 13 ≠ 0 ∨ es.any (fun e => decide (11 < bitsN e.2 14 11 ∨ 11 < bitsN e.2 10 7 ∨ bitsN e.2 5 0 ≠ 0)) = true then
        cmdFail 1 0 s2
      else if id ≠ s2.fab.devid ∧ s2.fabricBusy = true then cmdFail 2 0 s2
      else
        let routes := es.filter (fun e => e.2 != 0)
        let old := s2.fab.routes
        cmdOk 0 (({ s2 with fab := { s2.fab with devid := id, routes := routes } }).fabReplay (fun d => sget 0 old d != sget 0 routes d))

/-- 03 R77, 11 R292 HOD_PLACE: the command enters the driver queue of a core. -/
def execHodPlace (s : State) : Host.Outcome State Fault Refusal :=
  execCommand 0x08 425 s fun w s1 =>
    let core := bitsN w 463 456
    let c := bitsN w 429 425
    let pa := bitsN w 455 430 * 64
    if 191 < core ∨ s1.physOk pa 64 = false then cmdFail 1 c s1
    else if !(s1.ctx c).live || s1.hodFull core 16 then cmdFail 2 c s1
    else
      let r := s1.queueHod core 16 { op := 0, ctx := c, recAddr := pa, recPhys := true, ready := s1.clk, jpos := s1.ptr.cqhead }
      .ends 0 (hodTicket core 16 r.2) c r.1

/-! ### Faulted work -/

/-- 16 R426 RESUME: as FRESUME. -/
def execResume (s : State) : Host.Outcome State Fault Refusal :=
  execCommand 0x0d 426 s fun w s1 =>
    let c := bitsN w 463 459
    let r := s1.handleOp c (bitsN w 458 427) false (bitsN w 426 426)
    .ends 0 r.1 c r.2

/-- 16 R426 KILL: as FKILL. -/
def execKill (s : State) : Host.Outcome State Fault Refusal :=
  execCommand 0x0e 427 s fun w s1 =>
    let c := bitsN w 463 459
    let r := s1.handleOp c (bitsN w 458 427) true 0
    .ends 0 r.1 c r.2

/-- Teams placed or running on some core of a mask. -/
def State.teamsOn (s : State) (mask : Nat) : List (Nat × Team) :=
  s.teams.filterMap (fun x => match x.2 with
    | some t => if (t.status == .started || t.status == .placed) && (t.coresAt t.core).any (bitN mask) then some (x.1, t) else none
    | none => none)

/-- The saved team of a launch with an index, whatever its class. -/
def State.savedTeam (s : State) (launch tid : Nat) : Option Nat :=
  (s.teams.find? (fun x => match x.2 with
    | some t => t.status == .saved && t.launch % 2 ^ 32 == launch && t.teamId == tid
    | none => false)).map (·.1)

/-- Begins a partition swap (16 R446). -/
def State.swapBegin (s : State) (mask list : Nat) : CmdEnd :=
  let whole := (List.range 192).all (fun c => bitN mask c == bitN mask (partner c))
  match s.physRead list 4 with
  | (none, s1) => cmdFail 1 0 s1
  | (some n, s1) =>
    match (if decide (2 ^ 28 < n) || !whole then (none, s1) else s1.physRead list (4 + 8 * n)) with
    | (none, s2) => cmdFail 1 0 s2
    | (some img, s2) =>
      let named := (List.range n).map (fun i => s2.savedTeam (bitsN img (64 * i + 63) (64 * i + 32)) (bitsN img (64 * i + 95) (64 * i + 64)))
      if named.any (·.isNone) then cmdFail 1 0 s2
      else
        let on := s2.teamsOn mask
        let ks := named.filterMap (fun x => x)
        if on.any (fun x => !(s2.ctx x.2.ctx).sv || (x.2.ash && !(s2.ctx x.2.ctx).av)) then cmdFail 2 0 s2
        else
          let s3 := on.foldl (fun st x => st.setTeam x.1 (some { x.2 with preempt := 1 })) s2
          let s4 := ks.foldl (fun st k => match st.team k with
            | some t => st.setTeam k (some { t with swapTo := some mask })
            | none => st) s3
          .busy { s4 with swap := some (mask, ks) }

/-- Whether a swap in progress is over: nothing is left to save on its cores, and its teams run there. -/
def State.swapOver (s : State) (mask : Nat) (ks : List Nat) : Bool :=
  (s.teamsOn mask).all (fun x => x.2.preempt != 1) && ks.all (fun k => match s.team k with
    | some t => t.status == .started || t.status == .ended
    | none => true)

/-- 16 R446 PSWAP: it stays in progress until every team on the cores is saved and every named team is restored. -/
def execPswap (s : State) : Host.Outcome State Fault Refusal :=
  match s.swap with
  | none =>
    execCommand 0x0f 246 s fun w s1 =>
      s1.swapBegin (bitsN w 463 272) (bitsN w 271 246 * 64)
  | some (mask, ks) => .next (if s.swapOver mask ks then ({ s with swap := none } : State).cmdDone 0x0f 0 0 0 else s)

/-! ### Platform commands -/

/-- 17 R454 MARGIN: a search of a rail starts at its first step; the command ends with it. -/
def execMargin (s : State) : Host.Outcome State Fault Refusal :=
  execCommand 0x10 463 s fun w s1 =>
    let rail := bitsN w 463 463
    let start : State := { s1 with margins := sput none s1.margins rail (some { rail := rail, mv := 5, since := s1.clk, pos := s1.ptr.cqhead }) }
    match sget none s1.margins rail with
    | none => .busy start
    | some m =>
      if m.pos ≠ s1.ptr.cqhead then .busy start
      else if m.isOver then .ends 0 m.safe 0 { s1 with margins := sput none s1.margins rail (some { m with pos := 2 ^ 32 }) }
      else .busy s1

/-- A LIFECYCLE token of 18 R467: accepted, with its counter. -/
def State.tokenOk (s : State) (x target : Nat) : Bool :=
  bitsN x 31 0 == 0x5a396474 && bitsN x 63 32 == target && bitsN x 127 64 == Config.serial.toNat && bitsN x 159 128 == s.life.fwver
    && decide (s.life.token < bitsN x 191 160) && bitsN x 511 192 == 0
    && verifies (bytesOf s.life.key 133) (bytesOf (x / 2 ^ 512) 132) (bytesOf x 64)

/-- 18 R466 LIFECYCLE. -/
def execLifecycle (s : State) : Host.Outcome State Fault Refusal :=
  execCommand 0x11 435 s fun w s1 =>
    let to_ := bitsN w 463 461
    let pa := bitsN w 460 435 * 64
    let go (st : State) (tok : Nat) : CmdEnd :=
      let t := (st.cmdDone 0x11 0 0 0).wiped to_
      .busy { t with life := { t.life with token := if to_ = 0 then 0 else tok } }
    if (to_ = 0 ∨ (to_ = 2 ∧ s1.life.lcs = 3)) then go s1 s1.life.token
    else if to_ = 3 ∧ s1.life.lcs = 2 then
      match (if pa / 2 ^ 24 = (pa + 195) / 2 ^ 24 then s1.physRead pa 196 else (none, s1)) with
      | (none, s2) => cmdFail 1 0 s2
      | (some x, s2) => if s2.tokenOk x 3 then go s2 (bitsN x 191 160) else cmdFail 5 0 s2
    else cmdFail 2 0 s1

/-- 18 R462, 14 R390 DP_TRAIN: the link trains at the setting asked for or at one that the standard falls back to, or not at
all; which is the sink's (log 10). -/
def execDpTrain (s : State) : Host.Outcome State Fault Refusal :=
  execCommand 0x12 457 s fun w s1 =>
    let po := bitsN w 463 462
    let lanes := bitsN w 461 460
    let rate := bitsN w 459 457
    if 2 < lanes ∨ 4 < rate then cmdFail 1 0 s1
    else
      let d := s1.draw 2
      let r := d.2.draw (rate + 1)
      let l := r.2.draw (lanes + 1)
      let old : DpOut := sget {} s1.dps po
      if d.1 = 0 then .ends 4 0 0 { l.2 with dps := sput {} s1.dps po { old with trained := false } }
      else .ends 0 (r.1 + l.1 * 8) 0 { l.2 with dps := sput {} s1.dps po { old with trained := true, rate := r.1, lanes := l.1 } }

/-- 18 R462, 14 R390 AUX_XFER: bytes done and reply are the sink's (log 10). -/
def execAuxXfer (s : State) : Host.Outcome State Fault Refusal :=
  execCommand 0x13 308 s fun w s1 =>
    let d := s1.draw (bitsN w 439 436 + 2)
    let r := d.2.draw 4
    .ends 0 (d.1 + r.1 * 256) 0 r.2

/-- 18 R468 ATTEST: the nonce, the digest of the signed bytes, `LCS`, the serial number and a signature, whose secret number is a free value
(log 9). -/
def execAttest (s : State) : Host.Outcome State Fault Refusal :=
  execCommand 0x14 438 s fun w s1 =>
    let pa := bitsN w 463 438 * 64
    match (if s1.physOk pa 340 then s1.physRead pa 64 else (none, s1)) with
    | (none, s2) => cmdFail 1 0 s2
    | (some nonce, s2) =>
      let body := nonce + s2.life.digest * 256 ^ 64 + s2.life.lcs * 256 ^ 128 + Config.serial.toNat * 256 ^ 136
      let k := s2.draw (n521 - 1)
      cmdOk 0 (k.2.devWrite (pa + 64) 276 (body + leOf (signature identityKey (k.1 + 1) (bytesOf body 144)) * 256 ^ 144))

end Sys2Proof.Machine
end

