-- ==== Sys2Proof/Machine/StripRec.lean ====
section
/-! DEFINITION. Strip pipelines and strip rings: their records, the checks of an enabling, slots and their status records, and
the commands that install, enable and disable (14 R366-R369, R379-R381, R384, R388; 15 R406, R408; 18 R462). -/
namespace Sys2Proof.Machine

/-! ### The pipeline record (14 R367) -/

/-- Active pixels per line. -/
def pHact (x : Nat) : Nat := bitsN x 1023 1010 + 1
/-- Active lines. -/
def pVact (x : Nat) : Nat := bitsN x 1009 996 + 1
/-- Lines per frame. -/
def pVtot (x : Nat) : Nat := bitsN x 995 982 + 1
/-- `VSTART`. -/
def pVstart (x : Nat) : Nat := bitsN x 981 970
/-- `LNS`. -/
def pLns (x : Nat) : Nat := bitsN x 969 938
/-- Output strip height. -/
def pH (x : Nat) : Nat := 16 * 2 ^ bitsN x 859 858
/-- `UPS`. -/
def pUps (x : Nat) : Bool := bitN x 857
/-- `HALO`. -/
def pHalo (x : Nat) : Nat := bitsN x 856 853
/-- `LEAD`. -/
def pLead (x : Nat) : Nat := bitsN x 852 837
/-- `WIN`. -/
def pWin (x : Nat) : Nat := bitsN x 836 817
/-- Views. -/
def pViews (x : Nat) : Nat := bitsN x 816 810 + 1
/-- The valid targets: ring, blend, target. Target 0 is highest. -/
def pTgts (x : Nat) : List (Nat × Nat × Nat) :=
  (List.range 4).filterMap (fun k =>
    let f := bitsN x (809 - 7 * k) (803 - 7 * k)
    if bitN f 6 then some (f % 16, bitsN f 5 4, k) else none)
/-- `ORING`. -/
def pOring (x : Nat) : Nat := bitsN x 781 778
/-- `REPEAT`. -/
def pRepeat (x : Nat) : Nat := bitsN x 777 776
/-- A DisplayPort output is attached. -/
def pDpo (x : Nat) : Bool := bitN x 775
/-- An AV1 encoder is attached. -/
def pEnc (x : Nat) : Bool := bitN x 772
/-- The DisplayPort output and the AV1 encoder that a record names. -/
def pDpoNo (x : Nat) : Nat := bitsN x 774 773
/-- The AV1 encoder named. -/
def pEncNo (x : Nat) : Nat := bitsN x 771 771
/-- `DEPTH`. -/
def pDepth (x : Nat) : Bool := bitN x 770
/-- `VIEWT`. -/
def pViewt (x : Nat) : Nat := bitsN x 767 736
/-- Bytes of one half of the bin area (14 R373). -/
def pBinHalf (x : Nat) : Nat := bitsN x 703 680 * 128
/-- `HIST`. -/
def pHist (x : Nat) : Nat := bitsN x 679 648
/-- `CHAIN`. -/
def pChain (x : Nat) : Nat := bitsN x 647 616
/-- `UFILT`. -/
def pUfilt (x : Nat) : Nat := bitsN x 615 584
/-- `EBUF`. -/
def pEbuf (x : Nat) : Nat := bitsN x 583 552
/-- Bytes of the encoder's byte ring (14 R391). -/
def pEring (x : Nat) : Nat := bitsN x 551 536 * 65536 - 256
/-- `EREF`. -/
def pEref (x : Nat) : Nat := bitsN x 535 504
/-- `KINT`. -/
def pKint (x : Nat) : Nat := bitsN x 495 488

/-- Output strips of a frame (14 R369). -/
def pStrips (x : Nat) : Nat := (pVact x + pH x - 1) / pH x
/-- Chains of a frame. -/
def pChains (x : Nat) : Nat := if pUps x then pStrips x + 1 else pStrips x
/-- Width of the image being rendered. -/
def pWid (x : Nat) : Nat := if pUps x then pHact x / 2 else pHact x
/-- Height of the image being rendered. -/
def pHei (x : Nat) : Nat := if pUps x then pVact x / 2 else pVact x
/-- Lines of a strip of the image being rendered. -/
def pRows (x : Nat) : Nat := if pUps x then pH x / 2 else pH x

/-- The nominal start of frame 0 (14 R368), in units of 2^-16 ns. -/
def pEpoch (x : Nat) : Nat := (bitsN x 937 890 * 10 ^ 9 + bitsN x 889 860) * 65536
/-- The nominal length of a frame, in units of 2^-16 ns. -/
def pPeriod (x : Nat) : Nat := pVtot x * pLns x

/-- Limits and reserved fields that a record by itself can break (14 R366, R367, R391); an upscaled image has an even width and height
(R367 "even when `UPS` = 1"; log 103). -/
def pipeRecBad (x : Nat) : Bool :=
  decide (8192 < pHact x ∨ 8192 < pVact x ∨ pVtot x < pVact x + pVstart x ∨ 8 < pHalo x ∨ pH x < 2 * pHalo x
      ∨ pLead x < 2048 ∨ pWin x = 0)
    || (pUps x && decide (pHact x % 2 = 1 ∨ pVact x % 2 = 1))
    || (pTgts x).any (fun t => t.2.1 == 3) || pRepeat x == 3 || bitsN x 769 768 != 0 || bitsN x 479 0 != 0
    || pViewt x % 64 != 0 || bitsN x 735 704 % 256 != 0 || bitsN x 703 680 % 2 != 0 || pHist x % 64 != 0
    || pUfilt x % 64 != 0 || pEbuf x % 256 != 0 || pEref x % 256 != 0
    || bitsN x 551 536 == 0 || (pEnc x && decide (pH x < 64 ∨ 4 * pVtot x * pLns x < pHact x * pVact x * 65536))

/-! ### Strip rings (14 R379, R380) -/

/-- Bytes of a pixel. -/
def fmtBytes (f : Nat) : Nat := if f < 2 then 4 else if f = 2 then 8 else 16
/-- Physical address of a ring. -/
def rBase (d : Nat) : Nat := bitsN d 127 120 * 2 ^ 24 + bitsN d 119 112 * 65536
/-- Slots. -/
def rSlots (d : Nat) : Nat := bitsN d 111 108 + 1
/-- An output ring. -/
def rOut (d : Nat) : Bool := bitN d 107
/-- `FMT`. -/
def rFmt (d : Nat) : Nat := bitsN d 106 105
/-- `DP`. -/
def rDp (d : Nat) : Bool := bitN d 104
/-- Pixels per line. -/
def rWid (d : Nat) : Nat := bitsN d 103 90 + 1
/-- Lines per slot. -/
def rLines (d : Nat) : Nat := bitsN d 89 83 + 1
/-- Layers. -/
def rLayers (d : Nat) : Nat := bitsN d 81 75 + 1
/-- `ROWB`. -/
def rRowB (d : Nat) : Nat := 32 * ((rWid d * fmtBytes (rFmt d) + 31) / 32)
/-- `LAYB`. -/
def rLayB (d : Nat) : Nat := ((rLines d * rRowB d + (if rDp d then rLines d * 4 * rWid d else 0)) + 255) / 256 * 256
/-- Physical address of a layer of a slot. -/
def rLayer (d i v : Nat) : Nat := rBase d + 256 + i * rLayers d * rLayB d + v * rLayB d
/-- Physical address of a pixel. -/
def rPixel (d i v x y : Nat) : Nat := rLayer d i v + y * rRowB d + x * fmtBytes (rFmt d)
/-- Physical address of a pixel's depth. -/
def rDepth (d i v x y : Nat) : Nat := rLayer d i v + rLines d * rRowB d + 4 * (y * rWid d + x)

/-- A descriptor that no pipeline can use. -/
def descBad (d : Nat) : Bool :=
  !bitN d 70 || bitN d 82 || bitsN d 74 71 != 0 || bitsN d 69 0 != 0 || decide (191 < bitsN d 127 120) || rSlots d == 1
    || decide (2 ^ 24 < rBase d % 2 ^ 24 + 256 + rSlots d * rLayers d * rLayB d)

/-- A ring as a target of a pipeline (14 R380): a render ring of the image rendered, or an output ring of the output. -/
def targetOk (x d : Nat) : Bool :=
  !descBad d && decide (pViews x ≤ rLayers d) && rLines d == pRows x && rWid d * (if pUps x then 2 else 1) == pHact x
    && (if rOut d then !pUps x && decide (rFmt d < 2) && rLayers d == 1 else true)

/-- A ring as a pipeline's output ring (14 R380). -/
def outputOk (x d : Nat) : Bool :=
  !descBad d && rOut d && decide (rFmt d < 2) && rLayers d == 1 && rLines d == pH x && rWid d == pHact x

/-- Whether a pipeline uses its output ring: a consumer is attached, or its upscaler writes it. -/
def pOutUsed (x : Nat) : Bool := pDpo x || pEnc x || pUps x

/-- A ring's descriptor. -/
def State.ringDesc (s : State) (r : Nat) : Nat := sget 0 s.rings r

/-- Whether the rings of a pipeline record break R380. -/
def State.pipeRingsBad (s : State) (x : Nat) : Bool :=
  (pTgts x).any (fun t => !targetOk x (s.ringDesc t.1)) || (pOutUsed x && !outputOk x (s.ringDesc (pOring x)))
    || (pUps x && (match (pTgts x).head? with
      | some t => t.2.2 != 0 || decide (rSlots (s.ringDesc t.1) < 3)
      | none => true))

/-- The rings that a pipeline record names. -/
def pRings (x : Nat) : List Nat := (pTgts x).map (·.1) ++ (if pOutUsed x then [pOring x] else [])

/-- Whether an enabled pipeline names a ring. -/
def State.ringNamed (s : State) (r : Nat) : Bool := s.pipes.any (fun p => p.2.en && (pRings p.2.image).contains r)

/-! ### Slots (14 R380, R381) -/

/-- Key of a slot: the slot of strip o of frame n in a ring. -/
def State.slotKey (s : State) (x r n o : Nat) : Nat := r * 16 + (n * pStrips x + o) % rSlots (s.ringDesc r)

/-- A slot. -/
def State.slot (s : State) (k : Nat) : RingSlot := sget {} s.slots k

/-- The status record of a slot. -/
def RingSlot.image (t : RingSlot) : Nat :=
  fieldN t.nanc 96 32 + fieldN t.ovfc 64 32 + fieldN t.frame 32 32 + fieldN t.strip 20 12 + fieldN t.level 17 3 + fieldN t.st 0 3

/-- The edge stop of a pipeline's fixed-function units (02 R57, R63). DESIGN CHOICE (log 106): the spec names none for them; pipelines 0 and 1 take that
of display and encoder 0, the others that of encoder 1. -/
def pipeEdge (pp : Nat) : Nat := 18 + pp / 2 % 2
/-- The edge stop of the display serialiser that a record names. -/
def pDpEdge (x : Nat) : Nat := 18 + pDpoNo x / 2
/-- The edge stop of its encoder. -/
def pEncEdge (x : Nat) : Nat := 18 + pEncNo x

/-- The edge stop by which a slot's status record is written: that of the pipeline that writes the slot. -/
def State.slotEdge (s : State) (k : Nat) (t : RingSlot) : Nat :=
  match t.owner, (s.slot k).owner with
  | some o, _ => pipeEdge o.1
  | none, some o => pipeEdge o.1
  | none, none => pipeEdge 0

/-- Replaces a slot and writes its status record, a record of the device's own (02 R44; 14 R381). -/
def State.putSlot (s : State) (k : Nat) (t : RingSlot) : State :=
  ({ s with slots := sput {} s.slots k t } : State).plainSpan (s.slotEdge k t) deviceAgent
    (rBase (s.ringDesc (k / 16)) + 16 * (k % 16)) 16 t.image 0

/-- Frees a slot. -/
def State.freeSlot (s : State) (k : Nat) : State := s.putSlot k { s.slot k with st := 0, owner := none }

/-- The agent of the fixed-function work of one node of a strip chain (04 R94). -/
def chainAgent (pp n c node : Nat) : Nat := engineAgent ((2 ^ 61 + ((pp * 2 ^ 32 + n % 2 ^ 32) * 2 ^ 13 + c) * 8 + node) * 2)

/-- A slot goes to WRITING for a node of a chain (14 R381): its colour is cleared to 0 and its depth to 1.0. -/
def State.beginSlot (s : State) (k p n c node o : Nat) : State :=
  let d := s.ringDesc (k / 16)
  let i := k % 16
  let g := chainAgent p n c node
  let one := (List.range (rLines d * rWid d)).foldl (fun a j => a + 0x3f800000 * 2 ^ (32 * j)) 0
  let s1 := (List.range (rLayers d)).foldl (fun (st : State) v =>
    let s2 := st.plainSpan (pipeEdge p) g (rLayer d i v) (rLines d * rRowB d) 0 0
    if rDp d then s2.plainSpan (pipeEdge p) g (rLayer d i v + rLines d * rRowB d) (4 * rLines d * rWid d) one 0 else s2) s
  s1.putSlot k { frame := n, strip := o, st := 1, owner := some (p, n, c) }

/-- The strip that chain c renders (14 R369): none for the last chain of an upscaled frame. -/
def chainRenders (x c : Nat) : Option Nat := if c < pStrips x then some c else none
/-- The strip that chain c upscales. -/
def chainUpscales (x c : Nat) : Option Nat := if pUps x ∧ 1 ≤ c then some (c - 1) else none

/-- The slots that a node of a chain writes, with their strips (14 R384). -/
def State.nodeSlots (s : State) (x node n c : Nat) : List (Nat × Nat) :=
  if nKind node ≠ 1 then []
  else if nSkind node = 1 ∨ nSkind node = 2 then
    match chainRenders x c with
    | some o => ((pTgts x).map (fun t => (s.slotKey x t.1 n o, o))).eraseDups
    | none => []
  else if nSkind node = 3 then
    match chainUpscales x c with
    | some o => [(s.slotKey x (pOring x) n o, o)]
    | none => []
  else []

/-! ### The chain template (14 R384) -/

/-- The template's nodes in order, following `SUCC0` from a node, after those in `got`: none where it is no linear graph of at most eight. -/
def templateFrom (ctx addr : Nat) : Nat → Nat → List Nat → State → Option (List Nat) × State
  | 0, _, _, s => (none, s)
  | fuel + 1, i, got, s =>
    match s.readRec ctx (addr + 64 * i) with
    | (none, s1) => (none, s1)
    | (some x, s1) =>
      if gnodeBad x 4095 false || !(nKind x == 1 || nKind x == 2 || nKind x == 6 || nKind x == 7) || bitN x 474
          || (nKind x == 1 && bitsN x 355 308 == 0) then (none, s1)
      else if bitN x 487 then templateFrom ctx addr fuel (nSucc0 x) (got ++ [x]) s1
      else (some (got ++ [x]), s1)

/-- `BUDGET` of a node (15 R410). -/
def nBudget (x : Nat) : Nat := bitsN x 473 442
/-- `RSV` of a KERNEL node. -/
def nRsv (x : Nat) : Nat := if nKind x = 1 then bitsN x 355 308 else 0

/-- The reads of a filter table, 32 bytes at a time, and whether any of it is poisoned (14 R383; 02 R42). -/
def State.filterReads (s : State) (edge x ctx : Nat) : Bool × State :=
  (List.range 9).foldl (fun (a : Bool × State) i =>
    match a.2.ctxPa ctx (pUfilt x + 32 * i) needR with
    | none => a
    | some pa => let r := a.2.stopRead edge pa (if i < 8 then 32 else 16); (a.1 || r.2.1 != 0, r.2.2.2)) (false, s)

/-- Whether a record's filter table can be read and every coefficient of it beyond `HALO` is zero (14 R383). -/
def State.filterOk (s : State) (x ctx : Nat) : Bool :=
  [0, 1].all (fun a => [0, 1].all (fun ph => (List.range 17).all (fun j =>
    match s.ctxPa ctx (pUfilt x + 136 * a + 68 * ph + 4 * j) needR with
    | none => false
    | some pa => decide (8 ≤ j + pHalo x ∧ j ≤ 8 + pHalo x) || memRead s.mem.bytes pa 4 % 2 ^ 31 == 0)))

/-- ⌈17 × n / 16⌉ (14 R386, 15 R406). -/
def grown (n : Nat) : Nat := (17 * n + 15) / 16

/-! ### The history area (14 R388) -/

/-- Costs of the nodes of chains c. -/
def Pipe.costs (p : Pipe) (c : Nat) : List Nat := sget [] p.hist c

/-- Writes the history entry of chains c. -/
def State.putHist (s : State) (pp c lev : Nat) (late : Bool) : State :=
  let p := s.pipe pp
  let cs := p.costs c
  let img := (cs.zip (List.range cs.length)).foldl (fun a x => a + fieldN x.1 (32 * x.2) 32) 0
  match s.ctxPa p.ctx (pHist p.image + 64 * c) needW with
  | none => s
  | some pa => s.devWrite pa 64 (img + fieldN lev 256 8 + (if late then 2 ^ 267 else 0))

/-! ### Commands (18 R462) -/

/-- 14 R379 RING_SET. -/
def execRingSet (s : State) : Host.Outcome State Fault Refusal :=
  execCommand 0x09 432 s fun w s1 =>
    let r := bitsN w 463 460
    if s1.ringNamed r then cmdFail 2 0 s1
    else match s1.physRead (bitsN w 459 432 * 16) 16 with
      | (none, s2) => cmdFail 1 0 s2
      | (some d, s2) => cmdOk 0 { s2 with rings := sput 0 s2.rings r d }

/-- 14 R366 PIPE_SET. -/
def execPipeSet (s : State) : Host.Outcome State Fault Refusal :=
  execCommand 0x0a 431 s fun w s1 =>
    let pp := bitsN w 463 462
    let c := bitsN w 435 431
    let p := s1.pipe pp
    if p.en || !(s1.ctx c).live then cmdFail 2 c s1
    else match s1.physRead (bitsN w 461 436 * 64) 128 with
      | (none, s2) => cmdFail 1 c s2
      | (some x, s2) => cmdOk c (s2.setPipe pp { p with image := x, ctx := c, set := true })

/-- The first frame whose nominal start is not before the present (14 R368); none where there is none. -/
def firstFrame (x : Nat) (t : Timebase) : Option Nat :=
  let now := t.now.toNat + (if t.acc = 0 then 0 else 1)
  if now ≤ pEpoch x then some 0
  else if pPeriod x = 0 then none
  else some ((now - pEpoch x + pPeriod x - 1) / pPeriod x)

/-- A pipeline at its enabling (14 R366, R368, R386, R388). `vt` 0 stands for a pipeline that has no first frame. -/
def State.enabledPipe (s : State) (pp : Nat) (nodes : List Nat) : State :=
  let p := s.pipe pp
  let x := p.image
  let n0 := firstFrame x s.tbase
  let k := n0.getD 0
  let wo := match s.ctxPa p.ctx (pEbuf x) needR with
    | some pa => let r := s.stopRead (pEncEdge x) pa 4; (r.1, r.2.2.2)
    | none => (0, s)
  let chains := List.range (pChains x)
  let new : Pipe := {
    image := x, ctx := p.ctx, set := true, en := true, nodes := nodes, rsv := nodes.foldl (fun m y => m ||| nRsv y) 0, n0 := k
    vt := if n0.isSome then pVtot x else 0, hist := chains.map (fun c => (c, nodes.map nBudget)), take := k * pStrips x
    line := k * pVact x, enc := ({ woff := wo.1, frame := k } : Encoder) }
  chains.foldl (fun st c => st.putHist pp c 0 false) (wo.2.setPipe pp new)

/-- 14 R366, R383, R384; 15 R406, R408: PIPE_ENABLE. DESIGN CHOICE (log 99): two enabled pipelines may name one AV1 encoder, which
then works for both in turn, or one DisplayPort output, which then sends the lines of both; nothing is refused for it. -/
def execPipeEnable (s : State) : Host.Outcome State Fault Refusal :=
  execCommand 0x0b 462 s fun w s1 =>
    let pp := bitsN w 463 462
    let p := s1.pipe pp
    let x := p.image
    if p.en then cmdFail 2 p.ctx s1
    else if !p.set || pipeRecBad x || s1.pipeRingsBad x then cmdFail 1 p.ctx s1
    else
    let s2 := if pUps x then (s1.filterReads (pipeEdge pp) x p.ctx).2 else s1
    if pUps x && !s2.filterOk x p.ctx then cmdFail 1 p.ctx s2
    else match templateFrom p.ctx (pChain x) 8 0 [] s2 with
      | (none, s1) => cmdFail 1 p.ctx s1
      | (some nodes, s1) =>
        let rsv := nodes.foldl (fun m y => m ||| nRsv y) 0
        if decide (pWin x < grown (nodes.foldl (fun a y => a + nBudget y) 0)) || (s1.rsvUnion &&& rsv) != 0
            || s1.teams.any (fun t => match t.2 with
              | some y => !y.strip && (y.status == .placed || y.status == .started) && !(s1.ctx y.ctx).sv && bitN rsv (clusterOf y.core)
              | none => false) then cmdFail 3 p.ctx s1
        else cmdOk p.ctx (s1.enabledPipe pp nodes)

/-! ### Work that a chain or a pipeline gives up -/

/-- Drops strip work that is not placed yet: teams of chains and the rest of launches (log entry on R385). -/
def State.dropStrip (s : State) (mine : StripItem → Bool) : State :=
  let gone := (s.chainQ ++ s.binQ).filter mine
  let s1 := { s with chainQ := s.chainQ.filter (fun x => !mine x), binQ := s.binQ.filter (fun x => !mine x) }
  gone.foldl (fun (st : State) x => match x with
    | .launch l => (match st.launch l with
      | some y => st.setLaunch l (some { y with nextTeam := lrTeams y.image, again := [], failed := true })
      | none => st)
    | .team t => (match st.team t with
      | some y => if y.status = .waiting then
          let st1 := st.updPipe y.pipe (fun p => { p with rob := p.rob.filter (fun e => e.team != t) })
          st1.setTeam t none else st
      | none => st)) s1

/-- Whether unplaced strip work belongs to a pipeline. -/
def State.workOfPipe (s : State) (pp : Nat) (x : StripItem) : Bool :=
  match x with
  | .launch l => (match s.launch l with
    | some y => y.plumb == some pp
    | none => true)
  | .team t => (match s.team t with
    | some y => y.pipe == pp && y.strip && y.status == .waiting
    | none => true)

/-- 14 R366, 15 R409: PIPE_DISABLE. Chains and BIN nodes are abandoned, their slots freed, and held launches fail. -/
def execPipeDisable (s : State) : Host.Outcome State Fault Refusal :=
  execCommand 0x0c 462 s fun w s1 =>
    let pp := bitsN w 463 462
    let p := s1.pipe pp
    if !p.en then cmdFail 2 p.ctx s1
    else
      let s2 := s1.dropStrip (s1.workOfPipe pp)
      let mine := (s2.slots.filter (fun x => match x.2.owner with
        | some o => o.1 == pp
        | none => false)).map (·.1)
      let s3 := mine.foldl (fun (st : State) k => st.freeSlot k) s2
      let fes := (p.bins.filter (fun b => b.st == .running)).flatMap (·.fes)
      let s4 := (p.held ++ fes).foldl (fun (st : State) l => st.finishLaunch l true) s3
      cmdOk p.ctx (s4.setPipe pp { image := p.image, ctx := p.ctx, set := true, ctr := p.ctr })

end Sys2Proof.Machine
end

