-- ==== Sys2Proof/Machine/Raster.lean ====
section
/-! DEFINITION. The arithmetic of the replicator, the raster, the ordered blend and the upscaler: view transform, culling,
clipping, window mapping, coverage, interpolation, blending, conversion and filtering, all exact until the one rounding that
the rule gives (09 R252; 14 R371, R372, R375-R377, R383). -/
namespace Sys2Proof.Machine

/-! ### Extended rationals -/

/-- Sum; infinities of opposite sign give NaN. -/
def XR.add : XR → XR → XR
  | .nan, _ => .nan
  | _, .nan => .nan
  | .inf a, .inf b => if a = b then .inf a else .nan
  | .inf a, _ => .inf a
  | _, .inf b => .inf b
  | .q a, .q b => .q (a.add b)
/-- Product; zero times an infinity gives NaN. -/
def XR.mul : XR → XR → XR
  | .nan, _ => .nan
  | _, .nan => .nan
  | .inf a, .inf b => .inf (a != b)
  | .inf a, .q b => if b.num = 0 then .nan else .inf (a != decide (b.num < 0))
  | .q a, .inf b => if a.num = 0 then .nan else .inf (b != decide (a.num < 0))
  | .q a, .q b => .q (a.mul b)
/-- Sum of a list. -/
def XR.sum (l : List XR) : XR := l.foldl XR.add (.q ⟨0, 1⟩)

/-! ### Vertices -/

/-- Whether an FP32 word is finite. -/
def f32Fin (x : Nat) : Bool := x / 2 ^ 23 % 256 != 255

/-- The view transform of a position (14 R371): one rounding per component. -/
def viewPos (m p : List Nat) : List Nat :=
  (List.range 4).map (fun i =>
    let sum := (List.range 4).foldl (fun (a : FV) j => a.plus ((fp32.decode (m.getD (4 * i + j) 0)).times (fp32.decode (p.getD j 0))))
      (FV.fin false 0 0)
    (roundFp fp32 plainMode 0 sum).1)

/-- A vertex as exact x, y, z, w. -/
def vertQ (v : List Nat) (i : Nat) : Q := Q.ofFV (fp32.decode (v.getD i 0))

/-- A primitive lies beyond one of the six planes (14 R372). -/
def beyond (vs : List (List Nat)) : Bool :=
  let x (v : List Nat) : Q := vertQ v 0
  let y (v : List Nat) : Q := vertQ v 1
  let z (v : List Nat) : Q := vertQ v 2
  let w (v : List Nat) : Q := vertQ v 3
  vs.all (fun v => (w v).lt (x v)) || vs.all (fun v => (x v).lt (w v).neg) || vs.all (fun v => (w v).lt (y v))
    || vs.all (fun v => (y v).lt (w v).neg) || vs.all (fun v => (w v).lt (z v)) || vs.all (fun v => (z v).lt ⟨0, 1⟩)

/-- The clip plane's w (14 R372). -/
def wMin : Q := ⟨1, 65536⟩

/-- A polygon's corners paired with the next. -/
def edges {α : Type} (l : List α) : List (α × α) := l.zip (l.drop 1 ++ l.take 1)

/-- A polygon of (x, y, w) clipped against w = 2^-16 (14 R372). -/
def clipW (vs : List (Q × Q × Q)) : List (Q × Q × Q) :=
  (edges vs).flatMap (fun e =>
    let a := e.1
    let b := e.2
    let ina := wMin.le a.2.2
    let t := (wMin.sub a.2.2).div (b.2.2.sub a.2.2)
    (if ina then [a] else [])
      ++ (if ina = wMin.le b.2.2 then []
        else [(a.1.add (t.mul (b.1.sub a.1)), a.2.1.add (t.mul (b.2.1.sub a.2.1)), wMin)]))

/-- Twice the area of a polygon, positive where it turns from +x towards +y. -/
def area2 (ps : List (Q × Q)) : Q :=
  (edges ps).foldl (fun (s : Q) e => s.add ((e.1.1.mul e.2.2).sub (e.2.1.mul e.1.2))) ⟨0, 1⟩

/-- A primitive in the window of an image of `wd` × `ht` (14 R372): its clipped polygon, turned to positive area. -/
def windowPoly (wd ht : Nat) (vs : List (List Nat)) : List (Q × Q) :=
  let c := clipW (vs.map (fun v => (vertQ v 0, vertQ v 1, vertQ v 3)))
  let ps := c.map (fun p => ((((p.1.div p.2.2).add ⟨1, 1⟩).mul ⟨wd, 2⟩), (((⟨1, 1⟩ : Q).sub (p.2.1.div p.2.2)).mul ⟨ht, 2⟩)))
  if (area2 ps).num < 0 then ps.reverse else ps

/-- Least and greatest of a list of numbers. -/
def boundsQ (l : List Q) : Q × Q := (l.foldl Q.min (l.headD ⟨0, 1⟩), l.foldl Q.max (l.headD ⟨0, 1⟩))

/-- Strips of `rows` lines that a polygon's bounding box meets (14 R372). -/
def polyStrips (rows strips : Nat) (ps : List (Q × Q)) : List Nat :=
  if ps.isEmpty then []
  else
    let b := boundsQ (ps.map (·.2))
    (List.range strips).filter (fun o => b.1.lt (Q.ofInt ((o + 1) * rows : Nat)) && (Q.ofInt ((o * rows : Nat) : Int)).lt b.2)

/-! ### Coverage (14 R375) -/

/-- The edge function of an edge at a point. -/
def edgeAt (e : (Q × Q) × (Q × Q)) (x y : Q) : Q :=
  (((e.2.1.sub e.1.1).mul (y.sub e.1.2)).sub ((e.2.2.sub e.1.2).mul (x.sub e.1.1)))

/-- A top edge or a left edge of a polygon of positive area. -/
def topLeft (e : (Q × Q) × (Q × Q)) : Bool :=
  e.2.2.lt e.1.2 || (e.2.2.eq e.1.2 && e.1.1.lt e.2.1)

/-- Whether a polygon covers a point. -/
def polyCovers (ps : List (Q × Q)) (x y : Q) : Bool :=
  decide (0 < (area2 ps).num) && (edges ps).all (fun e =>
    (e.1.1.eq e.2.1 && e.1.2.eq e.2.2)
      || (let v := edgeAt e x y
          decide (0 < v.num) || (v.num == 0 && topLeft e)))

/-- Width and height of a block at a level. -/
def blockDim (l : Nat) : Nat × Nat :=
  match l with
  | 0 => (1, 1)
  | 1 => (2, 1)
  | 2 => (2, 2)
  | 3 => (4, 2)
  | _ => (4, 4)

/-- The centre of a block. -/
def blockMid (l bx by_ : Nat) : Q × Q := (⟨(2 * bx + 1) * (blockDim l).1, 2⟩, ⟨(2 * by_ + 1) * (blockDim l).2, 2⟩)

/-- The quads of 2 × 2 blocks of a strip (lines `y0` to `y1` - 1, `wd` pixels) with a covered sample, in rows: each block with
whether its sample is covered. No polygon covers everything (14 R378). -/
def quadsOf (poly : Option (List (Q × Q))) (wd y0 y1 l : Nat) : List (List (Nat × Nat × Bool)) :=
  let bw := (blockDim l).1
  let bh := (blockDim l).2
  let box : Option (Nat × Nat × Nat × Nat) := match poly with
    | none => some (0, wd - 1, y0, y1 - 1)
    | some ps =>
      let bx := boundsQ (ps.map (·.1))
      let by_ := boundsQ (ps.map (·.2))
      if ps.isEmpty || decide (bx.2.floor < 0 ∨ by_.2.floor < 0) then none
      else some (bx.1.floor.toNat, min (wd - 1) bx.2.floor.toNat, max y0 by_.1.floor.toNat, min (y1 - 1) by_.2.floor.toNat)
  match box with
  | none => []
  | some (xa, xb, ya, yb) =>
    let qx := xa / bw / 2 * 2
    let qy := ya / bh / 2 * 2
    let on (bx by_ : Nat) : Bool :=
      decide (y0 ≤ by_ * bh ∧ by_ * bh < y1 ∧ bx * bw < wd) && (match poly with
        | none => true
        | some ps => let c := blockMid l bx by_; polyCovers ps c.1 c.2)
    if xb < xa ∨ yb < ya then []
    else
      let rows := (List.range ((yb / bh + 2 - qy) / 2)).map (fun i => qy + 2 * i)
      let cols := (List.range ((xb / bw + 2 - qx) / 2)).map (fun i => qx + 2 * i)
      let all := rows.flatMap (fun y => cols.map (fun x => [(x, y), (x + 1, y), (x, y + 1), (x + 1, y + 1)]))
      (all.map (fun q => q.map (fun b => (b.1, b.2, on b.1 b.2)))).filter (fun q => q.any (fun b => b.2.2))

/-! ### Interpolation (14 R376) -/

/-- The cross product. -/
def cross (a b : Q × Q × Q) : Q × Q × Q :=
  ((a.2.1.mul b.2.2).sub (a.2.2.mul b.2.1), (a.2.2.mul b.1).sub (a.1.mul b.2.2), (a.1.mul b.2.1).sub (a.2.1.mul b.1))
/-- The dot product. -/
def dotQ (a b : Q × Q × Q) : Q := ((a.1.mul b.1).add (a.2.1.mul b.2.1)).add (a.2.2.mul b.2.2)

/-- The barycentric weights of a point of an image over w (b_i / w_i of 14 R376), by the vertices' x, y and w. -/
def weights (wd ht : Nat) (vs : List (List Nat)) (x y : Q) : List Q :=
  let r (i : Nat) : Q × Q × Q := let v := vs.getD i []; (vertQ v 0, vertQ v 1, vertQ v 3)
  let p : Q × Q × Q := ((x.mul ⟨2, wd⟩).sub ⟨1, 1⟩, (⟨1, 1⟩ : Q).sub (y.mul ⟨2, ht⟩), ⟨1, 1⟩)
  let d := dotQ (r 0) (cross (r 1) (r 2))
  (List.range 3).map (fun i => (dotQ p (cross (r ((i + 1) % 3)) (r ((i + 2) % 3)))).div d)

/-- An attribute at a point, by its value at each vertex: none where the weights sum to zero, which leaves it open. -/
def attrAt (ws : List Q) (as : List Nat) : Option Nat :=
  let iw := ws.foldl Q.add ⟨0, 1⟩
  if iw.num = 0 then none
  else some (((XR.sum ((ws.zip as).map (fun x => (XR.q x.1).mul (XR.f32 x.2)))).div (.q iw)).round32)

/-- Registers v0 and on of a lane at a sample: x, y, z, 1/w and the attributes. -/
def sampleRegs (wd ht : Nat) (vs : List (List Nat)) (x y : Q) : List (Option Nat) :=
  let xy := [some (x.round fp32), some (y.round fp32)]
  if vs.isEmpty then xy ++ [some 0, some 0x3f800000]
  else
    let ws := weights wd ht vs x y
    let z := ((ws.zip vs).foldl (fun (a : Q) e => a.add (e.1.mul (vertQ e.2 2))) ⟨0, 1⟩).round fp32
    let iw := (ws.foldl Q.add ⟨0, 1⟩).round fp32
    xy ++ [some z, some iw] ++ (List.range ((vs.headD []).length - 4)).map (fun k => attrAt ws (vs.map (fun v => v.getD (k + 4) 0)))

/-! ### Conversion and blending (09 R252; 14 R377) -/

/-- Bits of a channel of a UNORM format. -/
def unormBits (f i : Nat) : Nat := if f = 0 then 8 else if i = 3 then 2 else 10
/-- Place of a channel of a format, in bits. -/
def chanPos (f i : Nat) : Nat := if f = 0 then 8 * i else if f = 1 then 10 * i else if f = 2 then 16 * i else 32 * i
/-- Width of a channel. -/
def chanBits (f i : Nat) : Nat := if f < 2 then unormBits f i else if f = 2 then 16 else 32

/-- An FP32 channel converted to a format (09 R252): its bits, NaN written as 0, saturated. -/
def chanConv (f i x : Nat) : Nat × Nat × Nat :=
  let v := fp32.decode x
  if v.isNan then (0, 1, 0)
  else if f < 2 then
    let top := 2 ^ unormBits f i - 1
    if !f32Fin x then (if bitN x 31 then 0 else top, 0, 1)
    else
      let q := Q.ofFV v
      if (⟨1, 1⟩ : Q).lt q then (top, 0, 1)
      else if q.lt ⟨-1, 1⟩ then (0, 0, 1)
      else if q.num ≤ 0 then (0, 0, 0)
      else ((q.mul ⟨top, 1⟩).nearest.toNat, 0, 0)
  else
    let s := fieldN (x / 2 ^ 31) (if f = 2 then 15 else 31) 1
    if f = 2 then
      if 0x477fe000 < x % 2 ^ 31 then (s + 0x7bff, 0, 1) else ((roundFp fp16 plainMode 0 v).1, 0, 0)
    else if !f32Fin x then (s + 0x7f7fffff, 0, 1) else (x, 0, 0)

/-- A channel of a stored pixel as an extended rational. -/
def chanVal (f i old : Nat) : XR :=
  let b := bitsN old (chanPos f i + chanBits f i - 1) (chanPos f i)
  if f < 2 then .q ⟨b, 2 ^ unormBits f i - 1⟩ else if f = 2 then XR.ofFV (fp16.decode b) else XR.f32 b

/-- A channel of a stored floating pixel. -/
def chanFV (f i old : Nat) : FV :=
  let b := bitsN old (chanPos f i + chanBits f i - 1) (chanPos f i)
  if f = 2 then fp16.decode b else fp32.decode b

/-- The blend of a channel (14 R377): computed once and rounded once to FP32. -/
def blendChan (f mode i src alpha old : Nat) : Nat :=
  if mode = 0 then src
  else if f < 2 then
    let d := chanVal f i old
    let k := if mode = 1 then d.mul ((XR.q ⟨1, 1⟩).sub (XR.f32 alpha)) else d
    ((XR.f32 src).add k).round32
  else
    let d := chanFV f i old
    let k := if mode = 1 then d.times ((FV.fin false 1 0).minus (fp32.decode alpha)) else d
    (roundFp fp32 plainMode 0 ((fp32.decode src).plus k)).1

/-- Four channels put together: the pixel, NaN channels, saturated channels. -/
def packPixel (f : Nat) (cs : List Nat) : Nat × Nat × Nat :=
  (cs.zip (List.range 4)).foldl (fun (a : Nat × Nat × Nat) c =>
    let r := chanConv f c.2 c.1
    (a.1 + fieldN r.1 (chanPos f c.2) (chanBits f c.2), a.2.1 + r.2.1, a.2.2 + r.2.2)) (0, 0, 0)

/-- A source blended over a stored pixel. -/
def blendPixel (f mode : Nat) (src : List Nat) (old : Nat) : Nat × Nat × Nat :=
  packPixel f ((src.zip (List.range 4)).map (fun c => blendChan f mode c.2 c.1 (src.getD 3 0) old))

/-- The depth test (14 R377): less, compared in FP32; a NaN fails. -/
def depthPass (z old : Nat) : Bool := cmpFV (fp32.decode z) (fp32.decode old) == .lt && !(fp32.decode z).isNan && !(fp32.decode old).isNan

/-! ### Upscaling (14 R383) -/

/-- A coefficient of the filter table, as an FP32 word. -/
def State.filterAt (s : State) (x ctx a ph j : Nat) : Nat :=
  match s.ctxPa ctx (pUfilt x + 136 * a + 68 * ph + 4 * j) needR with
  | none => 0
  | some pa => memRead s.mem.bytes pa 4

/-- One pass of the upscaler at a position: Σ over |k| ≤ `HALO` of c[k] × in(clamp(pos + k)), rounded once. -/
def filterPass (coef : Nat → Nat) (halo pos last : Nat) (inp : Nat → XR) : XR :=
  XR.f32 (XR.sum ((List.range (2 * halo + 1)).map (fun i =>
    (XR.f32 (coef (8 + i - halo))).mul (inp (min last (pos + i - halo)))))).round32

end Sys2Proof.Machine
end

