-- ==== Sys2Proof/Machine/Strip.lean ====
section
/-! DEFINITION. Strip pipelines at work: frames, BIN nodes, strip chains and the shading-rate rule, raster and commit, the
upscaler, the consumers and the encoder (14 R368-R391; 15 R407, R409). -/
namespace Sys2Proof.Machine

/-! ### Frames (14 R368-R370) -/

/-- Adds one to a counter of a pipeline. -/
def State.pipeCount (s : State) (pp : Nat) (f : PipeCtr → PipeCtr) : State := s.updPipe pp (fun p => { p with ctr := f p.ctr })

/-- F_o of a frame that starts at `fs` (14 R369). -/
def limitAt (x fs lclk o : Nat) : Nat := fs + (pVstart x + o * pH x) * lclk / 65536 - pLead x

/-- Limit and release time of chain c of a frame that starts at `fs` (14 R369). -/
def chainTimes (x fs lclk c : Nat) : Nat × Nat :=
  let f := if !pUps x then limitAt x fs lclk c
    else if c = 0 then limitAt x fs lclk 0 - pWin x else limitAt x fs lclk (c - 1)
  (f, f - pWin x)

/-- LCLK (14 R368). -/
def lineClk (lns inc : Nat) : Nat := (⟨(lns * 2 ^ 32 : Nat), inc⟩ : Q).nearest.toNat

/-- Whether a pipeline's next frame starts by now. -/
def State.frameDue (s : State) (pp : Nat) : Bool :=
  let p := s.pipe pp
  p.en && (match p.cur with
    | some _ => decide (p.nextFs ≤ s.clk)
    | none => p.vt != 0 && decide (pEpoch p.image + p.n0 * pPeriod p.image ≤ s.tbase.now.toNat))

/-- 14 R368-R370: a frame starts. The chains and the BIN node of the next frame are formed on the times foreseen for it. A
frame starts at least one clk after the one before (log entry on R368). -/
def execFrameStart (pp : Nat) (s0 : State) : Host.Outcome State Fault Refusal :=
  .next <|
    if !s0.frameDue pp then s0
    else
      let p := s0.pipe pp
      let x := p.image
      let d := s0.draw (2 ^ 64)
      let s := if s0.tbase.inc = 0 then d.2 else s0
      let lclk := if s0.tbase.inc = 0 then d.1 else lineClk (pLns x) s.tbase.inc
      let n := match p.cur with
        | some m => m + 1
        | none => p.n0
      let fs := match p.cur with
        | some _ => p.nextFs
        | none => s.clk
      let e : Int := s.tbase.now - ((s.clk - fs) * s.tbase.inc / 65536 : Nat) - (pEpoch x + n * pPeriod x : Nat)
      let next := max (fs + 1) (fs + p.vt * lclk / 65536)
      let vt := if 2 * e > pLns x then pVtot x - 1 else if 2 * e < -(pLns x : Int) then pVtot x + 1 else pVtot x
      let old := p.chains.map (fun (c : Chain) =>
        if c.frame = n then let t := chainTimes x fs lclk c.ix; { c with f := t.1, r := t.2 } else c)
      let new := (List.range (pChains x)).map (fun c =>
        let t := chainTimes x next lclk c
        ({ frame := n + 1, ix := c, f := t.1, r := t.2 } : Chain))
      let bin : Bin := { frame := n + 1, dl := (chainTimes x next lclk 0).2 }
      let mine := p.held.filter (fun l => match s.launch l with
        | some y => lrFrame y.image == (n + 1) % 2 ^ 32
        | none => false)
      let p1 : Pipe := { p with
        cur := some n, fs := fs, lclk := lclk, nextFs := next, vt := vt, chains := old ++ new
        bins := p.bins.filter (fun b => decide (n ≤ b.frame + 1)) ++ [bin], held := p.held.filter (fun l => !mine.contains l)
        ctr := { p.ctr with frames := satAdd p.ctr.frames 1 32 }, reps := p.reps.filter (fun k => decide (n * pStrips x ≤ k + 2 * pStrips x)) }
      mine.foldl (fun (st : State) l => match st.launch l, (st.pipe pp).bins.find? (fun b => b.frame == n + 1) with
        | some y, some b => st.giveBin pp b l y
        | _, _ => st) (s.setPipe pp p1)

/-! ### Geometry (14 R371-R374; 15 R409) -/

/-- Rounded up to 64 (14 R373). -/
def up64 (n : Nat) : Nat := (n + 63) / 64 * 64

/-- The words of a vertex of a meshlet in an attribute group. -/
def Mesh.words (m : Mesh) (i k : Nat) : List Nat := (List.range 4).map (fun j => sget 0 m.verts ((i * 5 + k) * 4 + j))

/-- The primitives of a meshlet that survive in a view (14 R371, R372). -/
def meshItems (m : Mesh) (draw mesh pix view : Nat) (mat : List Nat) : List PrimItem :=
  (List.range m.np).filterMap (fun i =>
    let w := sget 0 m.prims i
    let vs := [bitsN w 7 0, bitsN w 15 8, bitsN w 23 16].map (fun j =>
      viewPos mat (m.words j 0) ++ (List.range m.g).flatMap (fun k => m.words j (k + 1)))
    if !bitN w 32 || bitN w 24 || vs.any (fun v => (v.take 4).any (fun c => !f32Fin c)) || beyond vs then none
    else some { draw := draw, mesh := mesh, prim := i, view := view, srate := m.srate, pix := pix, verts := vs })

/-- Strips that an item is binned into. -/
def PrimItem.strips (it : PrimItem) (x : Nat) : List Nat :=
  polyStrips (pRows x) (pStrips x) (windowPoly (pWid x) (pHei x) it.verts)

/-- One view of a meshlet enters the bin area (14 R372, R373); once the half is full the remaining views are dropped. The
words of a matrix that cannot be read are open. -/
def State.binView (s : State) (pp : Nat) (m : Mesh) (draw mesh pix : Nat) (a : Bin × Nat) (view : Nat) : State × Bin × Nat :=
  let p := s.pipe pp
  let x := p.image
  if 0 < a.2 then (s, a.1, a.2 + 1)
  else
    let r := s.readRec p.ctx (pViewt x + 64 * view)
    let s1 := match r.1 with
      | some _ => r.2
      | none => { r.2 with fresh := s.fresh + 16 }
    let mat := (List.range 16).map (fun k => match r.1 with
      | some w => bitsN w (32 * k + 31) (32 * k)
      | none => (Config.freeWord (s.fresh + k)).toNat)
    let its := meshItems m draw mesh pix view mat
    if its.isEmpty then (s1, a.1, 0)
    else
      let size := up64 (16 * m.nv) + 64 * its.foldl (fun n it => n + (it.strips x).length) 0
      if pBinHalf x < a.1.used + size then (s1, a.1, 1)
      else (s1, { a.1 with used := a.1.used + size, items := a.1.items ++ its }, 0)

/-- A meshlet enters the bin area of its frame (14 R371-R373). -/
def State.binMeshlet (s : State) (pp : Nat) (t : Team) (l : Launch) (b : Bin) : State :=
  let m := t.mesh
  let x := (s.pipe pp).image
  let size := up64 (64 + 16 * m.nv * m.g + 4 * m.np)
  let put (st : State) (b1 : Bin) (drop : Nat) : State := st.updPipe pp (fun p => { p with
    bins := p.bins.map (fun y => if y.frame = b.frame then b1 else y), ctr := { p.ctr with dropm := satAdd p.ctr.dropm drop 32 } })
  if pBinHalf x < b.used + size then put s b (pViews x)
  else
    let r := (List.range (pViews x)).foldl (fun (a : State × Bin × Nat) v =>
      a.1.binView pp m (lrDraw l.image) t.teamId (bitsN l.image 299 274 * 64) a.2 v) (s, { b with used := b.used + size }, 0)
    put r.1 r.2.1 r.2.2

/-- 14 R371: MESHLET_HANDOFF. A mesh team's last warp has exited; its meshlet reaches the replicator if its BIN node still
runs. -/
def execMeshletHandoff (t : Nat) (s : State) : Host.Outcome State Fault Refusal :=
  .next <|
    match s.team t with
    | none => s
    | some x =>
      if x.stage ≠ 1 ∨ x.handed = true ∨ x.status ≠ .ended then s
      else
        let s1 := match s.launch x.launch with
          | some l => (match (s.pipe x.pipe).bins.find? (fun (b : Bin) => b.frame % 2 ^ 32 == lrFrame l.image && b.st == BinState.running) with
            | some b => if (s.pipe x.pipe).en then s.binMeshlet x.pipe x l b else s
            | none => s)
          | none => s
        (s1.setTeam t (some { x with handed := true })).dropEnded t

/-- The order of fragments (14 R377): key, then view. -/
def PrimItem.before (a b : PrimItem) : Bool :=
  let k (i : PrimItem) : Nat := ((i.draw * 2 ^ 32 + i.mesh * 2 ^ 8 + i.prim) * 128) + i.view
  decide (k a ≤ k b)

/-- The oldest BIN node of a pipeline that runs. -/
def Pipe.runningBin (p : Pipe) : Option Bin := p.bins.find? (fun b => b.st == .running)

/-- Replaces a BIN node. -/
def State.putBin (s : State) (pp : Nat) (b : Bin) : State :=
  s.updPipe pp (fun p => { p with bins := p.bins.map (fun y => if y.frame = b.frame then b else y) })

/-- 15 R409: BIN_NODE_COMPLETE. FRAMEEND has been accepted and every MESH launch accepted before it has completed. -/
def execBinNodeComplete (pp : Nat) (s : State) : Host.Outcome State Fault Refusal :=
  .next <|
    match (s.pipe pp).runningBin with
    | none => s
    | some b =>
      if !b.fes.isEmpty && b.before.all s.launchOver then
        b.fes.foldl (fun (st : State) fe => st.finishLaunch fe false)
          (s.putBin pp { b with st := .done, items := sortBy PrimItem.before b.items })
      else s

/-- 14 R374: BIN_NODE_LATE. Its lists are discarded, and what it has not placed is given up. -/
def execBinNodeLate (pp : Nat) (s : State) : Host.Outcome State Fault Refusal :=
  .next <|
    match (s.pipe pp).runningBin with
    | none => s
    | some b =>
      if s.clk < b.dl then s
      else
        let s1 := (s.putBin pp { b with st := .late, items := [] }).pipeCount pp (fun c => { c with late := satAdd c.late 1 32 })
        let s2 := s1.dropStrip (fun x => match x with
          | .launch l => b.launches.contains l
          | .team _ => false)
        b.fes.foldl (fun (st : State) fe => st.finishLaunch fe true) s2

/-! ### Strip chains (14 R381, R384-R388) -/

/-- The first chain of an index that has not ended. -/
def State.chainOf (s : State) (pp c : Nat) : Option Chain := (s.pipe pp).chains.find? (fun h => h.ix == c)

/-- Changes a chain. -/
def State.updChain (s : State) (pp n c : Nat) (f : Chain → Chain) : State :=
  s.updPipe pp (fun p => { p with chains := p.chains.map (fun h => if h.frame = n ∧ h.ix = c then f h else h) })

/-- The node that a chain stands at. -/
def Pipe.nodeOf (p : Pipe) (h : Chain) : Nat := p.nodes.getD h.node 0

/-- Whether a slot is freed when a chain ends (14 R381). -/
def State.freedBy (s : State) (pp n c k : Nat) (t : RingSlot) : Bool :=
  let x := (s.pipe pp).image
  match t.owner with
  | none => false
  | some (q, m, o) =>
    q == pp && m == n && ((o == c && t.st == 1)
      || (t.st == 2 && !rOut (s.ringDesc (k / 16)) && (if pUps x then decide (o + 2 ≤ c ∨ c = pStrips x) else o == c)))

/-- A chain ends at a level (14 R381, R385, R388). -/
def State.endChain (s : State) (pp : Nat) (h : Chain) (level : Nat) (late : Bool) : State :=
  let p := s.pipe pp
  let s1 := s.setPipe pp { p with
    chains := p.chains.filter (fun y => !(y.frame == h.frame && y.ix == h.ix)), lev := sput 0 p.lev h.ix level
    seen := sput false p.seen h.ix true }
  let s2 := s1.putHist pp h.ix level late
  let ks := (s2.slots.filter (fun e => s2.freedBy pp h.frame h.ix e.1 e.2)).map (·.1)
  let s3 := ks.foldl (fun (st : State) k => st.freeSlot k) s2
  s3.dropStrip (fun x => match x with
    | .launch l => h.launches.any (fun e => e.2 == l)
    | .team t => (match s3.team t with
      | some y => y.stage == 2 && y.pipe == pp && y.chain == h.ix && y.status == .waiting
      | none => true))

/-- A chain is skipped at level 5 (14 R385). -/
def State.skipChain (s : State) (pp : Nat) (h : Chain) : State :=
  (s.pipeCount pp (fun c => { c with skipped := satAdd c.skipped 1 32 })).endChain pp h 5 false

/-- Whether a chain's node may write its slots (14 R385). -/
def State.slotsReady (s : State) (pp : Nat) (h : Chain) : Bool :=
  let p := s.pipe pp
  (s.nodeSlots p.image (p.nodeOf h) h.frame h.ix).all (fun k =>
    let t := s.slot k.1
    t.st == 0 || (t.st == 1 && t.owner == some (pp, h.frame, h.ix)))

/-- The number by which a COPY node of a chain is known. -/
def Chain.copyKey (h : Chain) : Nat := (h.frame * 8192 + h.ix) * 8 + h.node

/-- Queues the command of a COPY node, if its Hod has room (15 R412). -/
def State.chainCopy (s : State) (pp : Nat) (h : Chain) : State :=
  let p := s.pipe pp
  let nd := p.nodeOf h
  if s.hodFull (nCore nd) 16 then s
  else
    let c : HodCmd := { op := 0, ctx := p.ctx, recAddr := nRec nd, ready := s.clk, jsrc := 65, jpos := pp * 2 ^ 30 + h.ix
                        node := some (8 + pp, h.copyKey) }
    (s.queueHod (nCore nd) 16 c).1.updChain pp h.frame h.ix (fun y => { y with queued := true })

/-- The launch of a plain KERNEL node (14 R384; 15 R405): strip work under its `RSV` and the chain's limit. -/
def State.chainKernel (s : State) (pp : Nat) (h : Chain) : State :=
  let p := s.pipe pp
  let nd := p.nodeOf h
  match s.innerLaunch p.ctx (nRec nd) 0 64 (8 + pp) 65 (pp * 2 ^ 30 + h.ix) with
  | (none, s1) => s1.skipChain pp h
  | (some lid, s1) =>
    let s2 := match s1.launch lid with
      | some l => s1.setLaunch lid (some { l with
          strip := true, rsv := some (nRsv nd), deadlineAt := some h.f, stripIx := h.ix, srate := h.level, plumb := some pp })
      | none => s1
    let s3 := s2.updChain pp h.frame h.ix (fun y => { y with launches := [(nRec nd, lid)] })
    { s3 with chainQ := s3.chainQ ++ [.launch lid] }

/-- A checked node starts (14 R381, R385). -/
def State.startChainNode (s : State) (pp : Nat) (h0 : Chain) : State :=
  let p := s.pipe pp
  let h : Chain := { h0 with
    st := .running, start := s.clk, item := 0, cell := 0, queued := false, launches := [], scaled := false, wrote := s.clk }
  let nd := p.nodeOf h
  let s1 := (s.nodeSlots p.image nd h.frame h.ix).foldl (fun (st : State) k =>
    if (st.slot k.1).st = 0 then st.beginSlot k.1 pp h.frame h.ix h.node k.2 else st) s
  let s2 := s1.updChain pp h.frame h.ix (fun _ => h)
  match nKind nd with
  | 1 => if nSkind nd = 0 then s2.chainKernel pp h else s2
  | 2 => s2.chainCopy pp h
  | 7 => (match s2.signalStep p.ctx nd with
    | none => s2.skipChain pp h
    | some s3 => if bitN nd 320 then s3.journal 65 0 0 6 p.ctx h.node else s3)
  | _ => s2

/-- The check of a chain's next node (14 R385, R386). -/
def State.checkNode (s : State) (pp : Nat) (h0 : Chain) : State :=
  let p := s.pipe pp
  let cost := (((p.costs h0.ix).drop h0.node)).foldl (fun a c => a + c) 0
  let l := if h0.f < s.clk + grown cost then min (h0.level + 1) 5 else h0.level
  let h : Chain := { h0 with level := l, st := .waiting }
  if l = 5 then s.skipChain pp h
  else if s.slotsReady pp h then s.startChainNode pp h
  else (s.updChain pp h.frame h.ix (fun _ => h)).pipeCount pp (fun c => { c with slotw := satAdd c.slotw 1 32 })

/-- 15 R407: PLUMB_RESERVE. From R - 4,096 clk until the chain ends its clusters are reserved. -/
def execPlumbReserve (ch : Nat) (s : State) : Host.Outcome State Fault Refusal :=
  .next <|
    match (s.pipe (ch % 4)).chains.find? (fun h => h.ix == ch / 4 && !h.res) with
    | none => s
    | some h => if s.clk + 4096 < h.r then s else s.updChain (ch % 4) h.frame h.ix (fun y => { y with res := true })

/-- 14 R369, R370, R374, R386: CHAIN_RELEASE. The chains of a pipeline run one at a time, in order; a chain whose BIN node
ended Late is skipped. -/
def execChainRelease (ch : Nat) (s : State) : Host.Outcome State Fault Refusal :=
  .next <|
    let pp := ch % 4
    let p := s.pipe pp
    match p.chains.head? with
    | none => s
    | some h =>
      if h.ix ≠ ch / 4 ∨ h.st ≠ .pending ∨ s.clk < h.r then s
      else match (p.bins.find? (fun (b : Bin) => b.frame == h.frame)).map Bin.st with
        | some BinState.running => s
        | some BinState.done =>
          let l := if sget false p.seen h.ix then sget 0 p.lev h.ix - 1 else 0
          let mine (e : Nat × Nat × Nat) : Bool := e.1 == 8 + pp
          ({ s with copyDone := s.copyDone.filter (fun e => !mine e) } : State).checkNode pp { h with level := l }
        | _ => s.skipChain pp h

/-- 14 R385: NODE_SLOT_FREE. A waiting node starts when its slots are free. -/
def execNodeSlotFree (ch : Nat) (s : State) : Host.Outcome State Fault Refusal :=
  .next <|
    match s.chainOf (ch % 4) (ch / 4) with
    | none => s
    | some h => if h.st = .waiting ∧ s.slotsReady (ch % 4) h = true then s.startChainNode (ch % 4) h else s

/-- 14 R385, R388: CHAIN_LATE. -/
def execChainLate (ch : Nat) (s : State) : Host.Outcome State Fault Refusal :=
  .next <|
    let pp := ch % 4
    match s.chainOf pp (ch / 4) with
    | none => s
    | some h =>
      if s.clk < h.f then s
      else
        let s1 := s.updPipe pp (fun p =>
          let cs := p.costs h.ix
          let c := min (max (cs.getD h.node 0) (h.f - h.start)) (2 ^ 32 - 1)
          let cs1 := if h.st = .running then setAt cs h.node c else cs
          { p with ctr := { p.ctr with late := satAdd p.ctr.late 1 32 }, hist := sput [] p.hist h.ix cs1 })
        s1.endChain pp h 5 true

/-! ### Raster (14 R375-R378) -/

/-- Lines of the rendered image that an input strip holds. -/
def stripLines (x o : Nat) : Nat × Nat := (o * pRows x, min ((o + 1) * pRows x) (pHei x))

/-- The next pixel warp of a list of items: which item, which warp of it, the item and the warp's quads. -/
def nextWarp (x o level : Nat) : List PrimItem → Nat → Nat → Option (Nat × Nat × PrimItem × List (List (Nat × Nat × Bool)))
  | [], _, _ => none
  | it :: rest, i, cell =>
    let poly := if it.verts.isEmpty then none else some (windowPoly (pWid x) (pHei x) it.verts)
    let y := stripLines x o
    let qs := ((quadsOf poly (pWid x) y.1 y.2 (max level it.srate)).drop (8 * cell)).take 8
    if qs.isEmpty then nextWarp x o level rest (i + 1) 0 else some (i, cell, it, qs)

/-- What a raster node draws (14 R377, R378): the frame's list, or every view of a FULL node. -/
def State.rasterItems (s : State) (p : Pipe) (h : Chain) (nd : Nat) : List PrimItem :=
  if nSkind nd = 1 then
    match p.bins.find? (fun b => b.frame == h.frame && b.st == .done) with
    | some b => b.items
    | none => []
  else
    let draw := match (s.readRec p.ctx (nRec nd)).1 with
      | some r => lrDraw r
      | none => 0
    (List.range (pViews p.image)).map (fun v => ⟨draw, 0, 0, v, 0, nRec nd, []⟩)

/-- The next pixel warp of a chain's raster node; none where it has launched its last. -/
def State.nextPixel (s : State) (pp : Nat) (h : Chain) : Option (Nat × Nat × PrimItem × List (List (Nat × Nat × Bool))) :=
  let p := s.pipe pp
  let nd := p.nodeOf h
  if nKind nd ≠ 1 ∨ (nSkind nd ≠ 1 ∧ nSkind nd ≠ 2) then none
  else match chainRenders p.image h.ix with
    | none => none
    | some o => nextWarp p.image o h.level ((s.rasterItems p h nd).drop h.item) h.item h.cell

/-- A pixel warp is launched (14 R376, R377): its entry in the reorder buffer and its team, which Plumb has released. -/
def State.launchPixel (s : State) (pp : Nat) (h : Chain) (lid : Nat) (l : Launch)
    (w : Nat × Nat × PrimItem × List (List (Nat × Nat × Bool))) : State :=
  let p := s.pipe pp
  let x := p.image
  let it := w.2.2.1
  let level := max h.level it.srate
  let lanes := (w.2.2.2.zip (List.range 8)).flatMap (fun q => (q.1.zip (List.range 4)).map (fun b => (4 * q.2 + b.2, b.1)))
  let regs := lanes.map (fun e =>
    let c := blockMid level e.2.1 e.2.2.1
    let vals := sampleRegs (pWid x) (pHei x) it.verts c.1 c.2
    (e.1, (vals.zip (List.range vals.length)).map (fun v => v.1.getD (Config.freeWord (s.fresh + e.1 * 64 + v.2)).toNat)))
  let tk := s.teamSeq
  let t : Team := { l.teamOf lid l.nextTeam with
    args := [it.draw, it.mesh, it.prim, 0], s4 := 0, s5 := 0, strip := true, rsv := some (nRsv (p.nodeOf h)), deadlineAt := some h.f
    view := it.view, stripIx := h.ix, srate := level, stage := 2, pipe := pp, chain := h.ix, node := h.node }
  let e : RobEntry := {
    team := tk, frame := h.frame, chain := h.ix, view := it.view, level := level, draw := it.draw, mesh := it.mesh, prim := it.prim
    regs := regs.map (fun r => (r.1, r.2.take (max 4 t.depth))), verts := it.verts
    blocks := (lanes.filter (fun b => b.2.2.2)).map (fun b => (b.1, b.2.1, b.2.2.1)) }
  let s1 := ((s.setTeam tk (some t)).setLaunch lid (some { l with nextTeam := l.nextTeam + 1 })).updPipe pp (fun y => { y with
    rob := y.rob ++ [e] })
  let s2 := s1.updChain pp h.frame h.ix (fun y => { y with item := w.1, cell := w.2.1 + 1 })
  { s2 with teamSeq := tk + 1, fresh := s.fresh + 2048, chainQ := s2.chainQ ++ [.team tk] }

/-- 14 R376, R377: PIXEL_WARP_LAUNCH. Eight of the 4,096 reorder entries go to each warp. A pixel record that cannot be used
fails the node. -/
def execPixelWarpLaunch (ch : Nat) (s : State) : Host.Outcome State Fault Refusal :=
  .next <|
    let pp := ch % 4
    match s.chainOf pp (ch / 4) with
    | none => s
    | some h =>
      if h.st ≠ .running ∨ 512 ≤ (s.pipe pp).rob.length then s
      else match s.nextPixel pp h with
        | none => s
        | some w =>
          let pix := w.2.2.1.pix
          match h.launches.find? (fun e => e.1 == pix) with
          | some e => (match s.launch e.2 with
            | some l => s.launchPixel pp h e.2 l w
            | none => s)
          | none =>
            match s.innerLaunch (s.pipe pp).ctx pix 4 64 (8 + pp) 65 (pp * 2 ^ 30 + h.ix) with
            | (none, s1) => s1.skipChain pp h
            | (some lid, s1) =>
              let h1 : Chain := { h with launches := h.launches ++ [(pix, lid)] }
              let s2 := s1.updChain pp h.frame h.ix (fun _ => h1)
              match s2.launch lid with
              | some l => s2.launchPixel pp h1 lid { l with
                strip := true, plumb := some pp, rsv := some (nRsv ((s.pipe pp).nodeOf h)), deadlineAt := some h.f, stripIx := h.ix
                srate := h.level } w
              | none => s2

/-! ### Ordered commit (14 R377) -/

/-- A fragment's colour reaches a pixel of a target, written by an agent through an edge stop; `psn` says that what lets it through was poisoned, and a
blend with a poisoned pixel is poisoned as well (02 R42, 04 R116; log 98). -/
def State.blendAt (s : State) (edge g : Nat) (psn : Bool) (k mode view x y : Nat) (src : List Nat) : State :=
  let d := s.ringDesc (k / 16)
  let pa := rPixel d (k % 16) view x y
  let z := fmtBytes (rFmt d)
  let old := if mode = 0 then (0, 0, 0, s) else s.stopRead edge pa z
  let r := blendPixel (rFmt d) mode src old.1
  let t := s.slot k
  let t1 : RingSlot := { t with nanc := satAdd t.nanc r.2.1 32, ovfc := satAdd t.ovfc r.2.2 32 }
  ({ old.2.2.2 with slots := sput {} s.slots k t1 } : State).plainSpan edge g pa z r.1
    (if psn || old.2.1 != 0 then maskAt 0 z else 0)

/-- A lane's fragment at one pixel, `y` counted from the strip's first line: depth test, then each target. A poisoned stored depth is
compared as it stands, and what the fragment then writes is poisoned (log 98). -/
def State.commitPixel (s : State) (edge g x n o : Nat) (e : RobEntry) (lane px y : Nat) : State :=
  let tg := pTgts x
  let z := ((((e.regs.find? (fun r => r.1 == lane)).map (·.2)).getD []).getD 2 0)
  let depth := if pDepth x then tg.find? (fun t => rDp (s.ringDesc t.1)) else none
  let r : Bool × Bool × State := match depth with
    | none => (true, false, s)
    | some t =>
      let d := s.ringDesc t.1
      let pa := rDepth d (s.slotKey x t.1 n o % 16) e.view px y
      let old := s.stopRead edge pa 4
      let s1 := old.2.2.2
      let bad := old.2.1 != 0
      if depthPass z old.1 then (true, bad, s1.plainSpan edge g pa 4 z (if bad then 15 else 0)) else (false, bad, s1)
  if !r.1 then r.2.2
  else tg.foldl (fun (st : State) t =>
    if sget false e.emitted (lane * 4 + t.2.2) then
      st.blendAt edge g r.2.1 (s.slotKey x t.1 n o) t.2.1 e.view px y
        ((List.range 4).map (fun j => sget 0 e.colour ((lane * 4 + t.2.2) * 4 + j)))
    else st) r.2.2

/-- The fragments of an entry (14 R375, R377): each covered sample's result goes to every pixel of its block that lies in the
strip and is covered at its own centre. -/
def State.commitEntry (s : State) (edge g x n o : Nat) (e : RobEntry) : State :=
  let ys := stripLines x o
  let poly := windowPoly (pWid x) (pHei x) e.verts
  let dim := blockDim e.level
  e.blocks.foldl (fun (st : State) b =>
    if e.killed.getLsbD b.1 then st
    else
      let pts := (List.range dim.2).flatMap (fun j => (List.range dim.1).map (fun i => (b.2.1 * dim.1 + i, b.2.2 * dim.2 + j)))
      pts.foldl (fun (a : State) q =>
        if decide (ys.1 ≤ q.2 ∧ q.2 < ys.2 ∧ q.1 < pWid x)
            && (e.verts.isEmpty || polyCovers poly ⟨2 * q.1 + 1, 2⟩ ⟨2 * q.2 + 1, 2⟩) then
          a.commitPixel edge g x n o e b.1 q.1 (q.2 - ys.1)
        else a) st) s

/-- 14 R377: FRAGMENT_COMMIT. The oldest entry of a pipeline commits once its warp has ended; those of an ended chain write
nothing. -/
def execFragmentCommit (k : Nat) (s : State) : Host.Outcome State Fault Refusal :=
  .next <|
    let p := s.pipe k
    match p.rob with
    | [] => s
    | e :: rest =>
      if !e.done then s
      else
        let s1 := s.setPipe k { p with rob := rest }
        match p.chains.find? (fun h => h.frame == e.frame && h.ix == e.chain), chainRenders p.image e.chain with
        | some h, some o =>
          (s1.commitEntry (pipeEdge k) (chainAgent k h.frame h.ix h.node) p.image e.frame o e).updChain k h.frame h.ix (fun y => { y with wrote := s.clk })
        | _, _ => s1

/-! ### The upscaler (14 R383) -/

/-- Physical address of a pixel of the rendered image of a frame in the render ring. -/
def State.renderedPa (s : State) (x n px py : Nat) : Nat :=
  let r := ((pTgts x).headD (0, 0, 0)).1
  rPixel (s.ringDesc r) (s.slotKey x r n (py / pRows x) % 16) 0 px (py % pRows x)

/-- A channel of the rendered image at a pixel of a frame, as the render ring holds it now. -/
def State.renderedAt (s : State) (x n i px py : Nat) : XR :=
  let f := rFmt (s.ringDesc ((pTgts x).headD (0, 0, 0)).1)
  chanVal f i (memRead s.mem.bytes (s.renderedPa x n px py) (fmtBytes f))

/-- An output pixel's four channels, as FP32 words. -/
def State.upscaled (s : State) (x ctx n px py : Nat) : List Nat :=
  (List.range 4).map (fun i =>
    let mid (c : Nat) : XR := filterPass (s.filterAt x ctx 0 (py % 2)) (pHalo x) (py / 2) (pHei x - 1) (fun r => s.renderedAt x n i c r)
    (filterPass (s.filterAt x ctx 1 (px % 2)) (pHalo x) (px / 2) (pWid x - 1) mid).round32)

/-- The positions within `HALO` of a position, clamped to the image's edges. -/
def tapsAt (halo pos last : Nat) : List Nat := ((List.range (2 * halo + 1)).map (fun i => min last (pos + i - halo))).eraseDups

/-- Lines of the rendered image that output strip o is made of. -/
def upscaleRows (x o : Nat) : List Nat :=
  ((List.range (min (pH x) (pVact x - o * pH x))).flatMap (fun y => tapsAt (pHalo x) ((o * pH x + y) / 2) (pHei x - 1))).eraseDups

/-- The upscaler's reads for output strip o: the filter table, of which it says whether it is poisoned, and each line of the rendered image
that it needs, once (02 R42). -/
def State.upscaleReads (s : State) (edge x ctx n o : Nat) : Bool × State :=
  let z := fmtBytes (rFmt (s.ringDesc ((pTgts x).headD (0, 0, 0)).1))
  let f := s.filterReads edge x ctx
  (f.1, (upscaleRows x o).foldl (fun (a : State) r => (a.stopRead edge (s.renderedPa x n 0 r) (pWid x * z)).2.2.2) f.2)

/-- Whether a pixel that an output pixel is made of is poisoned (02 R42). -/
def State.upscaledPsn (s : State) (x n px py : Nat) : Bool :=
  (tapsAt (pHalo x) (py / 2) (pHei x - 1)).any (fun r => (tapsAt (pHalo x) (px / 2) (pWid x - 1)).any (fun c =>
    s.mem.poisoned (granOf (s.renderedPa x n c r))))

/-- The upscaler writes output strip o of a frame (14 R383; poison 04 R116, log 98). -/
def State.upscaleStrip (s0 : State) (edge g x ctx n o : Nat) : State :=
  let rd := s0.upscaleReads edge x ctx n o
  let s := rd.2
  let k := s.slotKey x (pOring x) n o
  let d := s.ringDesc (pOring x)
  let z := fmtBytes (rFmt d)
  (List.range (min (pH x) (pVact x - o * pH x))).foldl (fun (a : State) y =>
    (List.range (pHact x)).foldl (fun (b : State) px =>
      let r := packPixel (rFmt d) (s.upscaled x ctx n px (o * pH x + y))
      let t := b.slot k
      let t1 : RingSlot := { t with nanc := satAdd t.nanc r.2.1 32, ovfc := satAdd t.ovfc r.2.2 32 }
      ({ b with slots := sput {} b.slots k t1 } : State).plainSpan edge g (rPixel d (k % 16) 0 px y) z r.1
        (if rd.1 || s.upscaledPsn x n px (o * pH x + y) then maskAt 0 z else 0)) a) s

/-! ### The end of a node (14 R381, R385, R388) -/

/-- A node is Done: its cost is recorded, slots that no later node writes are COMPLETE, and the next node is checked. -/
def State.chainDone (s : State) (pp : Nat) (h : Chain) : State :=
  let p := s.pipe pp
  let x := p.image
  let cs := setAt (p.costs h.ix) h.node (min (s.clk - h.start) (2 ^ 32 - 1))
  let s1 := s.setPipe pp { p with hist := sput [] p.hist h.ix cs }
  let later := (p.nodes.drop (h.node + 1)).flatMap (fun nd => s1.nodeSlots x nd h.frame h.ix)
  let ks := (s1.nodeSlots x (p.nodeOf h) h.frame h.ix).filter (fun k => !later.contains k)
  let s2 := ks.foldl (fun (st : State) k => st.putSlot k.1 { st.slot k.1 with st := 2, level := h.level }) s1
  let s3 := h.launches.foldl (fun (st : State) l => { st.setLaunch l.2 none with waitTasks := st.waitTasks.filter (fun x => x.launch != l.2) }) s2
  let h1 : Chain := { h with node := h.node + 1, st := .pending, launches := [] }
  if h1.node < p.nodes.length then (s3.updChain pp h.frame h.ix (fun _ => h1)).checkNode pp h1
  else s3.endChain pp h1 h.level false

/-- Whether the work of a chain's running node is over; a node that writes slots ends 17 clk after its last write (14 R381,
04 R108). -/
def State.chainOver (s : State) (pp : Nat) (h : Chain) : Bool :=
  let p := s.pipe pp
  let nd := p.nodeOf h
  match nKind nd with
  | 1 =>
    if nSkind nd = 0 then h.launches.all (fun l => s.launchOver l.2)
    else (s.nextPixel pp h).isNone && h.launches.all (fun l => s.launchQuiet l.2) && p.rob.all (fun e => !(e.frame == h.frame && e.chain == h.ix)) && decide (h.wrote + 17 ≤ s.clk)
  | 2 => s.copyDone.any (fun e => e.1 == 8 + pp && e.2.1 == h.copyKey)
  | 6 => decide (waitTill nd h.start ≤ s.clk)
  | _ => true

/-- 14 R385: CHAIN_NODE_DONE. The upscaler's work lies in this event, at least 17 clk before the node is Done. A COPY whose Hod's
queue was full asks again, and one that fails ends the chain. -/
def execChainNodeDone (ch m : Nat) (s : State) : Host.Outcome State Fault Refusal :=
  .next <|
    let pp := ch % 4
    let p := s.pipe pp
    match s.chainOf pp (ch / 4) with
    | none => s
    | some h =>
      let nd := p.nodeOf h
      if h.st ≠ .running ∨ h.node ≠ m then s
      else if nKind nd = 2 ∧ h.queued = false then s.chainCopy pp h
      else if nKind nd = 1 ∧ nSkind nd = 3 ∧ h.scaled = false then
        let mark (st : State) : State := st.updChain pp h.frame h.ix (fun y => { y with scaled := true, wrote := s.clk })
        match chainUpscales p.image h.ix with
        | some o => mark (s.upscaleStrip (pipeEdge pp) (chainAgent pp h.frame h.ix h.node) p.image p.ctx h.frame o)
        | none => mark s
      else if !s.chainOver pp h then s
      else if nKind nd = 2 then
        let st : Nat := ((s.copyDone.find? (fun e => e.1 == 8 + pp && e.2.1 == h.copyKey)).map (·.2.2)).getD 0
        let s1 := { s with copyDone := s.copyDone.filter (fun e => !(e.1 == 8 + pp && e.2.1 == h.copyKey)) }
        if st = 0 then s1.chainDone pp h else s1.skipChain pp h
      else s.chainDone pp h

/-! ### Consumers (14 R381, R387, R389, R391) -/

/-- Whether a consumer is attached. -/
def pConsumer (x : Nat) : Bool := pDpo x || pEnc x

/-- F of the strip that is taken next; none while its frame is not foreseen. -/
def Pipe.takeAt (p : Pipe) : Option Nat :=
  let x := p.image
  let n := p.take / pStrips x
  let o := p.take % pStrips x
  match p.cur with
  | none => none
  | some m =>
    if n < m then some 0 else if n = m then some (limitAt x p.fs p.lclk o)
    else if n = m + 1 then some (limitAt x p.nextFs p.lclk o) else none

/-- Whether a strip is COMPLETE for its frame: by its output slot, or without a consumer by its chain's end (log entry on
R387). -/
def State.stripDone (s : State) (p : Pipe) (n o : Nat) : Bool :=
  let x := p.image
  if pConsumer x then
    let t := s.slot (s.slotKey x (pOring x) n o)
    t.st == 2 && t.frame == n && t.strip == o
  else
    let c := if pUps x then o + 1 else o
    n != p.n0 && p.chains.all (fun h => !(h.frame == n && h.ix == c)) && decide (sget 0 p.lev c < 5)

/-- 14 R381, R387: STRIP_CONSUMER_TAKE. At F_o the consumer takes the strip, or it is repeated. -/
def execStripConsumerTake (pp st : Nat) (s : State) : Host.Outcome State Fault Refusal :=
  .next <|
    let p := s.pipe pp
    let x := p.image
    let n := p.take / pStrips x
    match p.takeAt with
    | none => s
    | some f =>
      if !p.en || p.take % pStrips x != st || decide (s.clk < f) then s
      else if s.stripDone p n st then
        let s1 := s.setPipe pp { p with take := p.take + 1 }
        let k := s.slotKey x (pOring x) n st
        if pConsumer x then s1.putSlot k { s.slot k with st := 3 } else s1
      else s.setPipe pp { p with take := p.take + 1, reps := p.reps ++ [p.take], ctr := { p.ctr with rep := satAdd p.ctr.rep 1 32 } }

/-- The scan time of a line, numbered through the frames; none while its frame has not started. -/
def Pipe.lineTime (p : Pipe) (line : Nat) : Option Nat :=
  let x := p.image
  let n := line / pVact x
  match p.cur with
  | none => none
  | some m => if n < m then some 0 else if n = m then some (p.fs + (pVstart x + line % pVact x) * p.lclk / 65536) else none

/-- The scan time of the line that is scanned next. -/
def Pipe.lineAt (p : Pipe) : Option Nat := p.lineTime p.line

/-- The output slot of a line, and whether it is being read for the line's strip. -/
def State.lineSlot (s : State) (p : Pipe) (line : Nat) : Nat × Bool :=
  let x := p.image
  let n := line / pVact x
  let o := line % pVact x / pH x
  let k := s.slotKey x (pOring x) n o
  let sl := s.slot k
  (k, sl.st == 3 && sl.frame == n && sl.strip == o)

/-- A line of a slot of the output ring, as its bytes. -/
def State.ringLine (s : State) (x k y : Nat) : Nat :=
  let d := s.ringDesc (pOring x)
  memRead s.mem.bytes (rPixel d (k % 16) 0 0 y) (rWid d * fmtBytes (rFmt d))

/-- The consumers' reads of a line (02 R42, R56): the serialiser's, and the encoder's. -/
def State.lineReads (s : State) (x k y : Nat) : State :=
  let d := s.ringDesc (pOring x)
  let read (st : State) (edge : Nat) : State := (st.stopRead edge (rPixel d (k % 16) 0 0 y) (rWid d * fmtBytes (rFmt d))).2.2.2
  let s1 := if pDpo x then read s (pDpEdge x) else s
  if pEnc x then read s1 (pEncEdge x) else s1

/-- A line is read two lines ahead of its scan (14 R389), or as soon as its strip is taken: a taken strip's, and under `REPEAT` 2 a repeated
one's (R387). -/
def State.lineAhead (s : State) (pp : Nat) : State :=
  let p := s.pipe pp
  let x := p.image
  let l := p.line + p.ahead.length
  match p.lineTime l with
  | none => s
  | some t =>
    if !p.en || !pConsumer x || decide (s.clk + 2 * p.lclk / 65536 < t) || decide (p.take ≤ l / pVact x * pStrips x + l % pVact x / pH x) then s
    else
      let k := s.lineSlot p l
      let y := l % pVact x % pH x
      let reads := k.2 || (pDpo x && pRepeat x == 2)
      (if reads then s.lineReads x k.1 y else s).setPipe pp { p with
        ahead := p.ahead ++ [if reads then some (s.ringLine x k.1 y) else none] }

/-- 14 R387, R389: LINE_SCAN. A line is read ahead, and the next one scanned. Whether a line's data has arrived in time is left open: a free bit
decides, and a line that has not is replaced by the one before. The last line of a strip frees its slot. -/
def execLineScan (pp : Nat) (s0 : State) : Host.Outcome State Fault Refusal :=
  .next <|
    let s := s0.lineAhead pp
    let p := s.pipe pp
    let x := p.image
    let y := p.line % pVact x
    match p.lineAt, p.ahead with
    | some t, row :: rest =>
      if !p.en || !pConsumer x || decide (s.clk < t) then s
      else
        let k := s.lineSlot p p.line
        let under := row.isSome && Config.freeBit s.fresh
        let out := match row with
          | some r => if under then p.lineOut else r
          | none => if pRepeat x = 0 then p.lineOut else 0
        let s1 : State := { s with
          fresh := if row.isSome then s.fresh + 1 else s.fresh
          dps := if pDpo x then supd {} s.dps (pDpoNo x) (fun (d : DpOut) => { d with sent := out }) else s.dps }
        let s2 := s1.setPipe pp { p with
          line := p.line + 1, ahead := rest, lineOut := if pDpo x then out else p.lineOut
          ctr := { p.ctr with underrun := satAdd p.ctr.underrun (b2n under) 32 } }
        if k.2 && (y + 1 == pVact x || (y + 1) % pH x == 0) then s2.freeSlot k.1 else s2
    | _, _ => s

/-- The first line after an OBU's strip, from the start of the stream: a tile group is coded after its strip is scanned. -/
def Pipe.obuLine (p : Pipe) : Nat :=
  let x := p.image
  if p.enc.obu < 3 then p.enc.frame * pVact x else p.enc.frame * pVact x + min ((p.enc.obu - 2) * pH x) (pVact x)

/-- An encoder writes a byte in a context's S-space, where it is mapped. -/
def State.byteAt (s : State) (edge ctx va : Nat) (b : Byte) : State :=
  match s.ctxPa ctx va needW with
  | some pa => s.plainSpan edge deviceAgent pa 1 b.toNat 0
  | none => s

/-- The encoder goes on to its next frame (14 R391). -/
def Encoder.nextFrame (e : Encoder) (kint : Nat) (cut : Bool) : Encoder :=
  let since := if e.key then 1 else e.since + 1
  { e with frame := e.frame + 1, obu := 0, since := since, key := cut || (kint != 0 && decide (kint ≤ since)) }

/-- The least clk that an encoder takes for the present OBU of a pipeline: at 4 Gpixel/s, for a tile group (14 R391). -/
def Pipe.obuClk (p : Pipe) : Nat :=
  let x := p.image
  if p.enc.obu < 3 then 0 else (21 * pHact x * min (pH x) (pVact x - (p.enc.obu - 3) * pH x) + 79) / 80

/-- The encoder's `WOFF` of an OBU whose bytes have taken effect: a release, 17 clk after them (14 R391; 04 R102). -/
def State.obuRelease (s : State) (pp : Nat) (t : Nat) : State :=
  let p := s.pipe pp
  let x := p.image
  let e := p.enc
  if s.clk < t + 17 then s
  else
    let s1 := match s.ctxPa p.ctx (pEbuf x) needW with
      | some pa => s.plainSpan (pEncEdge x) deviceAgent pa 4 e.woff 0
      | none => s
    let e1 : Encoder := { e with wrote := none }
    let e2 : Encoder := { e1 with obu := if e.obu = 0 ∧ e.key = false then 2 else e.obu + 1 }
    s1.setPipe pp { p with enc := if e.obu = pStrips x + 2 then e1.nextFrame (pKint x) false else e2 }

/-- 14 R391: OBU_WRITE. An OBU of `n` free bytes enters the bitstream area, and then `WOFF`; one that does not fit ends the
frame's output. With a frame's last OBU its reference is stored. Each of the two encoders codes one OBU at a time (00 R2; log 99). -/
def execObuWrite (pp n : Nat) (s : State) : Host.Outcome State Fault Refusal :=
  .next <|
    let p := s.pipe pp
    let x := p.image
    let e := p.enc
    let begun := match p.cur with
      | some m => decide (e.frame ≤ m)
      | none => false
    if !p.en || !pEnc x then s
    else match e.wrote with
    | some t => s.obuRelease pp t
    | none =>
      let early := decide (p.line < p.obuLine ∨ s.clk < sget 0 s.encAt (pEncNo x) + p.obuClk)
      if !begun || n == 0 || early then s
      else
        let roff := match s.ctxPa p.ctx (pEbuf x + 4) needR with
          | some pa => let r := s.stopRead (pEncEdge x) pa 4; (r.1, r.2.2.2)
          | none => (0, s)
        let used := (e.woff % 2 ^ 32 + 2 ^ 32 - roff.1) % 2 ^ 32
        let s0 := { roff.2 with encAt := sput 0 s.encAt (pEncNo x) s.clk }
        if pEring x < used + n then
          s0.setPipe pp { p with enc := e.nextFrame (pKint x) true, ctr := { p.ctr with ebfull := satAdd p.ctr.ebfull 1 32 } }
        else
          let s1 := (List.range n).foldl (fun (st : State) i =>
            st.byteAt (pEncEdge x) p.ctx (pEbuf x + 256 + (e.woff + i) % pEring x) (Config.encoderByte (s.fresh + i))) s0
          let last := e.obu == pStrips x + 2
          let m := if last then 3 * pHact x * pVact x else 0
          let s2 := (List.range m).foldl (fun (st : State) i => st.byteAt (pEncEdge x) p.ctx (pEref x + i) (Config.encoderByte (s.fresh + n + i))) s1
          ({ s2 with fresh := s.fresh + n + m } : State).setPipe pp { p with enc := { e with woff := e.woff + n, wrote := some s.clk } }

end Sys2Proof.Machine
end

