-- ==== Sys2Proof/Machine/Default.lean ====
section
/-! DEFINITION. The passage of time, and which agents act in a mesh clk when the agenda names none (02 R45; 08 R229; 14 R363;
15 R415; 17 R448; log 1). -/
namespace Sys2Proof.Machine

/-! ### Time -/

/-- `%cyc` of the warps in their slots (08 R229); a rail change stops it (17 R447), and so does a resume in progress (16 R443). -/
def State.countCyc (s : State) (n : Nat) : State :=
  { s with warps := s.warps.map (fun x => (x.1, x.2.map (fun w =>
      let c := s.cluster (clusterOf (coreOf x.1))
      let from_ := max s.clk (min c.pause (s.clk + n))
      let started := match s.team w.team with
        | some t => t.status == .started
        | none => false
      if liveKey x.1 && started && (w.status == .resident || w.status == .parked) then
        { w with cyc := (w.cyc + arithClk c.rail from_ (s.clk + n - from_)) % 2 ^ 64 } else w))) }

/-- Whether an Ashlar context's team is resident, so that its waits are counted (12 R322). -/
def State.ashCounts (s : State) (ax : Nat) : Bool :=
  decide (ax < 384) && (match (s.ash ax).team with
    | some t => (match s.team t with
      | some x => x.status == .started
      | none => false)
    | none => false)

/-- The clk of a core within the next `n` mesh clk. -/
def State.clkIn (s : State) (core n : Nat) : Nat := arithClk (s.railOf core) s.clk n

/-- Held latches and unmatched arrivals grow older while their teams are resident (12 R322). -/
def State.countAsh (s : State) (n : Nat) : State :=
  let older (ax : Nat) (c : AshCtx) : AshCtx :=
    if s.ashCounts ax then { c with arrivals := c.arrivals.map (fun a => { a with held := a.held + s.clkIn (ax / 2) n }) } else c
  { s with
    ashs := s.ashs.map (fun x => (x.1, older x.1 x.2))
    latches := s.latches.map (fun x => (x.1, match x.2 with
      | .held ax id img c => .held ax id img (if s.ashCounts ax then c + s.clkIn (ax / 2) n else c)
      | y => y)) }

/-- A resident warp that carries neither `HINT memory` nor `HINT wait` breaks the time for which its cluster has had none (17 R448). -/
def State.countHints (s : State) (n : Nat) : State :=
  let restless := s.warps.filterMap (fun x => match x.2 with
    | some w => if liveKey x.1 && w.status == .resident && w.hint != 1 && w.hint != 2 then some (clusterOf (coreOf x.1)) else none
    | none => none)
  restless.eraseDups.foldl (fun st cl => st.updCluster cl (fun c => { c with lowSince := s.clk + n })) s

/-- `n` mesh clk pass: bank slots are served, the journal and the fault log written, counters and timers advance. -/
def State.advance (s : State) (n : Nat) : State :=
  let s0 := (s.passSlots (s.clk + n)).passLogs (s.clk + n)
  let s1 := ((s0.countCyc n).countAsh n).countHints n
  ({ s1 with clk := s.clk + n, tbase := s.tbase.tick n, lp := (s.lp.accept (s.clk + n)).countPostponed (s.clk + n) }).drainHost

/-! ### The issue choice of a sub-core -/

/-- Whether key 3 of 15 R415 puts a candidate behind the light ones (R416). -/
def State.pairsLate (s : State) (key nid : Nat) (i : Instr) : Bool :=
  let c := s.cluster (clusterOf (coreOf key))
  sget false s.heavy (key / 8) && decide (c.pairt < c.crec s.clk ∧ c.heavy ≤ s.chargeOf key nid i)

/-- The chosen path of a warp at no boundary fault, and the instruction it would issue. -/
def State.nextInstr (s : State) (key : Nat) : Option (Nat × Instr) :=
  match s.boundary key, s.choosePath key with
  | none, some nid => (match s.fetchAt key (s.node key nid).pc.toNat with
    | .instr i _ => some (nid, i)
    | _ => none)
  | _, _ => none

/-- A candidate of 15 R414 with its rank (R415); a warp whose boundary or fetch yields a fault is one too. -/
def State.rankOf (s : State) (key : Nat) : Option Nat :=
  match s.warp key, s.choosePath key with
  | some w, some _ =>
    if !s.issuable key then none
    else
      let late := match s.nextInstr key with
        | some x => if s.mayIssue key x.1 x.2 then some (s.pairsLate key x.1 x.2) else none
        | none => some false
      late.map (fun b => (((b2n (!w.strip) * 2 + b2n (!w.urgent)) * 2 + b2n b) * 2 ^ 64 + w.age % 2 ^ 64) * 8 + key % 8)
  | _, _ => none

/-- The candidates of each sub-core in the order of their ranks, the selected one first. -/
def State.ranking (s : State) : List (List Nat) :=
  let cand := s.warps.filterMap (fun x => (s.rankOf x.1).map (fun r => (x.1, r)))
  (cand.map (fun c => c.1 / 8)).eraseDups.map (fun u =>
    (sortBy (fun a b => decide (a.2 ≤ b.2)) (cand.filter (fun c => c.1 / 8 == u))).map (·.1))

/-- The place of a selected warp's attempt among those of a mesh clk (02 R54): urgent attempts by hold start, then by phase. -/
def State.attemptPlace (s : State) (key : Nat) : Nat :=
  match (s.warp key).bind (fun w => if w.urgent then w.heldAt else none) with
  | some t => t * 2 ^ 15 + phaseKey s.clk key
  | none => 2 ^ 100 + phaseKey s.clk key

/-- Rankings in the order in which their selected warps attempt to issue (02 R54). -/
def State.issueOrder (s : State) : List (List Nat) :=
  sortBy (fun a b => decide (s.attemptPlace (a.headD 0) ≤ s.attemptPlace (b.headD 0))) s.ranking

/-- Whether a warp's next instruction is one of the uniform unit (06 R162). -/
def State.wantsUni (s : State) (key : Nat) : Bool :=
  match s.nextInstr key with
  | some x => (s.infoAt key x.1 x.2).uni
  | none => false

/-- The selected warps that lose the uniform unit to the other sub-core of their pair (06 R162). -/
def State.uniLosers (s : State) (picks : List Nat) : List Nat :=
  let us := picks.filter s.wantsUni
  us.filter (fun k => decide ((k / 8) % 2 ≠ s.clk % 2) && us.any (fun j => j / 16 == k / 16 && j / 8 != k / 8))

/-- Whether a warp may issue in place of the selected one (15 R417; 17 R452). -/
def State.mayReplace (s : State) (key : Nat) : Bool :=
  match s.nextInstr key with
  | some x => !(issueInfo x.2).mem && !(issueInfo x.2).uni && !s.heldBack key x.1 x.2
  | none => true

/-- Whether a later candidate is passed over since 17 R452 holds it back. -/
def State.passedOver (s : State) (key : Nat) : Bool :=
  match s.nextInstr key with
  | some x => s.heldBack key x.1 x.2
  | none => false

/-! ### A clk of the machine left to itself -/

/-- The effect of an event. -/
abbrev Meaning := State → Host.Outcome State Fault Refusal

/-- Paths of a slot that its events may concern. -/
def State.pathsOf (s : State) (key : Nat) : List Nat := 64 :: s.entries key

/-- Events of warps that may fall due. -/
def State.warpEvents (s : State) : List Meaning :=
  (s.warps.filterMap (fun x => x.2.map (fun _ => x.1))).flatMap (fun k =>
    [execMemoryWriteback k, execAttemptUrgent k]
      ++ (s.pathsOf k).flatMap (fun m => [execFrameMoveDone k m, execYieldExpiry k m, execMonitorRecheck k m, execTicketAnswer k m, execFragDelivery k m,
        execTraceComplete k m, execAreadDelivery k m])
      ++ [execWarpRelease k])

/-- The state that a meaning leaves. -/
def nextOf (f : Meaning) (s : State) : State :=
  match f s with
  | .next t => t
  | _ => s

/-- What the Hod of a core attempts in a clk: the records of its queues, then the units of its slots, which take turns (log 94). -/
def State.hodClk (s : State) (core : Nat) : State :=
  let turn := (List.range 4).map (fun i => (s.clk + i) % 4)
  ((s.hod core).qs.map (fun q => execHodRecordRead core q.1) ++ turn.map (fun t => execHodUnitWrite core t)
    ++ turn.map (fun t => execHodUnitRead core t)).foldl (fun st f => nextOf f st) s

/-- The one attempt of the Hod and the Ashlar port of a core in a clk (12 R316): where both have one ready they alternate, the Hod first. -/
def State.hodPort (s : State) (core : Nat) : State :=
  let h := s.hodClk core
  if (s.portOp core).isNone then h
  else if (h.hod core).tried ≤ s.clk then h.portAttempt core
  else if sget false s.portNext core then
    (({ s.hodTries core with portNext := sput false s.portNext core false } : State).hodClk core).portAttempt core
  else { h with portNext := sput false h.portNext core true }

/-- The reservation attempts of engines and edge stops in a mesh clk, by ascending requester (02 R54): Hods with their Ashlar ports, edge
stops, texture units and then the traversal units (log 87), core transfer engines. -/
def State.attemptEvents (s : State) : List Meaning :=
  let ports := (s.ashs.filter (fun (a : Nat × AshCtx) => decide (a.1 < 384))).map (fun a => a.1 / 2)
  let cores := sortBy (fun (a b : Nat) => decide (a ≤ b)) (s.hods.map (fun h => h.1) ++ ports).eraseDups
  let warps := s.warps.filterMap (fun x => x.2.map (fun _ => x.1))
  let reqs := s.traffic.map (·.1)
  cores.map (fun c st => .next (st.hodPort c))
    ++ (reqs.filter (fun r => decide (r < 216))).map (fun r st => .next (st.trafficAttempt r))
    ++ warps.flatMap (fun k => (s.pathsOf k).map (fun m => execTextureSegmentAttempt k m))
    ++ warps.map (fun k st => .next (st.traceAttempt k))
    ++ (reqs.filter (fun r => decide (216 ≤ r))).map (fun r st => .next (st.trafficAttempt r))

/-- Deadlines that have expired before a clk (08 R228). -/
def State.deadlines (s : State) (clk : Nat) : List Meaning :=
  s.warps.filterMap (fun x => x.2.bind (fun w => if w.deadline < clk || w.dlHit then some (execDeadline x.1) else none))

/-- The granules the patrol scrubbers are to read (02 R42, R43): those queued, and of each slice the next of its pass; log 91. -/
def State.scrubsDue (s : State) : List Nat :=
  s.mem.scrubQ.map (· * 32) ++ (List.range 192).filterMap (fun sl =>
    let n := sget 0 s.mem.patrol sl
    if n * 200 ≤ s.clk - s.lp.epoch then some ((sl * 2 ^ 19 + n % 2 ^ 19) * 32) else none)

/-- The burst each controller is to scrub next (03 R71); log 91. -/
def State.burstsDue (s : State) : List Nat :=
  (List.range 64).filterMap (fun q =>
    let n := (s.lp.subOf q).scrubbed
    if n * 300000 ≤ s.clk - s.lp.epoch then some (scrubBurst q n) else none)

/-- Events of the engines that may fall due. -/
def State.engineEvents (s : State) : List Meaning :=
  s.hods.flatMap (fun h =>
    let slots := h.2.slots.map (·.1)
    [execHodCommandStart h.1]
      ++ slots.flatMap (fun t => [execPageWalk h.1 t, execEvictWaitEnd h.1 t, execHldrDelivery h.1 t,
        execHodCommandComplete h.1 t, execRepairComplete h.1 t]))
    ++ (List.range 64).flatMap (fun q => execRefreshRatePoll q (b2n (s.lp.subOf q).twice) :: execRefreshSlotDue q
      :: (List.range 16).map (fun b => execLpddrAccessStart q b) ++ [execPerBankRefresh q, execAllBankRefresh q])
    ++ s.scrubsDue.map execPatrolScrub ++ s.burstsDue.map execLpddrScrub
    ++ s.fabs.flatMap (fun f => execReductionCommandStart f.1 :: (s.chunksDue f.1).map (execChunkComplete f.1))
    ++ s.ashs.flatMap (fun a => [execAshlarOpComplete a.1, execLatchHold (a.1 / 2), execAshlarOpStart a.1, execRendezvousTimeout (96 + a.1)])
    ++ (List.range 96).map (fun p => execLatchJoin p) ++ (s.latches.map (fun l => execRendezvousTimeout (l.1 / 32 * 16 + l.1 % 16)))
    ++ s.mem.wakes.map (fun w => execMonitorWake w.1)

/-- Events of scheduling, commands and strips that may fall due. -/
def State.schedEvents (s : State) : List Meaning :=
  let teams := s.teams.filterMap (fun x => x.2.map (fun t => (x.1, t)))
  let walks := s.walkers.filterMap (fun x => x.2.map (fun w => (x.1, w.n)))
  let pipes := s.pipes.filterMap (fun x => if x.2.en then some (x.1, x.2) else none)
  [execFwVerifyDone, execCtxCreate, execCtxDestroy, execSegCommit, execShootdown, execHwinSet, execExportSet, execRouteSet, execHodPlace,
    execRingSet, execPipeSet, execPipeEnable, execPipeDisable, execResume, execKill, execPswap, execMargin, execLifecycle, execDpTrain, execAuxXfer, execAttest]
    ++ s.ctxs.flatMap (fun c => [execProtectRelease c.1, execSegCommitDone c.1, execShootdownDone c.1, execFaultRecordWrite c.1, execHandlerLaunchStart c.1])
    ++ s.queues.map (fun q => execLaunchAccept q.1)
    ++ walks.flatMap (fun w => (List.range w.2).flatMap (fun m => [execCondRecheck w.1 m, execTraverseNodeDone w.1 m, execWaittimeExpiry w.1 m]))
    ++ s.launches.flatMap (fun l => [execGraphPlace l.1, execLaunchComplete l.1])
    ++ pipes.flatMap (fun p => [execFrameStart p.1, execBinNodeComplete p.1, execBinNodeLate p.1, execStripConsumerTake p.1 (p.2.take % pStrips p.2.image),
        execLineScan p.1, execFragmentCommit p.1] ++ (if p.2.enc.wrote.isSome then [execObuWrite p.1 0] else [])
      ++ p.2.chains.flatMap (fun h => let ch := h.ix * 4 + p.1
        [execPlumbReserve ch, execChainLate ch, execChainRelease ch, execNodeSlotFree ch, execPixelWarpLaunch ch, execChainNodeDone ch h.node]))
    ++ teams.flatMap (fun t => [execTeamSave t.1, execTeamDiscard t.1, execTeamStart t.1, execTeamResume t.1 t.2.core, execMeshletHandoff t.1])
    ++ [execDistributorDecision]
    ++ s.clusters.flatMap (fun c => [execForceClear c.1, execLowRailIdle c.1, execRailSwitch c.1 0, execRailSwitch c.1 1])

/-- The events that may fall due in a mesh clk which the agenda leaves to the machine (log 1), the end of a wipe first. One that is not due
changes nothing. -/
def State.dueEvents (s : State) : List Meaning := execWipeComplete :: (s.warpEvents ++ s.engineEvents ++ s.schedEvents)

end Sys2Proof.Machine
end

