-- ==== Sys2Proof/Machine/Geometry.lean ====
section
/-! DEFINITION. Geometry output: EMITV, EMITP, MSETC, DISCARD, SRATE (13 R359-R362). -/
namespace Sys2Proof.Machine

/-- The meshlet of a warp's team. -/
def State.meshOf (s : State) (w : Warp) : Mesh :=
  match s.team w.team with
  | some t => t.mesh
  | none => {}

/-- Replaces the meshlet of a warp's team. -/
def State.setMesh (s : State) (w : Warp) (m : Mesh) : State :=
  match s.team w.team with
  | some t => s.setTeam w.team (some { t with mesh := m })
  | none => s

/-- The shape of the GEOM group: legal in the stages of `legal` alone, its operand codes checked by stage at every issue (07 R194),
one action when any lane is active, with the lanes that take POISON_USE. -/
def execGeom (s : State) (legal : Nat → Bool) (chk : Nat → Bool) (codes : List Nat)
    (body : Ctx → State → Except Trap (State × List LaneFault)) : Host.Outcome State Fault Refusal :=
  issuing s true fun c s1 => do
    need (legal c.w.stageKind) trapInstr
    need (chk c.w.stageKind) trapOpnd
    if !c.any then return s1.finish c (c.npc codes) .kill
    else
      let r ← body c s1
      return r.1.finish c (c.npc codes) .kill r.2

/-- Lanes split by whether a register of theirs is poisoned. -/
def splitPoison (c : Ctx) (bad : Nat → Bool) : List Nat × List LaneFault :=
  ((lanesOf c.act).filter (fun l => !bad l), ((lanesOf c.act).filter bad).map (fun l => ⟨l, 5, 0, 0⟩))

/-- 13 R360, R361 EMITV. -/
def execEmitv (p q u : Nat) (s : State) : Host.Outcome State Fault Refusal :=
  execGeom s (fun k => k == 1 || k == 2) (fun k => decide (u ≤ 60) && srcNoLatch p && uniOk q && (k == 1 || p == 103)) [p, q]
      fun c s1 => do
    let k ← c.uval q
    let data (l : Nat) : List Val := (List.range 4).map (fun i => c.opnd (u + i) l)
    let put (m : Sparse Nat) (base l : Nat) : Sparse Nat :=
      ((data l).zip (List.range 4)).foldl (fun (a : Sparse Nat) x => sput 0 a (base + x.2) x.1.bits.toNat) m
    if c.w.stageKind = 2 then
      need (decide (k ≤ 3)) trapOpnd
      let r := splitPoison c (fun l => (data l).any (·.psn))
      let s2 := s1.updWarp c.key (fun w => r.1.foldl (fun (a : Warp) l =>
        { a with colour := put a.colour ((l * 4 + k) * 4) l, emitted := sput false a.emitted (l * 4 + k) true }) w)
      return (s2, r.2)
    else
      let m := s1.meshOf c.w
      let ix (l : Nat) : Val := c.opnd p l
      let r := splitPoison c (fun l => (ix l).psn || (data l).any (·.psn))
      need (m.set && decide (k ≤ m.g) && r.1.all (fun l => decide ((ix l).bits.toNat < m.nv))) trapOpnd
      let vs := r.1.foldl (fun (a : Sparse Nat) l => put a (((ix l).bits.toNat * 5 + k) * 4) l) m.verts
      return (s1.setMesh c.w { m with verts := vs }, r.2)

/-- 13 R360 EMITP. A primitive's word is held with bit 32 set, so that an unwritten one differs from it. -/
def execEmitp (p u : Nat) (s : State) : Host.Outcome State Fault Refusal :=
  execGeom s (· == 1) (fun _ => srcNoLatch p && decide (u ≤ 63)) [p] fun c s1 => do
    let m := s1.meshOf c.w
    let ix (l : Nat) : Val := c.opnd p l
    let dw (l : Nat) : Val := c.opnd u l
    let r := splitPoison c (fun l => (ix l).psn || (dw l).psn)
    let ok (l : Nat) : Bool :=
      let x := (dw l).bits.toNat
      decide ((ix l).bits.toNat < m.np) && bitsN x 31 25 == 0
        && decide (bitsN x 7 0 < m.nv ∧ bitsN x 15 8 < m.nv ∧ bitsN x 23 16 < m.nv)
    need (m.set && r.1.all ok) trapOpnd
    let ps := r.1.foldl (fun (a : Sparse Nat) l => sput 0 a (ix l).bits.toNat ((dw l).bits.toNat + 2 ^ 32)) m.prims
    return (s1.setMesh c.w { m with prims := ps }, r.2)

/-- 13 R360 MSETC. -/
def execMsetc (p q u : Nat) (s : State) : Host.Outcome State Fault Refusal :=
  execGeom s (· == 1) (fun _ => uniOk q && uniOk u && decide (p ≤ 4)) [q, u] fun c s1 => do
    let nv ← c.uval q
    let np ← c.uval u
    let m := s1.meshOf c.w
    need (decide (nv ≤ 128 ∧ np ≤ 256) && (!m.set || (m.nv == nv && m.np == np && m.g == p))) trapOpnd
    return (s1.setMesh c.w { m with set := true, nv := nv, np := np, g := p }, [])

/-- 13 R362 SRATE. -/
def execSrate (q : Nat) (s : State) : Host.Outcome State Fault Refusal :=
  execGeom s (· == 1) (fun _ => uniOk q) [q] fun c s1 => do
    let k ← c.uval q
    need (decide (k ≤ 4)) trapOpnd
    return (s1.setMesh c.w { s1.meshOf c.w with srate := k }, [])

/-- 13 R361 DISCARD. -/
def execDiscard (s : State) : Host.Outcome State Fault Refusal :=
  issuing s true fun c s1 => do
    need (c.w.stageKind == 2) trapInstr
    let s2 := s1.updWarp c.key (fun w => { w with killedPix := w.killedPix ||| c.act })
    return (s2.finish c (c.npc []) .kill).leaveLanes c.key c.nid c.act

end Sys2Proof.Machine
end

