-- ==== Sys2Proof/Machine/Dispatch.lean ====
section
/-! DEFINITION. Dispatch: one arm per constructor of Instr, each one direct call of the instruction's meaning. -/
namespace Sys2Proof.Machine

/-- The effect of an instruction or hardware event. -/
def exec (i : Instr) (s : State) : Host.Outcome State Fault Refusal :=
  match i with
  | .nop => Sys2Proof.Machine.execNop s
  | .exit => Sys2Proof.Machine.execExit s
  | .trap c => Sys2Proof.Machine.execTrap c s
  | .bkpt t => Sys2Proof.Machine.execBkpt t s
  | .srd d u => Sys2Proof.Machine.execSrd d u s
  | .swr a u => Sys2Proof.Machine.execSwr a u s
  | .clk d u => Sys2Proof.Machine.execClk d u s
  | .yield c => Sys2Proof.Machine.execYield c s
  | .spin => Sys2Proof.Machine.execSpin s
  | .hint h => Sys2Proof.Machine.execHint h s
  | .timer a => Sys2Proof.Machine.execTimer a s
  | .idem e => Sys2Proof.Machine.execIdem e s
  | .mode m => Sys2Proof.Machine.execMode m s
  | .modex u => Sys2Proof.Machine.execModex u s
  | .bra v p o => Sys2Proof.Machine.execBra v p o s
  | .call f o => Sys2Proof.Machine.execCall f o s
  | .brx a => Sys2Proof.Machine.execBrx a s
  | .callx a f => Sys2Proof.Machine.execCallx a f s
  | .ret => Sys2Proof.Machine.execRet s
  | .join => Sys2Proof.Machine.execJoin s
  | .await a n => Sys2Proof.Machine.execAwait a n s
  | .spawn d a => Sys2Proof.Machine.execSpawn d a s
  | .tsignal a => Sys2Proof.Machine.execTsignal a s
  | .tcond v a => Sys2Proof.Machine.execTcond v a s
  | .movi n d j => Sys2Proof.Machine.execMovi n d j s
  | .movhi d j => Sys2Proof.Machine.execMovhi d j s
  | .add n d a b => Sys2Proof.Machine.execAdd n d a b s
  | .sub n d a b => Sys2Proof.Machine.execSub n d a b s
  | .mul n d a b => Sys2Proof.Machine.execMul n d a b s
  | .mulhi n d a b => Sys2Proof.Machine.execMulhi n d a b s
  | .min n d a b => Sys2Proof.Machine.execMin n d a b s
  | .max n d a b => Sys2Proof.Machine.execMax n d a b s
  | .abs n d a => Sys2Proof.Machine.execAbs n d a s
  | .neg n d a => Sys2Proof.Machine.execNeg n d a s
  | .scale n d a b => Sys2Proof.Machine.execScale n d a b s
  | .copysign n d a b => Sys2Proof.Machine.execCopysign n d a b s
  | .getexp n d a => Sys2Proof.Machine.execGetexp n d a s
  | .cmp d a b c => Sys2Proof.Machine.execCmp d a b c s
  | .classOf d a b => Sys2Proof.Machine.execClassOf d a b s
  | .fma n d a b => Sys2Proof.Machine.execFma n d a b s
  | .fms n d a b => Sys2Proof.Machine.execFms n d a b s
  | .fnma n d a b => Sys2Proof.Machine.execFnma n d a b s
  | .fnms n d a b => Sys2Proof.Machine.execFnms n d a b s
  | .rcp n d a => Sys2Proof.Machine.execRcp n d a s
  | .rsq n d a => Sys2Proof.Machine.execRsq n d a s
  | .sqrt n d a => Sys2Proof.Machine.execSqrt n d a s
  | .ex2 n d a => Sys2Proof.Machine.execEx2 n d a s
  | .lg2 n d a => Sys2Proof.Machine.execLg2 n d a s
  | .sin n d a => Sys2Proof.Machine.execSin n d a s
  | .cos n d a => Sys2Proof.Machine.execCos n d a s
  | .tanh n d a => Sys2Proof.Machine.execTanh n d a s
  | .frc n d a => Sys2Proof.Machine.execFrc n d a s
  | .flr n d a => Sys2Proof.Machine.execFlr n d a s
  | .ceil n d a => Sys2Proof.Machine.execCeil n d a s
  | .rnd n d a => Sys2Proof.Machine.execRnd n d a s
  | .trunc n d a => Sys2Proof.Machine.execTrunc n d a s
  | .cvt n d a b t => Sys2Proof.Machine.execCvt n d a b t s
  | .pack2 n d a b => Sys2Proof.Machine.execPack2 n d a b s
  | .pack4 n d a b => Sys2Proof.Machine.execPack4 n d a b s
  | .unpacklo n d a => Sys2Proof.Machine.execUnpacklo n d a s
  | .unpackhi n d a => Sys2Proof.Machine.execUnpackhi n d a s
  | .dot2 n d a b => Sys2Proof.Machine.execDot2 n d a b s
  | .dot4 n d a b => Sys2Proof.Machine.execDot4 n d a b s
  | .addW n d a b => Sys2Proof.Machine.execAddW n d a b s
  | .subW n d a b => Sys2Proof.Machine.execSubW n d a b s
  | .mulW n d a b => Sys2Proof.Machine.execMulW n d a b s
  | .mulhiW n d a b => Sys2Proof.Machine.execMulhiW n d a b s
  | .mulhuW n d a b => Sys2Proof.Machine.execMulhuW n d a b s
  | .minW n d a b => Sys2Proof.Machine.execMinW n d a b s
  | .maxW n d a b => Sys2Proof.Machine.execMaxW n d a b s
  | .minuW n d a b => Sys2Proof.Machine.execMinuW n d a b s
  | .maxuW n d a b => Sys2Proof.Machine.execMaxuW n d a b s
  | .lea n d a b k => Sys2Proof.Machine.execLea n d a b k s
  | .madW n d a b => Sys2Proof.Machine.execMadW n d a b s
  | .addiW n d a j => Sys2Proof.Machine.execAddiW n d a j s
  | .and n d a b => Sys2Proof.Machine.execAnd n d a b s
  | .or n d a b => Sys2Proof.Machine.execOr n d a b s
  | .xor n d a b => Sys2Proof.Machine.execXor n d a b s
  | .andn n d a b => Sys2Proof.Machine.execAndn n d a b s
  | .shl n d a b => Sys2Proof.Machine.execShl n d a b s
  | .shr n d a b => Sys2Proof.Machine.execShr n d a b s
  | .shra n d a b => Sys2Proof.Machine.execShra n d a b s
  | .rol n d a b => Sys2Proof.Machine.execRol n d a b s
  | .popc n d a => Sys2Proof.Machine.execPopc n d a s
  | .clz n d a => Sys2Proof.Machine.execClz n d a s
  | .brev n d a => Sys2Proof.Machine.execBrev n d a s
  | .prmt n d a b => Sys2Proof.Machine.execPrmt n d a b s
  | .bfe n d a b => Sys2Proof.Machine.execBfe n d a b s
  | .mov n d a => Sys2Proof.Machine.execMov n d a s
  | .andi n d a j => Sys2Proof.Machine.execAndi n d a j s
  | .ori n d a j => Sys2Proof.Machine.execOri n d a j s
  | .xori n d a j => Sys2Proof.Machine.execXori n d a j s
  | .shli n d a c => Sys2Proof.Machine.execShli n d a c s
  | .shri n d a c => Sys2Proof.Machine.execShri n d a c s
  | .shrai n d a c => Sys2Proof.Machine.execShrai n d a c s
  | .bfi n d a b => Sys2Proof.Machine.execBfi n d a b s
  | .sel n d a b v p => Sys2Proof.Machine.execSel n d a b v p s
  | .cmpW d a b c => Sys2Proof.Machine.execCmpW d a b c s
  | .pand d a b => Sys2Proof.Machine.execPand d a b s
  | .por d a b => Sys2Proof.Machine.execPor d a b s
  | .pxor d a b => Sys2Proof.Machine.execPxor d a b s
  | .pnot d a => Sys2Proof.Machine.execPnot d a s
  | .pmovs n d => Sys2Proof.Machine.execPmovs n d s
  | .pmovp a b => Sys2Proof.Machine.execPmovp a b s
  | .ballot n d a k => Sys2Proof.Machine.execBallot n d a k s
  | .vany d a => Sys2Proof.Machine.execVany d a s
  | .vall d a => Sys2Proof.Machine.execVall d a s
  | .shflIdx n d a b => Sys2Proof.Machine.execShflIdx n d a b s
  | .shflUp n d a b => Sys2Proof.Machine.execShflUp n d a b s
  | .shflDn n d a b => Sys2Proof.Machine.execShflDn n d a b s
  | .shflXor n d a b => Sys2Proof.Machine.execShflXor n d a b s
  | .elect d => Sys2Proof.Machine.execElect d s
  | .readlane n d a k => Sys2Proof.Machine.execReadlane n d a k s
  | .bcast n d a => Sys2Proof.Machine.execBcast n d a s
  | .match n d a k => Sys2Proof.Machine.execMatch n d a k s
  | .wreduceAdd n d a => Sys2Proof.Machine.execWreduceAdd n d a s
  | .wreduceMin n d a => Sys2Proof.Machine.execWreduceMin n d a s
  | .wreduceMax n d a => Sys2Proof.Machine.execWreduceMax n d a s
  | .ld d a o z => Sys2Proof.Machine.execLd d a o z s
  | .st d a o z => Sys2Proof.Machine.execSt d a o z s
  | .ldaq d a o z c => Sys2Proof.Machine.execLdaq d a o z c s
  | .strl d a o z c => Sys2Proof.Machine.execStrl d a o z c s
  | .atomDv d a b o => Sys2Proof.Machine.execAtomDv d a b o s
  | .atomTm d a b o => Sys2Proof.Machine.execAtomTm d a b o s
  | .redDv a b o => Sys2Proof.Machine.execRedDv a b o s
  | .redTm a b o => Sys2Proof.Machine.execRedTm a b o s
  | .waitc a => Sys2Proof.Machine.execWaitc a s
  | .fence u => Sys2Proof.Machine.execFence u s
  | .pchk p q => Sys2Proof.Machine.execPchk p q s
  | .binit q u => Sys2Proof.Machine.execBinit q u s
  | .announceIn q u => Sys2Proof.Machine.execAnnounceIn q u s
  | .announceOut q u => Sys2Proof.Machine.execAnnounceOut q u s
  | .arrive p q => Sys2Proof.Machine.execArrive p q s
  | .bwait p q u => Sys2Proof.Machine.execBwait p q u s
  | .btest p q u => Sys2Proof.Machine.execBtest p q u s
  | .semwaitDraw p q => Sys2Proof.Machine.execSemwaitDraw p q s
  | .semwait q u => Sys2Proof.Machine.execSemwait q u s
  | .sempost q u => Sys2Proof.Machine.execSempost q u s
  | .rpushRsv p q => Sys2Proof.Machine.execRpushRsv p q s
  | .rpushPub q u => Sys2Proof.Machine.execRpushPub q u s
  | .rpopTake p q => Sys2Proof.Machine.execRpopTake p q s
  | .rpopFree q u => Sys2Proof.Machine.execRpopFree q u s
  | .rpeek p q => Sys2Proof.Machine.execRpeek p q s
  | .hcopy p q => Sys2Proof.Machine.execHcopy p q s
  | .hcopys p q => Sys2Proof.Machine.execHcopys p q s
  | .hgather p q => Sys2Proof.Machine.execHgather p q s
  | .hscatter p q => Sys2Proof.Machine.execHscatter p q s
  | .hstage p q => Sys2Proof.Machine.execHstage p q s
  | .hevict p q => Sys2Proof.Machine.execHevict p q s
  | .hfill p q => Sys2Proof.Machine.execHfill p q s
  | .hmeta p q => Sys2Proof.Machine.execHmeta p q s
  | .hquery p q => Sys2Proof.Machine.execHquery p q s
  | .hldr p q z => Sys2Proof.Machine.execHldr p q z s
  | .rring p q => Sys2Proof.Machine.execRring p q s
  | .rtree p q => Sys2Proof.Machine.execRtree p q s
  | .rstat p q => Sys2Proof.Machine.execRstat p q s
  | .tctl t q => Sys2Proof.Machine.execTctl t q s
  | .trdc p k j => Sys2Proof.Machine.execTrdc p k j s
  | .tzero t => Sys2Proof.Machine.execTzero t s
  | .tscl t q => Sys2Proof.Machine.execTscl t q s
  | .gang q => Sys2Proof.Machine.execGang q s
  | .tld t q u => Sys2Proof.Machine.execTld t q u s
  | .tst t q u => Sys2Proof.Machine.execTst t q u s
  | .mma d a p b => Sys2Proof.Machine.execMma d a p b s
  | .mmas k d a p b => Sys2Proof.Machine.execMmas k d a p b s
  | .azero d q => Sys2Proof.Machine.execAzero d q s
  | .adrain z d q u => Sys2Proof.Machine.execAdrain z d q u s
  | .aread p q d => Sys2Proof.Machine.execAread p q d s
  | .awrite p q d => Sys2Proof.Machine.execAwrite p q d s
  | .tex p q u => Sys2Proof.Machine.execTex p q u s
  | .texb p q u => Sys2Proof.Machine.execTexb p q u s
  | .texq p q u => Sys2Proof.Machine.execTexq p q u s
  | .hgf p q u => Sys2Proof.Machine.execHgf p q u s
  | .hgsFast p q u => Sys2Proof.Machine.execHgsFast p q u s
  | .hgsExact p q u => Sys2Proof.Machine.execHgsExact p q u s
  | .trace q u => Sys2Proof.Machine.execTrace q u s
  | .rsort p q u => Sys2Proof.Machine.execRsort p q u s
  | .hitget p q => Sys2Proof.Machine.execHitget p q s
  | .emitv p q u => Sys2Proof.Machine.execEmitv p q u s
  | .emitp p u => Sys2Proof.Machine.execEmitp p u s
  | .msetc p q u => Sys2Proof.Machine.execMsetc p q u s
  | .discard => Sys2Proof.Machine.execDiscard s
  | .srate q => Sys2Proof.Machine.execSrate q s
  | .fqpop p q => Sys2Proof.Machine.execFqpop p q s
  | .finfo p q u => Sys2Proof.Machine.execFinfo p q u s
  | .fresume p q u => Sys2Proof.Machine.execFresume p q u s
  | .fkill p q => Sys2Proof.Machine.execFkill p q s
  | .memoryWriteback k => Sys2Proof.Machine.execMemoryWriteback k s
  | .attemptUrgent k => Sys2Proof.Machine.execAttemptUrgent k s
  | .warpRelease k => Sys2Proof.Machine.execWarpRelease k s
  | .frameMoveDone k m => Sys2Proof.Machine.execFrameMoveDone k m s
  | .monitorWake sl => Sys2Proof.Machine.execMonitorWake sl s
  | .monitorRecheck k m => Sys2Proof.Machine.execMonitorRecheck k m s
  | .deadline k => Sys2Proof.Machine.execDeadline k s
  | .yieldExpiry k m => Sys2Proof.Machine.execYieldExpiry k m s
  | .ticketAnswer k m => Sys2Proof.Machine.execTicketAnswer k m s
  | .fragDelivery k m => Sys2Proof.Machine.execFragDelivery k m s
  | .hldrDelivery core m => Sys2Proof.Machine.execHldrDelivery core m s
  | .textureSegmentAttempt k m => Sys2Proof.Machine.execTextureSegmentAttempt k m s
  | .traceComplete k m => Sys2Proof.Machine.execTraceComplete k m s
  | .hodRecordRead core q => Sys2Proof.Machine.execHodRecordRead core q s
  | .hodCommandStart core => Sys2Proof.Machine.execHodCommandStart core s
  | .hodUnitRead core t => Sys2Proof.Machine.execHodUnitRead core t s
  | .hodUnitWrite core t => Sys2Proof.Machine.execHodUnitWrite core t s
  | .pageWalk core t => Sys2Proof.Machine.execPageWalk core t s
  | .evictWaitEnd core t => Sys2Proof.Machine.execEvictWaitEnd core t s
  | .hodCommandComplete core t => Sys2Proof.Machine.execHodCommandComplete core t s
  | .repairComplete core t => Sys2Proof.Machine.execRepairComplete core t s
  | .lpddrAccessStart q b => Sys2Proof.Machine.execLpddrAccessStart q b s
  | .refreshSlotDue q => Sys2Proof.Machine.execRefreshSlotDue q s
  | .perBankRefresh q => Sys2Proof.Machine.execPerBankRefresh q s
  | .allBankRefresh q => Sys2Proof.Machine.execAllBankRefresh q s
  | .refreshRatePoll q r => Sys2Proof.Machine.execRefreshRatePoll q r s
  | .lpddrScrub a => Sys2Proof.Machine.execLpddrScrub a s
  | .patrolScrub a => Sys2Proof.Machine.execPatrolScrub a s
  | .hostApertureRead a n => Sys2Proof.Machine.execHostApertureRead a n s
  | .hostApertureWrite a n x ps => Sys2Proof.Machine.execHostApertureWrite a n x ps s
  | .registerWrite a x => Sys2Proof.Machine.execRegisterWrite a x s
  | .ticketsWrite q x => Sys2Proof.Machine.execTicketsWrite q x s
  | .tbStep => Sys2Proof.Machine.execTbStep s
  | .tbIncWrite x => Sys2Proof.Machine.execTbIncWrite x s
  | .ppsCapture => Sys2Proof.Machine.execPpsCapture s
  | .refLockLoss => Sys2Proof.Machine.execRefLockLoss s
  | .launchAccept q => Sys2Proof.Machine.execLaunchAccept q s
  | .distributorDecision => Sys2Proof.Machine.execDistributorDecision s
  | .teamStart t => Sys2Proof.Machine.execTeamStart t s
  | .launchComplete l => Sys2Proof.Machine.execLaunchComplete l s
  | .graphPlace l => Sys2Proof.Machine.execGraphPlace l s
  | .traverseNodeDone tw m => Sys2Proof.Machine.execTraverseNodeDone tw m s
  | .condRecheck tw m => Sys2Proof.Machine.execCondRecheck tw m s
  | .waittimeExpiry tw m => Sys2Proof.Machine.execWaittimeExpiry tw m s
  | .frameStart pp => Sys2Proof.Machine.execFrameStart pp s
  | .meshletHandoff t => Sys2Proof.Machine.execMeshletHandoff t s
  | .binNodeComplete pp => Sys2Proof.Machine.execBinNodeComplete pp s
  | .binNodeLate pp => Sys2Proof.Machine.execBinNodeLate pp s
  | .plumbReserve ch => Sys2Proof.Machine.execPlumbReserve ch s
  | .chainRelease ch => Sys2Proof.Machine.execChainRelease ch s
  | .nodeSlotFree ch => Sys2Proof.Machine.execNodeSlotFree ch s
  | .chainNodeDone ch m => Sys2Proof.Machine.execChainNodeDone ch m s
  | .chainLate ch => Sys2Proof.Machine.execChainLate ch s
  | .pixelWarpLaunch ch => Sys2Proof.Machine.execPixelWarpLaunch ch s
  | .fragmentCommit k => Sys2Proof.Machine.execFragmentCommit k s
  | .stripConsumerTake pp st => Sys2Proof.Machine.execStripConsumerTake pp st s
  | .lineScan pp => Sys2Proof.Machine.execLineScan pp s
  | .obuWrite pp x => Sys2Proof.Machine.execObuWrite pp x s
  | .latchHold core => Sys2Proof.Machine.execLatchHold core s
  | .latchJoin pr => Sys2Proof.Machine.execLatchJoin pr s
  | .rendezvousTimeout pr => Sys2Proof.Machine.execRendezvousTimeout pr s
  | .ashlarOpStart ax => Sys2Proof.Machine.execAshlarOpStart ax s
  | .ashlarOpComplete ax => Sys2Proof.Machine.execAshlarOpComplete ax s
  | .areadDelivery k m => Sys2Proof.Machine.execAreadDelivery k m s
  | .faultRecordWrite cx => Sys2Proof.Machine.execFaultRecordWrite cx s
  | .handlerLaunchStart cx => Sys2Proof.Machine.execHandlerLaunchStart cx s
  | .teamSave t => Sys2Proof.Machine.execTeamSave t s
  | .teamResume t core => Sys2Proof.Machine.execTeamResume t core s
  | .teamDiscard t => Sys2Proof.Machine.execTeamDiscard t s
  | .protectRelease cx => Sys2Proof.Machine.execProtectRelease cx s
  | .segCommitDone cx => Sys2Proof.Machine.execSegCommitDone cx s
  | .shootdownDone cx => Sys2Proof.Machine.execShootdownDone cx s
  | .peerRequest dev a op x => Sys2Proof.Machine.execPeerRequest dev a op x s
  | .chunkMessage core c mem => Sys2Proof.Machine.execChunkMessage core c mem s
  | .chunkComplete core c => Sys2Proof.Machine.execChunkComplete core c s
  | .portDown po => Sys2Proof.Machine.execPortDown po s
  | .portUp po => Sys2Proof.Machine.execPortUp po s
  | .dpHotplug po x => Sys2Proof.Machine.execDpHotplug po x s
  | .sensorSample cl se x => Sys2Proof.Machine.execSensorSample cl se x s
  | .forceClear cl => Sys2Proof.Machine.execForceClear cl s
  | .lowRailIdle cl => Sys2Proof.Machine.execLowRailIdle cl s
  | .railSwitch cl r => Sys2Proof.Machine.execRailSwitch cl r s
  | .marginStep cl e => Sys2Proof.Machine.execMarginStep cl e s
  | .powerUp => Sys2Proof.Machine.execPowerUp s
  | .wipeComplete => Sys2Proof.Machine.execWipeComplete s
  | .fwgo => Sys2Proof.Machine.execFwgo s
  | .fwVerifyDone => Sys2Proof.Machine.execFwVerifyDone s
  | .ctxCreate => Sys2Proof.Machine.execCtxCreate s
  | .ctxDestroy => Sys2Proof.Machine.execCtxDestroy s
  | .segCommit => Sys2Proof.Machine.execSegCommit s
  | .shootdown => Sys2Proof.Machine.execShootdown s
  | .hwinSet => Sys2Proof.Machine.execHwinSet s
  | .exportSet => Sys2Proof.Machine.execExportSet s
  | .routeSet => Sys2Proof.Machine.execRouteSet s
  | .hodPlace => Sys2Proof.Machine.execHodPlace s
  | .ringSet => Sys2Proof.Machine.execRingSet s
  | .pipeSet => Sys2Proof.Machine.execPipeSet s
  | .pipeEnable => Sys2Proof.Machine.execPipeEnable s
  | .pipeDisable => Sys2Proof.Machine.execPipeDisable s
  | .resume => Sys2Proof.Machine.execResume s
  | .kill => Sys2Proof.Machine.execKill s
  | .pswap => Sys2Proof.Machine.execPswap s
  | .margin => Sys2Proof.Machine.execMargin s
  | .lifecycle => Sys2Proof.Machine.execLifecycle s
  | .dpTrain => Sys2Proof.Machine.execDpTrain s
  | .auxXfer => Sys2Proof.Machine.execAuxXfer s
  | .attest => Sys2Proof.Machine.execAttest s
  | .reductionCommandStart core => Sys2Proof.Machine.execReductionCommandStart core s
  | .refLockGained => Sys2Proof.Machine.execRefLockGained s
  | .memberStopsAnswering core rk => Sys2Proof.Machine.execMemberStopsAnswering core rk s

end Sys2Proof.Machine
end

