-- ==== Sys2Proof/Machine/Run.lean ====
section
/-! DEFINITION. How a warp of a slot issues, and how the machine passes a mesh clk when the agenda names no agent (16 R419;
06 R171; 07 R194; 15 R414, R417; log 1). -/
namespace Sys2Proof.Machine

/-- The state in which an instruction of a path runs: the path named in `cur`, with the literal word. -/
def State.withCur (s : State) (key nid : Nat) (lit : Word) : State := { s with cur := some ⟨key, nid, lit⟩ }

/-- The state in which a path's instruction runs at its issue: the issue noted (06 R171; 15 R416; 17 R450). -/
def State.issueState (s : State) (key nid : Nat) (i : Instr) (lit : Word) : State :=
  (s.noteIssue key nid i).withCur key nid lit

/-- After an instruction nothing is issuing. -/
def clearCur : Host.Outcome State Fault Refusal → Host.Outcome State Fault Refusal
  | .next s => .next { s with cur := none }
  | .fault f => .fault f
  | .refused r => .refused r

/-- The path chosen for a warp whose instruction does not issue stays chosen (06 R171). -/
def State.choose (s : State) (key nid : Nat) : State := s.updWarp key (fun w => { w with chosen := some nid })

/-- What an instruction that has run from `s` leaves: if its reservations succeed it has issued; else nothing of it stands, and its
attempt has failed (02 R51-R53). One that would reserve after its sub-core's attempt of the clk makes none. -/
def State.issued (s : State) (key nid : Nat) (i : Instr) : Host.Outcome State Fault Refusal → Host.Outcome State Fault Refusal
  | .next t => .next (
      if t.cal != s.cal && decide (s.clk < sget 0 s.tried (key / 8)) then s
      else if s.fits t key then { s.noteResult t key nid i with cur := none }
      else s.attemptFails key nid t)
  | .fault f => .fault f
  | .refused r => .refused r

/-- An instruction at a path's program counter: not yet free, held back, waiting for its engine, or attempted (15 R414, R417;
17 R452). -/
def State.issueInstr (s : State) (key nid : Nat) (i : Instr) (lit : Word) : Host.Outcome State Fault Refusal :=
  if !s.mayIssue key nid i then .next s
  else if s.heldBack key nid i then .next ((s.noteHeld key).choose key nid)
  else if s.queueWait key nid i then clearCur (exec i ((s.choose key nid).withCur key nid lit))
  else s.issued key nid i (exec i (s.issueState key nid i lit))

/-- A warp of a slot issues once: boundary, choice of path, fetch, decode, waits, execution (16 R419, 06 R171, 07 R194). -/
def State.issueWarp (s : State) (key : Nat) : Host.Outcome State Fault Refusal :=
  if !s.issuable key then .next s else
  match s.boundary key with
  | some s1 => .next s1
  | none =>
    match s.choosePath key with
    | none => .next s
    | some nid =>
      let s0 := s.noteFetch key (s.node key nid).pc.toNat
      match s0.fetchAt key (s0.node key nid).pc.toNat with
      | .instr i lit => s0.issueInstr key nid i lit
      | f => .next (s0.fetchFault key nid f)

/-- A word of a register file, tile or accumulator is upset (17 R454): one bit is corrected, two are delivered poisoned. -/
def State.upsetWord (s : State) (w : CoreWord) (double : Bool) : State :=
  if !double then s
  else match w with
    | .reg key pos lane => s.updWarp key (fun w => w.setVAt pos lane { w.vAt pos lane with psn := true })
    | .tile ax half => s.setAsh ax { s.ash ax with tpsn := sput false (s.ash ax).tpsn half true }
    | .acc ax k => s.setAsh ax { s.ash ax with acc := supd {} (s.ash ax).acc k (fun (v : Val) => { v with psn := true }) }

/-- One action of one agent. -/
def State.act (s : State) : Act → Host.Outcome State Fault Refusal
  | .issue key => s.issueWarp key
  | .upset gran double => .next (s.setMem (s.mem.upset gran double))
  | .upsetBurst burst double => .next (s.setLp (s.lp.upset burst double))
  | .upsetWord w double => .next (s.upsetWord w double)
  | .event i => if i.isEvent then exec i { s with cur := none } else .next s
  | .tick n => .next (s.advance n)

/-- Runs one meaning after another; a stop ends the run. -/
def runAll : List Meaning → State → Host.Outcome State Fault Refusal
  | [], s => .next s
  | f :: fs, s => match f s with
    | .next t => runAll fs t
    | o => o

/-- The selected warp of a sub-core issues; where it has failed to, the first later candidate that needs no reservation, no engine
queue and no uniform unit takes its place (15 R417). `lost` are the warps that lose the uniform unit (06 R162). -/
def State.issueRanked (s : State) (lost : List Nat) : List Nat → Host.Outcome State Fault Refusal
  | [] => .next s
  | k :: later =>
    let first := if lost.contains k then (match s.choosePath k with
        | some nid => .next (s.choose k nid)
        | none => .next s)
      else s.issueWarp k
    match first with
    | .next t =>
      if (s.nextInstr k).isSome && decide (sget 0 t.slotTill (k / 8) ≤ s.clk) then
        (let t1 := if (later.takeWhile (fun j => !t.mayReplace j)).any t.passedOver then t.noteHeld k else t
         match later.find? t.mayReplace with
        | some j => t1.issueWarp j
        | none => .next t1)
      else .next t
    | o => o

/-- The sub-cores issue in the order of their attempts (02 R54). -/
def issueAll (lost : List Nat) : List (List Nat) → State → Host.Outcome State Fault Refusal
  | [], s => .next s
  | ks :: rest, s => match s.issueRanked lost ks with
    | .next t => issueAll lost rest t
    | o => o

/-- The sub-cores of the device issue in a mesh clk. -/
def issueClk (s : State) : Host.Outcome State Fault Refusal :=
  let order := s.issueOrder
  issueAll (s.uniLosers (order.map (·.headD 0))) order s

/-- The engines' attempts of a mesh clk. -/
def attemptClk (s : State) : Host.Outcome State Fault Refusal := runAll s.attemptEvents s
/-- The events that fall due in a mesh clk, and the deadlines that expired while their warps were out (08 R228). -/
def eventClk (s : State) : Host.Outcome State Fault Refusal := runAll s.dueEvents s
/-- Deadlines that have expired before the present clk, which no instruction may precede (08 R228). -/
def lateClk (s : State) : Host.Outcome State Fault Refusal := runAll (s.deadlines s.clk) s
/-- The deadlines that expire in the present clk, after its issues (08 R228). -/
def deadlineClk (s : State) : Host.Outcome State Fault Refusal := runAll (s.deadlines (s.clk + 1)) s
/-- A mesh clk passes. -/
def tickClk (s : State) : Host.Outcome State Fault Refusal := .next (s.advance 1)

/-- A mesh clk of the machine left to itself (log 1): the events that fall due; the attempts of the engines, before those of the
sub-cores in phases 0 and 8 and after them in the others (02 R54); the deadlines; and the passage of the clk. -/
def State.passClk (s : State) : Host.Outcome State Fault Refusal :=
  let tries := if s.clk % 8 = 0 then [attemptClk, issueClk] else [issueClk, attemptClk]
  runAll ([eventClk, lateClk] ++ tries ++ [deadlineClk, tickClk]) { s with cur := none }

end Sys2Proof.Machine
end

