-- ==== Sys2Proof/Machine/Step.lean ====
section
/-! DEFINITION. The step of the machine: the agent that the agenda names acts once (log 1). -/
namespace Sys2Proof.Machine

/-- One step: the head of the agenda acts; with an empty agenda the machine passes one mesh clk by the fixed rule of
`State.passClk`. -/
def step (s : State) : Host.Outcome State Fault Refusal :=
  match s.agenda with
  | a :: rest => { s with agenda := rest }.act a
  | [] => s.passClk

/-- `s` with an instruction's words, and a running warp at them, where the next step fetches (log 6): context 1 maps the
first 256 bytes of S-space, a team of one warp of 32 lanes has started there, and the agenda lets it issue. -/
def State.withFetchWord (s : State) (nbits w : Nat) : State :=
  let seg := fieldN 1 124 4 + fieldN 15 120 4
  let bytes := memWrite (memWrite s.mem.bytes 0 4 (w % 2 ^ nbits)) 4 4 0
  let warp : Warp := { ctx := 1, launch := 0, team := 0, teamId := 0, warpId := 0, nwarps := 1, width := 32, depth := 64,
                       frame := 0, half := 0,
                       root := { kind := .path, mode := 7#16, mask := fullMask 32, swr := 0xffffffff#32 } }
  let team : Team := { ctx := 1, launch := 0, teamId := 0, status := .started, kpc := 0, width := 32, depth := 64, frame := 0,
                       scratch := 0, nw := 1, pair := false, ash := false, idem := false, keys := [0], left := 1 }
  let s1 := s.setCtx 1 { s.ctx 1 with live := true, seg := sput 0 (s.ctx 1).seg 0 seg }
  let s2 := (s1.setMem { s1.mem with bytes := bytes, psn := sput false s1.mem.psn 0 false, ueLat := sput false s1.mem.ueLat 0 false })
  let s3 := s2.updCluster 0 (fun c => { c with pause := 0, rail := 0, recent := [] })
  { (s3.setTeam 0 (some team)).setWarp 0 (some warp) with
    agenda := .issue 0 :: s.agenda, slotTill := sput 0 s.slotTill 0 0, tried := sput 0 s.tried 0 0, cal := [],
    flights := s.flights.filter (·.key != 0) }

end Sys2Proof.Machine
end

