-- ==== Sys2Proof/Certificates/Slice0/Terms.lean ====
section
/-! DEFINITION. The words in which the statements of this package are written: a path that issues, and what an instruction of
one shape leaves changed and unchanged. -/
namespace Sys2Proof.Says
open Sys2Proof.Machine

/-- The latches as an instruction of a path finds them: invalid when the warp's previous instruction came from another path
(07 R188). -/
def entered (w : Warp) (nid : Nat) : Warp := if w.lastPath = nid then w else { w with lastPath := nid, yv := 0 }

/-- What an instruction of path `nid` of the warp `w` in slot `key` sees; `guarded` is false for the instructions that act on
every lane of the path (07 R184). -/
def seen (guarded : Bool) (s : State) (key nid : Nat) (lit : Word) (w : Warp) : Ctx :=
  { key := key, nid := nid, w := entered w nid, p := s.node key nid, lit := lit,
    act := if guarded then guardMask (entered w nid) (s.node key nid) else (s.node key nid).mask }

/-- The path `nid` of the warp `w` in slot `key` issues, with literal `lit`, and the tables that the statement reads are in
canonical form, as every step keeps them. -/
structure Issues (s : State) (key nid : Nat) (lit : Word) (w : Warp) : Prop where
  cur : s.cur = some ⟨key, nid, lit⟩
  warp : s.warp key = some w
  warps : swf none s.warps = true
  belay : swf {} s.belay = true
  vregs : swf {} w.v = true
  sregs : swf {} w.s = true
  preds : swf 0#96 w.p = true
  latches : swf {} w.y = true
  bytes : Memory.wf s.mem.bytes = true
  marks : swf false s.mem.psn = true
  latent : swf false s.mem.ueLat = true

/-- Completion counts after an instruction that completes in every lane of its path (09 R247). -/
def counts (c : Ctx) : List Nat := countsAfter c.w.cnt c.p.mask

/-- Nothing but the warp in slot `key` and its path `nid` differs between two states. -/
structure Elsewhere (s t : State) (key nid : Nat) : Prop where
  rest : t = { s with warps := t.warps, belay := t.belay }
  slots : ∀ k, k ≠ key → t.warp k = s.warp k
  nodes : ∀ e, nid = 64 ∨ e ≠ belayKey key nid → sget {} t.belay e = sget {} s.belay e

/-- The warp that issued is `f` of what it was, with completion counts `cnt`; its path is `g` of what it was; nothing else of the
machine differs from `s`. -/
def Leaves (s t : State) (c : Ctx) (cnt : List Nat) (f : Warp → Warp) (g : Node → Node) : Prop :=
  Elsewhere s t c.key c.nid ∧ t.node c.key c.nid = g (s.node c.key c.nid) ∧
    ∃ r : Node, (c.nid ≠ 64 → r = c.w.root) ∧ t.warp c.key = some (((f c.w).withCnt cnt).withRoot r)

/-- A path that goes on at an address. -/
def goesOn (s : State) (npc : Word) (n : Node) : Node := { n with pc := npc, since := s.clk }

/-- An instruction that completes at `npc`: its warp is `f` of what it was, but for the completion counts and the path; nothing
else of the machine changes. -/
def Ends (s t : State) (c : Ctx) (npc : Word) (f : Warp → Warp) : Prop := Leaves s t c (counts c) f (goesOn s npc)

/-- A lane result (07 R185, R187): the destination of the active lanes, the latches of the path's lanes shifted, the sticky
flags `axf` added, every other register as it was. -/
def LaneResult (s t : State) (c : Ctx) (npc : Word) (n d : Nat) (res : Nat → Val) (axf : Nat) : Prop :=
  ∃ v y : Sparse Val,
    Ends s t c npc
      (fun w => ({ w with v := v, y := y, yv := (w.yv * 2 + 1) % 16, busy := shiftBusy w.busy c.p.mask } : Warp).flagged axf) ∧
    (∀ pos l, l < 96 → sget {} v (pos * 128 + l) =
      if n ≠ 1 ∧ pos = c.p.wb + d ∧ c.act.getLsbD l = true then res l else c.w.vAt pos l) ∧
    (∀ l, l < 96 → c.p.mask.getLsbD l = true →
      sget {} y l = (if n = 1 then (if c.act.getLsbD l = true then res l else {}) else sget {} v ((c.p.wb + d) * 128 + l)) ∧
      sget {} y (128 + l) = c.w.yAt 0 l ∧ sget {} y (256 + l) = c.w.yAt 1 l ∧ sget {} y (384 + l) = c.w.yAt 2 l) ∧
    ∀ i l, l < 96 → c.p.mask.getLsbD l = false → sget {} y (i * 128 + l) = c.w.yAt i l

/-- A result of the uniform unit: one s-register, written if any lane is active (06 R162; 07 R184, R187). -/
def UniformResult (s t : State) (c : Ctx) (npc : Word) (d : Nat) (x : Val) : Prop :=
  ∃ u : Sparse Val, Ends s t c npc (fun w => { w with s := u }) ∧
    ∀ i, sget {} u i = if c.any = true ∧ i = d - 64 then x else c.w.sAt i

/-- A predicate result: bits `val` of predicate `d` in the lanes of `m` (07 R183, R185). -/
def PredicateResult (s t : State) (c : Ctx) (npc : Word) (d : Nat) (m val : LaneMask) : Prop :=
  ∃ p : Sparse LaneMask, Ends s t c npc (fun w => { w with p := p }) ∧
    ∀ i, sget 0#96 p i = if i = d then (c.w.pAt d &&& ~~~m) ||| (val &&& m) else sget 0#96 c.w.p i

/-- A result wherever the instruction's destination lies: `n` = 1 names latch y1 alone, else code `d` names a v-register or an
s-register (07 R180, R185). `res` is the result of each lane, `uni` that of the uniform unit. -/
def AnyResult (s t : State) (c : Ctx) (npc : Word) (n d : Nat) (res : Nat → Val) (uni : Val) : Prop :=
  if n = 0 ∧ isS d = true then UniformResult s t c npc d uni else LaneResult s t c npc n d res 0

/-- The registers of the warp that issued are as they were, but for the registers `ds` name in the active lanes (or on the uniform
unit) and the predicates `ps`; so are its status, its flags, its deadline and its spill window. -/
structure KeptBut (c : Ctx) (w' : Warp) (ds ps : List Nat) : Prop where
  vregs : ∀ pos l, l < 96 → (∀ k ∈ ds, isS k = false → ¬ (pos = c.p.wb + k ∧ c.act.getLsbD l = true)) → w'.vAt pos l = c.w.vAt pos l
  sregs : ∀ i, (∀ k ∈ ds, isS k = true → i ≠ k - 64) → w'.sAt i = c.w.sAt i
  preds : ∀ i, i ∉ ps → sget 0#96 w'.p i = sget 0#96 c.w.p i
  flags : w'.axf = c.w.axf
  status : w'.status = c.w.status
  deadline : w'.deadline = c.w.deadline
  window : w'.sb = c.w.sb
  serial : w'.serial = c.w.serial

/-- Register `d` holds `x` in every active lane, or as an s-register. -/
def Receives (c : Ctx) (w' : Warp) (d : Nat) (x : Val) : Prop :=
  if isS d = true then w'.sAt (d - 64) = x else ∀ l, l < 96 → c.act.getLsbD l = true → w'.vAt (c.p.wb + d) l = x

/-- An instruction that goes on at `npc` in the machine `b`: outside its warp and its path nothing differs from `b`; its warp is as
`KeptBut` says and has the further property `P`. -/
def StepOver (b t : State) (c : Ctx) (npc : Word) (ds ps : List Nat) (P : Warp → Prop) : Prop :=
  Elsewhere b t c.key c.nid ∧ (t.node c.key c.nid).pc = npc ∧ (t.node c.key c.nid).mask = c.p.mask ∧
    (t.node c.key c.nid).kind = c.p.kind ∧ ∃ w' : Warp, t.warp c.key = some w' ∧ KeptBut c w' ds ps ∧ P w'

/-- `b` with the memory of `t`, and with what is in flight and reserved there. -/
def reached (b t : State) : State := { b with mem := t.mem, flights := t.flights, cal := t.cal, slotsHeld := t.slotsHeld }

/-- An instruction that may have reached memory: `StepOver` where the SRAM, what is in flight to it and the calendars may differ too. -/
def MemoryStep (s t : State) (c : Ctx) (npc : Word) (ds ps : List Nat) (P : Warp → Prop) : Prop :=
  StepOver (reached s t) t c npc ds ps P

/-- A memory instruction of the lanes `ls` is on its way from its issue (02 R46, R48): each lane has one part, in the access of its beat
to its bank word, lanes of an access ascending; nothing has taken effect yet. With a destination, beat j is written back at its start and
the latency L. -/
def Sent (s t : State) (c : Ctx) (op : AccOp) (dst : FlightDst) (ls : List Nat) (per nb L : Nat) (part : Nat → AccPart) : Prop :=
  (ls = [] → t.flights = s.flights) ∧
  (ls ≠ [] → ∃ f : Flight, t.flights = s.flights ++ [f] ∧ f.key = c.key ∧ f.agent = warpAgent c.w ∧ f.op = op ∧ f.dst = dst ∧
    f.lanes = maskOf ls ∧ f.backs = (if dst = .none then [] else (List.range nb).map fun j => (j, s.coreClk (coreOf c.key) (j + L))) ∧
    (∀ l ∈ ls, ∃ a ∈ f.accs, a.beat = l / per ∧ a.gran = granOf (part l).pa ∧ part l ∈ a.parts) ∧
    ∀ a ∈ f.accs, a.served = false ∧ (a.parts.map (·.lane)).Pairwise (· < ·) ∧
      ∀ p ∈ a.parts, ∃ l ∈ ls, p = part l ∧ a.beat = l / per ∧ a.gran = granOf p.pa)

/-- No bank word under `n` bytes at `pa` holds poison or a latent uncorrectable error (02 R42). -/
def Sound (s : State) (pa n : Nat) : Prop :=
  ∀ g, granOf pa ≤ g → g ≤ granOf (pa + n - 1) → s.mem.poisoned g = false ∧ sget false s.mem.ueLat g = false

/-- A path has sent the access `f` to memory and stands at its instruction, whose second half is `h`: nothing has taken effect in memory yet,
the latches are invalid, and the path issues nothing before `back` (05 R126; 07 R188). -/
def Waits (s t : State) (c : Ctx) (h : HalfIssue) (back : Nat) (f : Flight) : Prop :=
  MemoryStep s t c c.p.pc [] [] (fun w' => w'.yv = 0) ∧ t.mem = s.mem ∧ t.flights = s.flights ++ [f] ∧
    t.node c.key c.nid = { c.p with stop := max c.p.stop back, step := some h }

/-- The step of `i` on the object at `va`, physically at `pa`, with operand `x`: one access to one bank word at the bank slot of a uniform
access, of two slots if it is atomic, written back to `d`, if there is a result, 12 + 4h or 11 + 4h clk after the issue (02 R46, R47;
05 R126). `half` says when the instruction first issued. -/
def StepSent (s t : State) (c : Ctx) (i : Instr) (va pa x : Nat) (d : Option Nat) (half : HalfIssue) : Prop :=
  ∃ f : Flight, Waits s t c half (stepBack s c pa (stepAtomic i)) f ∧ f.key = c.key ∧ f.agent = warpAgent c.w ∧
    f.op = .step ⟨some i, c.nid, half.at_, c.act, va, pa, x, stepBack s c pa (stepAtomic i)⟩ ∧ f.dst = (d.map c.dstOf).getD .none ∧
    f.backs = (if f.dst = .none then [] else [(0, stepBack s c pa (stepAtomic i))]) ∧
    ∃ a : BankAcc, f.accs = [a] ∧ a.served = false ∧ a.beat = 0 ∧ a.gran = granOf pa ∧
      a.slot = s.slotAt s.clk (coreOf c.key) (granOf pa) ∧
      a.parts.map (·.lane) = (match d with
        | some r => if isS r then [c.low] else lanesOf c.act
        | none => []) ∧ ∀ p ∈ a.parts, p.pa = pa ∧ p.n = 4

/-- A read of `n` bytes at `pa` for a path, as one uniform access whose bank words follow each other (02 R46): what it finds reaches the
path at its write-back time. -/
def HalfSent (s t : State) (c : Ctx) (pa n : Nat) (half : HalfIssue) : Prop :=
  let gs := (List.range ((n + 31) / 32)).map (fun i => (0, granOf pa + i))
  let back := s.coreClk (coreOf c.key) (latencyL (coreOf c.key) 1 gs)
  ∃ f : Flight, Waits s t c half back f ∧ f.key = c.key ∧ f.agent = warpAgent c.w ∧ f.op = .load true ∧ f.dst = .half c.nid half.at_ ∧
    f.backs = [(0, back)] ∧ f.accs = bankAccs (s.accessSlots (coreOf c.key) gs)
      (gs.map fun g => (0, ({ lane := 0, pa := 32 * g.2, n := 32 } : AccPart)))

/-- What the path of the step `j` is at its bank slot. -/
def atSlot (s : State) (key : Nat) (w : Warp) (j : StepJob) : Ctx :=
  ⟨key, j.nid, w, s.node key j.nid, 0#32, j.act &&& (s.node key j.nid).mask⟩

/-- The step `j` of `i` reaches its bank slot while its path stands at it, and the `n` bytes of its object are sound. -/
structure ReachesSlot (s : State) (key : Nat) (w : Warp) (i : Instr) (j : StepJob) (n : Nat) : Prop where
  instr : j.instr = some i
  warp : s.warp key = some w
  path : (s.node key j.nid).kind = .path
  lanes : (s.node key j.nid).mask ≠ 0#96
  stands : ∃ h : HalfIssue, (s.node key j.nid).step = some h ∧ h.at_ = j.at_
  sound : Sound s j.pa n
  warps : swf none s.warps = true
  belay : swf {} s.belay = true
  preds : swf 0#96 w.p = true
  bytes : Memory.wf s.mem.bytes = true
  marks : swf false s.mem.psn = true
  latent : swf false s.mem.ueLat = true
  cairn : swf [] s.mem.cairn = true

/-- A step at its bank slot after which its path goes on at `npc`: outside its warp, its path and the SRAM nothing differs from `b`, and
the warp has the further property `P`. -/
def SlotStep (b t : State) (c : Ctx) (npc : Word) (ps : List Nat) (P : Warp → Prop) : Prop :=
  StepOver { b with mem := t.mem } t c npc [] ps P ∧ (t.node c.key c.nid).step = none

/-- A check at its bank slot `at_` that leaves its path, then `p`, waiting at a Cairn monitor of the word of its object, in class `kind`, or for a
recheck 256 clk on where there is no entry (04 R117, R118): its instruction is issued again when it is woken. -/
def SlotWaits (s t : State) (c : Ctx) (p : Node) (at_ pa kind : Nat) : Prop :=
  let sl := granSlice (granOf pa)
  Elsewhere { s with mem := t.mem } t c.key c.nid ∧ (∃ r : Node, (c.nid ≠ 64 → r = c.w.root) ∧ t.warp c.key = some (c.w.withRoot r)) ∧
    ((t.node c.key c.nid = { p with wait := .monitor none, step := none } ∧
        (⟨granOf pa, .path c.w.ctx c.key c.nid, kind⟩ : CairnEntry) ∈ sget [] t.mem.cairn sl) ∨
      (t.node c.key c.nid = { p with wait := .monitor (some (sl, at_ + 256)), step := none } ∧
        256 ≤ (sget [] t.mem.cairn sl).length))

/-- What a read of `n` bank words at `pa` brings a path: `x`, unpoisoned. -/
def foundParts (pa n x : Nat) : List AccPart :=
  (List.range n).map fun k => { lane := 0, pa := pa + 32 * k, n := 32, got := x / 2 ^ (256 * k) % 2 ^ 256 }

/-- What a path is when its read comes back. -/
def atBack (s : State) (key nid : Nat) (w : Warp) : Ctx := ⟨key, nid, w, s.node key nid, 0#32, guardMask w (s.node key nid)⟩

/-- A read of `n` bank words at `pa`, which found `x`, comes back to the path that stands at its instruction with second half `h`. -/
structure ComesBack (s : State) (key nid : Nat) (w : Warp) (h : HalfIssue) (pa n x : Nat) : Prop where
  warp : s.warp key = some w
  path : (s.node key nid).kind = .path
  lanes : (s.node key nid).mask ≠ 0#96
  stands : (s.node key nid).step = some h
  words : 0 < n
  place : pa < 2 ^ 64
  size : x < 2 ^ (256 * n)
  warps : swf none s.warps = true
  belay : swf {} s.belay = true
  vregs : swf {} w.v = true
  sregs : swf {} w.s = true
  preds : swf 0#96 w.p = true

/-- An instruction that does not issue: its path is as it was, and nothing outside its warp differs from `b`. -/
def Stays (b t : State) (c : Ctx) : Prop :=
  Elsewhere b t c.key c.nid ∧ t.node c.key c.nid = c.p ∧ t.warp c.key = some c.w

/-- Every byte outside `n` bytes at `pa` reads as before. -/
def OutsideKept (s t : State) (pa n : Nat) : Prop := ∀ a, a < pa ∨ pa + n ≤ a → memByte t.mem.bytes a = memByte s.mem.bytes a

/-- `exec` of an instruction answers a next state with a property. -/
def Answers (i : Instr) (s : State) (P : State → Prop) : Prop := ∃ t, exec i s = .next t ∧ P t

end Sys2Proof.Says
end

