-- ==== Sys2Proof/Certificates/Slice0/Tables.lean ====
section
/-! DEFINITION. The results that the spec's tables give the instructions of the lanes, written with plain bit-vector arithmetic
beside the meanings (08 R200-R215; 10 R253-R271). -/
namespace Sys2Proof.Says
open Sys2Proof.Machine

/-- An instruction of a table: its source codes, whether it also reads its destination, and its result from the values read,
sources first and the destination last. -/
structure WordRow where
  i : Instr
  srcs : List Nat
  readD : Bool
  f : Word → Word → Word → Word

/-- The codes a row reads, in order. -/
def WordRow.codes (r : WordRow) (d : Nat) : List Nat := if r.readD then r.srcs ++ [d] else r.srcs

/-- A row's result in a lane: its function of the values read, poisoned when one of them is (08 R200). -/
def WordRow.inLane (r : WordRow) (c : Ctx) (d l : Nat) : Val :=
  let v (k : Nat) : Word := ((r.codes d)[k]?.map (fun code => (c.opnd code l).bits)).getD 0#32
  ⟨r.f (v 0) (v 1) (v 2), (r.codes d).any (fun code => (c.opnd code l).psn)⟩

/-- A row's operands may be named where it runs: on the uniform unit with an s-register destination, else in the lanes. -/
def WordRow.ok (r : WordRow) (c : Ctx) (n d : Nat) : Prop :=
  if n = 0 ∧ isS d = true then r.srcs.all uniSrcOk = true else r.srcs.all c.srcOk = true ∧ d ≤ 95

/-- Field position that a control word names (08 R205). -/
def ctlPos (y : Word) : Nat := (y.extractLsb' 0 5).toNat
/-- Field length that a control word names (08 R205). -/
def ctlLen (y : Word) : Nat := min (y.extractLsb' 8 6).toNat (32 - ctlPos y)

/-- The byte that a PRMT nibble selects (08 R205). -/
def prmtPick (x : Word) (c : BitVec 4) : BitVec 8 :=
  let b := x.extractLsb' (8 * (c.toNat % 4)) 8
  if c.getLsbD 3 then 0 else if c.getLsbD 2 then (if b.msb then 0xff#8 else 0) else b

/-- 08 R201-R203: integer arithmetic and constants. `i` is an immediate or LEA's shift plus 9. -/
def arithRows (n d a b i : Nat) : List WordRow :=
  [⟨.addW n d a b, [a, b], false, fun x y _ => x + y⟩,
   ⟨.subW n d a b, [a, b], false, fun x y _ => x - y⟩,
   ⟨.mulW n d a b, [a, b], false, fun x y _ => x * y⟩,
   ⟨.mulhiW n d a b, [a, b], false, fun x y _ => (x.signExtend 64 * y.signExtend 64).extractLsb' 32 32⟩,
   ⟨.mulhuW n d a b, [a, b], false, fun x y _ => (x.zeroExtend 64 * y.zeroExtend 64).extractLsb' 32 32⟩,
   ⟨.minW n d a b, [a, b], false, fun x y _ => if x.sle y then x else y⟩,
   ⟨.maxW n d a b, [a, b], false, fun x y _ => if x.sle y then y else x⟩,
   ⟨.minuW n d a b, [a, b], false, fun x y _ => if x.ule y then x else y⟩,
   ⟨.maxuW n d a b, [a, b], false, fun x y _ => if x.ule y then y else x⟩,
   ⟨.lea n d a b i, [a, b], false, fun x y _ => x + y <<< (i - 9)⟩,
   ⟨.madW n d a b, [a, b], true, fun x y z => x * y + z⟩,
   ⟨.addiW n d a i, [a], false, fun x _ _ => x + (BitVec.ofNat 11 i).signExtend 32⟩,
   ⟨.movi n d i, [], false, fun _ _ _ => (BitVec.ofNat 18 i).signExtend 32⟩]
  ++ if n = 0 then [⟨.movhi d i, [], true, fun z _ _ => (BitVec.ofNat 14 i) ++ z.extractLsb' 0 18⟩] else []

/-- 08 R204, R206: logic, shifts and counts. -/
def logicRows (n d a b i : Nat) : List WordRow :=
  [⟨.and n d a b, [a, b], false, fun x y _ => x &&& y⟩,
   ⟨.or n d a b, [a, b], false, fun x y _ => x ||| y⟩,
   ⟨.xor n d a b, [a, b], false, fun x y _ => x ^^^ y⟩,
   ⟨.andn n d a b, [a, b], false, fun x y _ => x &&& ~~~y⟩,
   ⟨.shl n d a b, [a, b], false, fun x y _ => x <<< y.toNat⟩,
   ⟨.shr n d a b, [a, b], false, fun x y _ => x >>> y.toNat⟩,
   ⟨.shra n d a b, [a, b], false, fun x y _ => x.sshiftRight y.toNat⟩,
   ⟨.rol n d a b, [a, b], false, fun x y _ => x <<< (y.toNat % 32) ||| x >>> (32 - y.toNat % 32)⟩,
   ⟨.popc n d a, [a], false, fun x _ _ => BitVec.ofNat 32 ((List.range 32).countP (fun k => x.getLsbD k))⟩,
   ⟨.clz n d a, [a], false, fun x _ _ => BitVec.ofNat 32 ((List.range 32).countP (fun k => x >>> k == 0#32))⟩,
   ⟨.brev n d a, [a], false, fun x _ _ => BitVec.ofBoolListLE ((List.range 32).map (fun k => x.getLsbD (31 - k)))⟩,
   ⟨.mov n d a, [a], false, fun x _ _ => x⟩,
   ⟨.andi n d a i, [a], false, fun x _ _ => x &&& (BitVec.ofNat 11 i).signExtend 32⟩,
   ⟨.ori n d a i, [a], false, fun x _ _ => x ||| (BitVec.ofNat 11 i).signExtend 32⟩,
   ⟨.xori n d a i, [a], false, fun x _ _ => x ^^^ (BitVec.ofNat 11 i).signExtend 32⟩,
   ⟨.shli n d a i, [a], false, fun x _ _ => x <<< i⟩,
   ⟨.shri n d a i, [a], false, fun x _ _ => x >>> i⟩,
   ⟨.shrai n d a i, [a], false, fun x _ _ => x.sshiftRight i⟩]

/-- 08 R205, R207: PRMT, BFE and BFI. -/
def fieldRows (n d a b : Nat) : List WordRow :=
  [⟨.prmt n d a b, [a, b], false, fun x y _ => prmtPick x (y.extractLsb' 12 4) ++ prmtPick x (y.extractLsb' 8 4)
      ++ prmtPick x (y.extractLsb' 4 4) ++ prmtPick x (y.extractLsb' 0 4)⟩,
   ⟨.bfe n d a b, [a, b], false, fun x y _ =>
      let e := x.extractLsb' (ctlPos y) (ctlLen y)
      if y.getLsbD 16 then e.signExtend 32 else e.zeroExtend 32⟩,
   ⟨.bfi n d a b, [a, b], true, fun x y z =>
      let m := ((BitVec.allOnes (ctlLen y)).zeroExtend 32) <<< ctlPos y
      z &&& ~~~m ||| x <<< ctlPos y &&& m⟩]

/-- A typed instruction: its source codes, the element types it accepts (07 R186), and what it computes in a lane, with flags. -/
structure TypedRow where
  i : Instr
  srcs : List Nat
  accept : Nat → Bool
  lane : Ctx → Nat → Val × Nat

/-- Flags that a typed instruction raises over the active lanes (09 R248). -/
def TypedRow.flags (r : TypedRow) (c : Ctx) : Nat := (lanesOf c.act).foldl (fun a l => a ||| (r.lane c l).2) 0

/-- 10 R255-R262: arithmetic, and fused multiply and add. -/
def typedArithRows (n d a b : Nat) : List TypedRow :=
  [⟨.add n d a b, [a, b], etAny, fun c l => c.typedLane [a, b] (arithElem 0) l⟩,
   ⟨.sub n d a b, [a, b], etAny, fun c l => c.typedLane [a, b] (arithElem 1) l⟩,
   ⟨.mul n d a b, [a, b], etAny, fun c l => c.typedLane [a, b] (arithElem 2) l⟩,
   ⟨.mulhi n d a b, [a, b], etInt, fun c l => c.typedLane [a, b]
      (fun _ t _ x => (wrapN (intElem t (e0 x) * intElem t (e1 x) / (2 ^ t.b : Nat)) t.b, 0)) l⟩,
   ⟨.min n d a b, [a, b], etAny, fun c l => c.typedLane [a, b] (minmaxElem false) l⟩,
   ⟨.max n d a b, [a, b], etAny, fun c l => c.typedLane [a, b] (minmaxElem true) l⟩,
   ⟨.fma n d a b, [a, b], etFloat, fun c l => c.typedLane [a, b, d] (fmaElem false false) l⟩,
   ⟨.fms n d a b, [a, b], etFloat, fun c l => c.typedLane [a, b, d] (fmaElem false true) l⟩,
   ⟨.fnma n d a b, [a, b], etFloat, fun c l => c.typedLane [a, b, d] (fmaElem true false) l⟩,
   ⟨.fnms n d a b, [a, b], etFloat, fun c l => c.typedLane [a, b, d] (fmaElem true true) l⟩,
   ⟨.dot2 n d a b, [a, b], fun et => decide (3 ≤ et ∧ et ≤ 6), fun c l => c.dotLane a b d l⟩,
   ⟨.dot4 n d a b, [a, b], fun et => decide (7 ≤ et ∧ et ≤ 10), fun c l => c.dotLane a b d l⟩]

/-- A floating element's sign bit replaced (10 R257). -/
def signTo (t : ETy) (x : Nat) (neg : Bool) : Nat := x % 2 ^ (t.b - 1) + b2n neg * 2 ^ (t.b - 1)

/-- 10 R257-R259, R266: signs, scaling, exponents and integral values. -/
def typedShapeRows (n d a b : Nat) : List TypedRow :=
  [⟨.abs n d a, [a], etAny, fun c l => c.typedLane [a] (fun md t _ x =>
      if t.fmt.isSome then (signTo t (e0 x) false, 0)
      else (if t.signed then narrowInt t.b true md.sat (intElem t (e0 x)).natAbs else e0 x, 0)) l⟩,
   ⟨.neg n d a, [a], etAny, fun c l => c.typedLane [a] (fun md t _ x =>
      if t.fmt.isSome then (signTo t (e0 x) (!bitN (e0 x) (t.b - 1)), 0)
      else (narrowInt t.b t.signed md.sat (-(intElem t (e0 x))), 0)) l⟩,
   ⟨.copysign n d a b, [a, b], etFloat, fun c l => c.typedLane [a, b] (fun _ t _ x =>
      (signTo t (e0 x) (bitN (e1 x) (t.b - 1)), 0)) l⟩,
   ⟨.scale n d a b, [a, b], etFloat, fun c l => c.typedLane [a, b] (fun md t u x => match t.fmt with
      | none => (0, 0)
      | some f => match f.read md.fi (e0 x) with
        | .fin neg m e => roundFp f md u (.fin neg m (e + sextN (e1 x) t.b))
        | y => roundFp f md u y) l⟩,
   ⟨.getexp n d a, [a], etWide, fun c l => c.typedLane [a] (fun md t _ x => match t.fmt with
      | none => (0, 0)
      | some f => match f.read md.fi (e0 x) with
        | .nan => (f.canon, 0)
        | .inf _ => infOut f md false
        | .fin _ m e => if m = 0 then ((infOut f md true).1, flDZ)
          else roundFp f { md with rm := 0, fo := false } 0 (ofIntFV (e + Nat.log2 m))) l⟩,
   ⟨.flr n d a, [a], etFloat, fun c l => c.typedLane [a] (rndElem fun _ => 2) l⟩,
   ⟨.ceil n d a, [a], etFloat, fun c l => c.typedLane [a] (rndElem fun _ => 3) l⟩,
   ⟨.rnd n d a, [a], etFloat, fun c l => c.typedLane [a] (rndElem fun md => if md.rm = 5 then 0 else md.rm) l⟩,
   ⟨.trunc n d a, [a], etFloat, fun c l => c.typedLane [a] (rndElem fun _ => 1) l⟩,
   ⟨.frc n d a, [a], etFloat, fun c l => c.typedLane [a] (fun md t _ x => match t.fmt with
      | none => (0, 0)
      | some f => match f.read md.fi (e0 x) with
        | .nan => nanOut f md
        | .inf _ => ((nanOut f md).1, (nanOut f md).2 ||| flIV)
        | .fin neg m e => if m = 0 ∨ e ≥ 0 then (0, 0) else
          let r := m % 2 ^ (-e).toNat
          roundFp f { md with rm := 1 } 0 (.fin false (if r = 0 then 0 else if neg then 2 ^ (-e).toNat - r else r) e)) l⟩]

/-- 10 R263-R265: the transcendental functions. -/
def typedFunctionRows (n d a : Nat) : List TypedRow :=
  [⟨.rcp n d a, [a], etWide, fun c l => c.typedLane [a] (transcElem 0 tRcp) l⟩,
   ⟨.rsq n d a, [a], etWide, fun c l => c.typedLane [a] (transcElem 1 tRsq) l⟩,
   ⟨.sqrt n d a, [a], etWide, fun c l => c.typedLane [a] (transcElem 2 tSqrt) l⟩,
   ⟨.ex2 n d a, [a], etWide, fun c l => c.typedLane [a] (transcElem 3 tEx2) l⟩,
   ⟨.lg2 n d a, [a], etWide, fun c l => c.typedLane [a] (transcElem 4 tLg2) l⟩,
   ⟨.sin n d a, [a], etWide, fun c l => c.typedLane [a] (transcElem 5 tSin) l⟩,
   ⟨.cos n d a, [a], etWide, fun c l => c.typedLane [a] (transcElem 6 tCos) l⟩,
   ⟨.tanh n d a, [a], etWide, fun c l => c.typedLane [a] (transcElem 7 tTanh) l⟩]

/-- A word and its poison from the values of the codes read (10 R269, R270). -/
def moved (c : Ctx) (codes : List Nat) (f : Word → Word → Word → Word) (l : Nat) : Val × Nat :=
  let v (k : Nat) : Word := (codes[k]?.map (fun code => (c.opnd code l).bits)).getD 0#32
  (⟨f (v 0) (v 1) (v 2), codes.any (fun code => (c.opnd code l).psn)⟩, 0)

/-- 10 R269, R270: packing and unpacking. -/
def typedMoveRows (n d a b : Nat) : List TypedRow :=
  [⟨.pack2 n d a b, [a, b], etAny, fun c l => moved c [a, b] (fun x y _ => y.extractLsb' 0 16 ++ x.extractLsb' 0 16) l⟩,
   ⟨.pack4 n d a b, [a, b], etAny, fun c l => moved c [a, b, d]
      (fun x y z => z.extractLsb' 0 16 ++ (y.extractLsb' 0 8 ++ x.extractLsb' 0 8)) l⟩,
   ⟨.unpacklo n d a, [a], etPacked, fun c l => moved c [a]
      (fun x _ _ => BitVec.ofNat 32 (unpackHalf false (nmode c.p.mode) (etOf c.p.mode) x.toNat)) l⟩,
   ⟨.unpackhi n d a, [a], etPacked, fun c l => moved c [a]
      (fun x _ _ => BitVec.ofNat 32 (unpackHalf true (nmode c.p.mode) (etOf c.p.mode) x.toNat)) l⟩]

/-- The conditions of CMP.W (08 R209). -/
def wordCond (cc : Nat) (x y : Word) : Bool :=
  match cc with
  | 0 => x == y
  | 1 => x != y
  | 2 => x.slt y
  | 3 => x.sle y
  | 4 => y.slt x
  | 5 => y.sle x
  | 6 => x.ult y
  | 7 => x.ule y
  | 8 => y.ult x
  | _ => y.ule x

/-- A predicate of the active lanes: lane by lane the truth of `f` (07 R183). -/
def PredicateOf (s t : State) (c : Ctx) (npc : Word) (d : Nat) (f : Nat → Bool) : Prop :=
  ∃ val : LaneMask, PredicateResult s t c npc d c.act val ∧ ∀ l, l < 96 → c.act.getLsbD l = true → val.getLsbD l = f l

/-- No active lane reads poison in the registers `codes` name. -/
def Unpoisoned (c : Ctx) (codes : List Nat) : Prop := ∀ l, l < 96 → c.act.getLsbD l = true → ∀ k ∈ codes, (c.opnd k l).psn = false

/-- The low and the high word of a 64-bit count. -/
def low32 (x : Nat) : Nat := x % 2 ^ 32
/-- The high word. -/
def high32 (x : Nat) : Nat := x / 2 ^ 32 % 2 ^ 32

/-- Special registers by selector, but for `%tb_ns` (08 R229): the value that lane `l` reads. -/
def specialRows (s : State) (c : Ctx) (l : Nat) : List (Nat × Nat) :=
  [(0, l), (1, c.w.warpId), (2, c.w.teamId), (3, low32 c.w.launch), (4, c.key / 128), (5, c.key / 8 % 16), (6, low32 s.clk),
   (7, high32 s.clk), (8, low32 c.w.cyc), (9, high32 c.w.cyc), (11, low32 c.p.tb.sec), (12, c.p.tb.sec / 2 ^ 32 % 2 ^ 16),
   (13, c.p.tb.frac), (14, low32 c.w.deadline), (15, high32 c.w.deadline), (16, c.w.view), (17, c.w.stripIx), (18, c.w.srate),
   (19, c.p.fragId), (20, (c.p.fmask.extractLsb' 0 32).toNat), (21, (c.p.fmask.extractLsb' 32 32).toNat),
   (22, (c.p.fmask.extractLsb' 64 32).toNat), (24, low32 c.w.lsum), (25, high32 c.w.lsum), (26, low32 c.w.hold),
   (27, high32 c.w.hold), (28, low32 c.w.nmem), (29, high32 c.w.nmem), (30, c.w.lmax), (31, c.w.nurg), (32, c.w.width),
   (33, c.w.nwarps)]

/-- The address a branch names: PC + 4 × sext of the offset (07 R190). -/
def branchTarget {k : Nat} (pc : Word) (off : BitVec k) : Word := pc + off.signExtend 32 <<< 2

/-- The lanes of a path for which a branch is taken (08 R216). -/
def takers (c : Ctx) (inv pr : Nat) : LaneMask := c.p.mask &&& (if inv = 1 then ~~~(c.w.pAt pr) else c.w.pAt pr)

/-- The spin detector's count of a path that takes a branch (06 R172): a forward branch clears it, a backward one to the target last
counted adds 1, any other starts it. -/
def spun (n : Node) (target : Word) : Nat :=
  if n.pc.toNat < target.toNat then 0 else if n.spTgt = target ∧ 0 < n.spc then n.spc + 1 else 1

/-- The branch is the sixteenth in succession to one target at or before it (06 R172). -/
def Spins (n : Node) (target : Word) : Prop := target.toNat ≤ n.pc.toNat ∧ n.spTgt = target ∧ n.spc = 15

/-- A path that a branch takes to `pc` with all its lanes: its latches are invalid and its spin count is `k`; its lanes, mode, window
and wait are as they were. -/
def Branches (s t : State) (c : Ctx) (pc : Word) (k : Nat) : Prop :=
  ∃ g : Node → Node, Leaves s t c (counts c) (fun w => { w with yv := 0 }) g ∧ (g c.p).pc = pc ∧ (g c.p).spc = k ∧
    (g c.p).kind = c.p.kind ∧ (g c.p).mask = c.p.mask ∧ (g c.p).mode = c.p.mode ∧ (g c.p).wb = c.p.wb ∧ (g c.p).wait = c.p.wait

/-- The mesh clk in which `n` clk of the slot's sub-core from now have passed (00 R5; 02 R45): on the low rail they take half as
long again. -/
def subClk (s : State) (key n : Nat) : Nat :=
  if (s.cluster (clusterOf (key / 128))).rail = 0 then s.clk + n else
    s.clk + ((3 * (n + 2 * (s.clk + 1) / 3) - 1) / 2 - s.clk)

/-- The window of a path may move to base `x` without a frame move (06 R159). -/
def InFrame (w : Warp) (x : Nat) : Prop := w.sb ≤ x ∧ x + 64 ≤ w.sb + w.depth

/-- The address a lane of a load or store names: its register pair plus the scaled offset, modulo 2^64 (11 R274, R276). -/
def laneVa (c : Ctx) (a o z l : Nat) : Nat :=
  (BitVec.ofNat 64 (c.addr a l).1 + (BitVec.ofNat 5 o).signExtend 64 * BitVec.ofNat 64 (2 ^ z)).toNat

/-- The lanes that a memory instruction reads and writes: the active ones, or the lowest of them for an s-register destination. -/
def lanesFor (c : Ctx) (d : Nat) : List Nat := if isS d = true then (lanesOf c.act).take 1 else lanesOf c.act

/-- Every such lane's address is unpoisoned and translates with a need, to the physical address that `pa` gives. -/
def Reaches (s : State) (c : Ctx) (a o z need : Nat) (ls : List Nat) (pa : Nat → Nat) : Prop :=
  ∀ l ∈ ls, (c.addr a l).2 = false ∧ s.translate c.key (laneVa c a o z l) (2 ^ z) need = .ok (pa l)

/-- The data that a lane stores: its registers from `d` on, the low `2^z` bytes. -/
def storeData (c : Ctx) (d z l : Nat) : Nat :=
  ((List.range (regsOf z)).foldl (fun x k => x + (c.opnd (d + k) l).bits.toNat * 2 ^ (32 * k)) 0) % 2 ^ (8 * 2 ^ z)

/-- Word operations of an atomic, by code, that need no rounding (05 R143): old value, data, compare value. -/
def atomicRows (x y z : Word) : List (Nat × Word) :=
  [(0, x + y), (1, if x.sle y then x else y), (2, if x.sle y then y else x), (3, if x.ule y then x else y),
   (4, if x.ule y then y else x), (5, x &&& y), (6, x ||| y), (7, x ^^^ y), (8, y), (9, if x = z then y else x),
   (14, if y.ule x then 0#32 else x + 1#32), (15, if x = 0#32 ∨ y.ult x then y else x - 1#32)]

/-- An object or record that an instruction names (05 R126; 12 R332; 13 R339): its address pair is unpoisoned and translates. -/
def ObjectAt (s : State) (c : Ctx) (q n need va pa : Nat) : Prop :=
  c.addr q 0 = (va, false) ∧ s.translate c.key va n need = .ok pa

/-- Lanes that a beat of a memory instruction carries, and its beats (06 R150; 11 R276): with an s-register destination it acts once. -/
def lanesPer (d z : Nat) : Nat := if isS d = true then 96 else if z = 4 then 16 else 32
/-- The beats of a memory instruction. -/
def beatsOf (w : Warp) (d z : Nat) : Nat := if isS d = true then 1 else w.width / lanesPer d z

/-- The latency of the lanes `ls` of a memory instruction at `pa` (02 R46). -/
def latencyFor (c : Ctx) (d z : Nat) (pa : Nat → Nat) (ls : List Nat) : Nat :=
  latencyL (coreOf c.key) (beatsOf c.w d z) (ls.map fun l => (l / lanesPer d z, granOf (pa l))).eraseDups

/-- A plain store of another agent lies within 16 clk of a bank slot (02 R44). -/
def Raced (m : Sram) (agent gran slot : Nat) : Prop :=
  ∃ p ∈ m.plain, p.gran = gran ∧ p.agent ≠ agent ∧ p.slot ≤ slot + 16 ∧ slot ≤ p.slot + 16

end Sys2Proof.Says
end

