-- ==== Sys2Proof/Certificates/Slice0/Obligations.lean ====
section
/-! DEFINITION. The statements of this package: one definition each, listed in OBLIGATIONS.json. -/
open Sys2Proof Sys2Proof.Machine Sys2Proof.Says

/-! ### Instructions of the lanes and of the uniform unit -/

/-- 08 R201-R203 with R200: every integer arithmetic instruction completes wherever its operands may be named, with the value of
the table in the active lanes, or in the s-register, and nothing else changed. -/
def Obligations.IntegerArithmeticResults : Prop :=
  ∀ (s : State) (key nid : Nat) (lit : Word) (w : Warp) (n d a b i : Nat), Issues s key nid lit w → n ≤ 1 →
    ∀ r ∈ arithRows n d a b i, let c := seen true s key nid lit w
      r.ok c n d → (r.i = .movhi d i → i < 2 ^ 14) →
      Answers r.i s fun t => AnyResult s t c (c.npc r.srcs) n d (r.inLane c d) (r.inLane c d 0)

/-- 08 R204-R207 with R200: logic, shifts, counts, PRMT, BFE and BFI complete with the value of the table. -/
def Sys2Proof.Says.LogicShiftAndField : Prop :=
  ∀ (s : State) (key nid : Nat) (lit : Word) (w : Warp) (n d a b i : Nat), Issues s key nid lit w → n ≤ 1 → i < 2 ^ 11 →
    ∀ r ∈ logicRows n d a b i ++ fieldRows n d a b, let c := seen true s key nid lit w
      r.ok c n d → Answers r.i s fun t => AnyResult s t c (c.npc r.srcs) n d (r.inLane c d) (r.inLane c d 0)

/-- 08 R208: SEL picks a where the predicate, inverted on request, holds, else b; on the uniform unit the lowest active lane's
predicate picks. -/
def Sys2Proof.Says.SelectResult : Prop :=
  ∀ (s : State) (key nid : Nat) (lit : Word) (w : Warp) (n d a b v p : Nat), Issues s key nid lit w → n ≤ 1 → v ≤ 1 → p ≤ 7 →
    let c := seen true s key nid lit w
    let truth (l : Nat) : Bool := (c.w.pAt p).getLsbD l != decide (v = 1)
    (if n = 0 ∧ isS d = true then uniSrcOk a = true ∧ uniSrcOk b = true else c.srcOk a = true ∧ c.srcOk b = true ∧ d ≤ 95) →
    Answers (.sel n d a b v p) s fun t => AnyResult s t c (c.npc [a, b]) n d
      (fun l => if truth l then c.opnd a l else c.opnd b l) (if truth c.low then c.opndU a else c.opndU b)

/-- 08 R204-R208: logic, shifts, bit fields and SEL. -/
def Obligations.LogicShiftAndFieldResults : Prop := LogicShiftAndField ∧ SelectResult

/-- 07 R194 check 7, R182: an integer instruction that names a source it may not read raises ILLEGAL_OPERAND: the warp parks for
code 17 and no register changes. -/
def Obligations.IllegalSourceParksTheWarp : Prop :=
  ∀ (s : State) (key nid : Nat) (lit : Word) (w : Warp) (n d a b i : Nat), Issues s key nid lit w → n ≤ 1 →
    ∀ r ∈ arithRows n d a b i ++ logicRows n d a b i ++ fieldRows n d a b, let c := seen true s key nid lit w
      (if n = 0 ∧ isS d = true then r.srcs.all uniSrcOk = false else r.srcs.all c.srcOk = false) →
      Answers r.i s fun t => ∃ w' : Warp, t.warp key = some w' ∧ w'.status = .parked ∧
        (∃ m, w'.park = some (17, 0, 0, nid, m)) ∧ w'.v = w.v ∧ w'.s = w.s ∧ w'.p = w.p ∧ t.mem = s.mem


/-- 08 R209; 10 R260, R261: CMP.W, CMP and CLASS write the predicate of every active lane with the truth of their condition,
where no active lane reads poison. -/
def Sys2Proof.Says.CompareResults : Prop :=
  ∀ (s : State) (key nid : Nat) (lit : Word) (w : Warp) (d a b cc : Nat), Issues s key nid lit w →
    let c := seen true s key nid lit w
    let et := etOf c.p.mode
    let t := ety et
    let bits (k l : Nat) : Word := (c.opnd k l).bits
    d < 7 → c.srcOk a = true → c.srcOk b = true → Unpoisoned c [a, b] →
    (cc ≤ 9 → Answers (.cmpW d a b cc) s fun u => PredicateOf s u c (c.npc [a, b]) d fun l => wordCond cc (bits a l) (bits b l)) ∧
    (cc ≤ 13 → (if cc ≤ 5 then etAny et = true else etFloat et = true) →
      Answers (.cmp d a b cc) s fun u => PredicateOf s u c (c.npc [a, b]) d fun l => (List.range t.n).all fun i =>
        cmpElem cc (nmode c.p.mode) t (elemN (bits a l).toNat t i) (elemN (bits b l).toNat t i)) ∧
    (∀ f, t.fmt = some f → etFloat et = true →
      Answers (.classOf d a b) s fun u => PredicateOf s u c (c.npc [a, b]) d fun l => (List.range t.n).all fun i =>
        (bits b l).getLsbD (classOf f (elemN (bits a l).toNat t i)))

/-- 08 R210: the predicate instructions. -/
def Sys2Proof.Says.PredicateInstructionResults : Prop :=
  ∀ (s : State) (key nid : Nat) (lit : Word) (w : Warp) (n d a b : Nat), Issues s key nid lit w →
    let c := seen true s key nid lit w
    let src (f l : Nat) : Bool := (c.w.pAt (f % 8)).getLsbD l != decide (f / 8 % 2 = 1)
    (d < 7 →
      Answers (.pand d a b) s (fun t => PredicateOf s t c (c.npc []) d fun l => src a l && src b l) ∧
      Answers (.por d a b) s (fun t => PredicateOf s t c (c.npc []) d fun l => src a l || src b l) ∧
      Answers (.pxor d a b) s (fun t => PredicateOf s t c (c.npc []) d fun l => src a l != src b l) ∧
      Answers (.pnot d a) s (fun t => PredicateOf s t c (c.npc []) d fun l => !src a l)) ∧
    (n ≤ 1 → (n = 1 ∨ d < 64) → Answers (.pmovs n d) s fun t =>
      ∃ res, LaneResult s t c (c.npc []) n d res 0 ∧ ∀ l, l < 96 → c.act.getLsbD l = true → (res l).psn = false ∧
        ∀ k, k < 32 → (res l).bits.getLsbD k = (decide (k < 8) && (c.w.pAt k).getLsbD l)) ∧
    (c.srcOk a = true → c.srcOk b = true → Unpoisoned c [a, b] → Answers (.pmovp a b) s fun t =>
      ∃ p, Ends s t c (c.npc [a, b]) (fun w => { w with p := p }) ∧ ∀ k l, l < 96 → (sget 0#96 p k).getLsbD l =
        if k < 7 ∧ c.act.getLsbD l = true ∧ (c.opnd b l).bits.getLsbD k = true then (c.opnd a l).bits.getLsbD k
        else (sget 0#96 c.w.p k).getLsbD l)

/-- 08 R206-R210: comparisons and the predicate instructions. -/
def Obligations.ComparisonAndPredicateResults : Prop := CompareResults ∧ PredicateInstructionResults

/-- 08 R212: votes, matches and the elected lane, where no active lane reads poison. -/
def Sys2Proof.Says.VoteResults : Prop :=
  ∀ (s : State) (key nid : Nat) (lit : Word) (w : Warp) (n d a k : Nat), Issues s key nid lit w →
    let c := seen true s key nid lit w
    let val (l : Nat) : Word := (c.opnd a l).bits
    let active (l : Nat) : Prop := l < 96 ∧ c.act.getLsbD l = true
    c.srcOk a = true → Unpoisoned c [a] →
    (n ≤ 1 → (n = 1 ∨ d < 64) → uniOk k = true → (c.opndU k).psn = false → (c.opndU k).bits.toNat < c.w.width / 32 →
      c.w.width ≤ 96 →
      let sel := (c.opndU k).bits.toNat
      Answers (.ballot n d a k) s (fun t => ∃ res, LaneResult s t c (c.npc [a, k]) n d res 0 ∧ ∀ l, active l →
        (res l).psn = false ∧ ∀ j, j < 32 → ((res l).bits.getLsbD j = true ↔ active (32 * sel + j) ∧ val (32 * sel + j) ≠ 0#32)) ∧
      Answers (.match n d a k) s (fun t => ∃ res, LaneResult s t c (c.npc [a, k]) n d res 0 ∧ ∀ l, active l →
        (res l).psn = false ∧ ∀ j, j < 32 →
          ((res l).bits.getLsbD j = true ↔ active (32 * sel + j) ∧ val (32 * sel + j) = val l))) ∧
    (d < 7 →
      Answers (.vany d a) s (fun t => ∃ x : Bool, (x = true ↔ ∃ l, active l ∧ val l ≠ 0#32) ∧
        PredicateOf s t c (c.npc [a]) d fun _ => x) ∧
      Answers (.vall d a) s (fun t => ∃ x : Bool, (x = true ↔ ∀ l, active l → val l ≠ 0#32) ∧
        PredicateOf s t c (c.npc [a]) d fun _ => x) ∧
      Answers (.elect d) s (fun t => ∃ f : Nat → Bool, PredicateOf s t c (c.npc []) d f ∧
        ∀ l, active l → (f l = true ↔ ∀ j, active j → l ≤ j)))

/-- 08 R213, R214: the lane moves: each active lane receives the value of the lane it names, or what the rule gives where that
lane is not active. -/
def Sys2Proof.Says.LaneMoveResults : Prop :=
  ∀ (s : State) (key nid : Nat) (lit : Word) (w : Warp) (n d a b : Nat), Issues s key nid lit w → n ≤ 1 → (n = 1 ∨ d < 64) →
    let c := seen true s key nid lit w
    let from_ (j : Nat) (e : Val) : Val := if j < c.w.width ∧ c.act.getLsbD j = true then c.opnd a j else e
    let soft (x : Val) (l : Nat) : Val := { x with psn := x.psn || (c.opnd b l).psn }
    let by_ (l : Nat) : Nat := (c.opnd b l).bits.toNat
    c.srcOk a = true →
    (c.srcOk b = true →
      Answers (.shflIdx n d a b) s (fun t => LaneResult s t c (c.npc [a, b]) n d
        (fun l => soft (from_ (by_ l % 128) (c.opnd a l)) l) 0) ∧
      Answers (.shflUp n d a b) s (fun t => LaneResult s t c (c.npc [a, b]) n d
        (fun l => soft (if by_ l ≤ l then from_ (l - by_ l) {} else {}) l) 0) ∧
      Answers (.shflDn n d a b) s (fun t => LaneResult s t c (c.npc [a, b]) n d (fun l => soft (from_ (l + by_ l) {}) l) 0) ∧
      Answers (.shflXor n d a b) s (fun t => LaneResult s t c (c.npc [a, b]) n d
        (fun l => soft (from_ (l ^^^ (by_ l % 128)) (c.opnd a l)) l) 0)) ∧
    (uniOk b = true → (c.opndU b).psn = false → Answers (.readlane n d a b) s fun t => LaneResult s t c (c.npc [a, b]) n d
      (fun _ => let j := (c.opndU b).bits.toNat
        if j < c.w.width ∧ c.p.mask.getLsbD j = true then c.opnd a j else {}) 0) ∧
    Answers (.bcast n d a) s (fun t => LaneResult s t c (c.npc [a]) n d (fun _ => c.opnd a c.low) 0)

/-- 08 R211-R214: votes and lane moves. -/
def Obligations.CrossLaneResults : Prop := VoteResults ∧ LaneMoveResults

/-- 08 R215: WREDUCE gives every active lane the result of the fixed tree over the active lanes' values. -/
def Obligations.WarpReductionResults : Prop :=
  ∀ (s : State) (key nid : Nat) (lit : Word) (w : Warp) (n d a : Nat), Issues s key nid lit w → n ≤ 1 → (n = 1 ∨ d < 64) →
    let c := seen true s key nid lit w
    let et := etOf c.p.mode
    let md := nmode c.p.mode
    let q := (lanesOf c.act).any (fun l => (c.opnd a l).psn)
    let tree (op : Nat) : Nat × Nat := (treeReduce (wredNode et md op) 8 ((List.range c.w.width).map fun l =>
      if c.act.getLsbD l then some ((c.opnd a l).bits.toNat, 0) else none)).getD (0, 0)
    let flags (op : Nat) : Nat := if q then 0 else (tree op).2
    c.srcOk a = true → et ≤ 2 →
    ∀ e ∈ [(Instr.wreduceAdd n d a, 0), (.wreduceMin n d a, 1), (.wreduceMax n d a, 2)],
      trapping md (flags e.2) = false → Answers e.1 s fun t =>
        LaneResult s t c (c.npc [a]) n d (fun _ => ⟨BitVec.ofNat 32 (tree e.2).1, q⟩) (flags e.2)

/-! ### Typed arithmetic -/

/-- A typed row completes (10 R253): the mode's element type is accepted, its operands may be named, and no active lane raises a
flag that traps; every active lane receives its result, and the flags raised stick. -/
def Sys2Proof.Says.TypedCompletes (rows : Nat → Nat → Nat → Nat → List TypedRow) : Prop :=
  ∀ (s : State) (key nid : Nat) (lit : Word) (w : Warp) (n d a b : Nat), Issues s key nid lit w → n ≤ 1 →
    (if n = 1 then d ≤ 95 else d < 64) →
    ∀ r ∈ rows n d a b, let c := seen true s key nid lit w
      r.accept (etOf c.p.mode) = true → r.srcs.all c.srcOk = true →
      (∀ l, l < 96 → c.act.getLsbD l = true → trapping (nmode c.p.mode) (r.lane c l).2 = false) →
      Answers r.i s fun t => LaneResult s t c (c.npc r.srcs) n d (fun l => (r.lane c l).1) (r.flags c)

/-- 10 R255, R256, R262, R271: arithmetic, minimum and maximum, fused multiply and add, and dot products. -/
def Sys2Proof.Says.TypedArithmetic : Prop := TypedCompletes typedArithRows

/-- 10 R257-R259, R266, R269, R270: signs, scaling, exponents and integral values; packing and unpacking. -/
def Obligations.TypedShapeAndPackingResults : Prop := TypedCompletes fun n d a b => typedShapeRows n d a b ++ typedMoveRows n d a b

/-- 10 R263-R265: the transcendental functions, each a fixed function of operand bits and mode. -/
def Sys2Proof.Says.TypedFunctions : Prop := TypedCompletes fun n d a _ => typedFunctionRows n d a

/-- 10 R255, R256, R262-R265, R271: the typed arithmetic and the transcendental functions. -/
def Obligations.TypedArithmeticResults : Prop := TypedArithmetic ∧ TypedFunctions

/-- 10 R267, R268: CVT between element types, with the element counts of the rule's table. A poisoned field number within
range makes every result poisoned and raises no flag (04 R114; 10 R253); one out of range raises ILLEGAL_OPERAND, poisoned or not. -/
def Obligations.ConversionResults : Prop :=
  ∀ (s : State) (key nid : Nat) (lit : Word) (w : Warp) (n d a b st : Nat), Issues s key nid lit w → n ≤ 1 →
    (n = 1 ∨ d < 64) → st ≤ 10 →
    let c := seen true s key nid lit w
    let dn := (ety (etOf c.p.mode)).n
    let sn := (ety st).n
    let h := if dn < sn then (c.opndU b).bits.toNat % (sn / dn) else 0
    let bad : Bool := decide (dn < sn) && (c.opndU b).psn
    c.srcOk a = true →
    (if dn = sn then b = 0 else if dn < sn then uniOk b = true ∧ (c.opndU b).bits.toNat < sn / dn else c.srcOk b = true) →
    (bad = true ∨ ∀ l, l < 96 → c.act.getLsbD l = true → trapping (nmode c.p.mode) (c.cvtLane a b st h l).2 = false) →
    Answers (.cvt n d a b st) s fun t => LaneResult s t c (c.npc (if dn = sn then [a] else [a, b])) n d
      (fun l => if bad then { (c.cvtLane a b st h l).1 with psn := true } else (c.cvtLane a b st h l).1)
      (if bad then 0 else (lanesOf c.act).foldl (fun x l => x ||| (c.cvtLane a b st h l).2) 0)

/-! ### System and control instructions -/

/-- 08 R220, R226-R228, R230, R232; 08 R221: instructions that change the warp or the path they name and nothing else, and go on at
the next instruction. `uni a` is a usable uniform operand that is not poisoned. -/
def Sys2Proof.Says.SystemInstructionEffects : Prop :=
  ∀ (s : State) (key nid : Nat) (lit : Word) (w : Warp) (a k : Nat), Issues s key nid lit w →
    let c := seen true s key nid lit w
    let u := seen false s key nid lit w
    let next (codes : List Nat) := goesOn s (c.npc codes)
    let x := (c.opndU a).bits
    let uni : Prop := uniOk a = true ∧ (c.opndU a).psn = false
    Answers .nop s (fun t => Leaves s t c (counts c) id (next [])) ∧
    (k ≤ 3 → Answers (.hint k) s fun t => Leaves s t c (counts c) (fun w => if c.any then { w with hint := k } else w) (next [])) ∧
    (c.any = true → c.w.ic < 15 → Answers (.idem 0) s fun t =>
      Leaves s t c (counts c) (fun w => { w with ic := w.ic + 1 }) (next [])) ∧
    (c.any = true → 0 < c.w.ic → Answers (.idem 1) s fun t =>
      Leaves s t c (counts c) (fun w => { w with ic := w.ic - 1 }) (next [])) ∧
    (uni → c.any = true → Answers (.timer a) s fun t => Leaves s t c (counts c)
      (fun w => { w with deadline := if x = 0#32 then 2 ^ 64 - 1 else (s.clk + x.toNat) % 2 ^ 64 }) (next [a])) ∧
    (uni → c.any = true → Answers (.swr a 15) s fun t => Leaves s t c (counts c) id
      (fun n => { next [a] n with swr := x })) ∧
    (uni → c.any = true → Answers (.swr a 14) s fun t => Leaves s t c (counts c)
      (fun w => { w with deadline := (c.p.swr ++ x).toNat }) (next [a])) ∧
    (k % 16 ^ 2 / 16 ≤ 10 → k / 2 ^ 8 % 8 ≤ 5 → k < 2 ^ 16 → Answers (.mode k) s fun t => Leaves s t u (counts u) id
      (fun n => { next [] n with mode := BitVec.ofNat 16 k })) ∧
    (isS a = true → (u.opndU a).psn = false → x.toNat < 2 ^ 16 → x.toNat / 16 % 16 ≤ 10 → x.toNat / 2 ^ 8 % 8 ≤ 5 →
      Answers (.modex a) s fun t => Leaves s t u (counts u) id (fun n => { next [] n with mode := x.truncate 16 })) ∧
    (c.any = true → 0 < k → Answers (.yield k) s fun t => Leaves s t c (counts c)
      (fun w => { w with yv := 0, age := subClk s key (4 * k) }) (fun n => { next [] n with wait := .yield (subClk s key (4 * k)) })) ∧
    (c.any = true → Answers (.yield 0) s fun t => Leaves s t c (counts c) (fun w => { w with yv := 0, age := subClk s key 1 }) (next [])) ∧
    (c.any = true → w.serial = [] → Answers .spin s fun t => Leaves s t c (counts c) (fun w => { w with yv := 0 })
      (fun n => { next [] n with spn := true }))

/-- 08 R225, R224 (no lane), R227 and R226 with no lane active: an instruction that acts once per issue does nothing but go on
where no lane is active; a TRAP or a BKPT whose context has no debug flag then does nothing either. -/
def Sys2Proof.Says.NoActiveLaneOnlyGoesOn : Prop :=
  ∀ (s : State) (key nid : Nat) (lit : Word) (w : Warp) (k : Nat), Issues s key nid lit w →
    let c := seen true s key nid lit w
    c.any = false →
    (∀ i ∈ [Instr.trap k, .bkpt k, .yield k, .spin], Answers i s fun t => Ends s t c (c.npc []) fun w => { w with yv := 0 }) ∧
    (k ≤ 1 → Answers (.idem k) s fun t => Ends s t c (c.npc []) id) ∧
    ∀ a, uniOk a = true → ∀ i ∈ [Instr.timer a, .swr a 14, .swr a 15], Answers i s fun t => Ends s t c (c.npc [a]) id

/-- 08: the instructions that act on the path and the warp, and instructions without an active lane. -/
def Obligations.SystemInstructionResults : Prop := SystemInstructionEffects ∧ NoActiveLaneOnlyGoesOn

/-- 08 R232: NOP changes nothing but the PC (the warp's completion counts of 09 R247 go on as after every instruction); the word 0 is NOP, and
one with a field that is not 0 raises ILLEGAL_INSTRUCTION. Of the rule's worked check, SRD s3, %coreid is the word given, and runs
on the uniform unit; SRD s3, %laneid raises ILLEGAL_OPERAND. -/
def Obligations.NopAndTheWorkedCheck : Prop :=
  decode 0 = .ok .nop ∧ decode 0x00486004 = .ok (.srd 67 4) ∧ decode 0x00486000 = .ok (.srd 67 0) ∧
    (∀ w, 0 < w → w < 2 ^ 20 → ∃ r, decode w = .error r ∧ ∀ (s : State) (key nid : Nat) (x : Warp), s.warp key = some x → swf none s.warps = true →
      ∃ y, (s.fetchFault key nid (.reject r)).warp key = some y ∧ y.status = .parked ∧ ∃ m, y.park = some (16, 0, 0, nid, m)) ∧
    ∀ (s : State) (key nid : Nat) (lit : Word) (w : Warp), Issues s key nid lit w →
      let c := seen true s key nid lit w
      Answers .nop s (fun t => Leaves s t c (counts c) id (goesOn s (c.p.pc + 4#32))) ∧
      (c.any = true → Answers (.srd 67 4) s fun t => UniformResult s t c (c.p.pc + 4#32) 67 ⟨BitVec.ofNat 32 (key / 128), false⟩) ∧
      Answers (.srd 67 0) s fun t => ∃ y, t.warp key = some y ∧ y.status = .parked ∧ ∃ m, y.park = some (17, 0, 0, nid, m)

/-- 08 R225 with 16 R418: TRAP parks the warp with ILLEGAL_INSTRUCTION, cause TRAP and its code; BKPT with cause BREAK and its tag
where the context's debug flag is set, and does nothing where it is not. A parked warp keeps its registers and its path. -/
def Obligations.TrapAndBreakpoint : Prop :=
  ∀ (s : State) (key nid : Nat) (lit : Word) (w : Warp) (k : Nat), Issues s key nid lit w →
    let c := seen true s key nid lit w
    let parks (cause : Nat) (t : State) : Prop := ∃ w' : Warp, t.warp key = some w' ∧ w'.status = .parked ∧
      (∃ m, w'.park = some (16, cause, k, nid, m)) ∧ w'.v = w.v ∧ w'.s = w.s ∧ w'.p = w.p ∧ (t.node key nid).pc = c.p.pc ∧
      t.mem = s.mem ∧ ∃ f, (t.ctx w.ctx).pending = (s.ctx w.ctx).pending ++ [f] ∧ f.work = .warp w.team w.warpId
    swf {} s.ctxs = true → swf none s.teams = true → c.any = true →
    Answers (.trap k) s (parks 1) ∧
    ((s.ctx w.ctx).dbg = true → Answers (.bkpt k) s fun t => parks 2 t ∧
      ∃ f ∈ (t.ctx w.ctx).pending, f.toDriver = true) ∧
    ((s.ctx w.ctx).dbg = false → Answers (.bkpt k) s fun t => Ends s t c (c.npc []) fun w => { w with yv := 0 })

/-- 08 R229: SRD delivers the special register that the selector names; `%tb_ns` also takes the path's snapshot, which the other
`%tb` selectors then deliver. -/
def Sys2Proof.Says.SpecialRegisterReads : Prop :=
  ∀ (s : State) (key nid : Nat) (lit : Word) (w : Warp) (d sel : Nat), Issues s key nid lit w → d ≤ 95 →
    let c := seen true s key nid lit w
    (∀ f : Nat → Nat, (∀ l, (sel, f l) ∈ specialRows s c l) → (isS d = true → sel ≠ 0) →
      Answers (.srd d sel) s fun t => AnyResult s t c (c.npc []) 0 d (fun l => ⟨BitVec.ofNat 32 (f l), false⟩)
        ⟨BitVec.ofNat 32 (f 0), false⟩) ∧
    (c.any = true → Answers (.srd d 10) s fun t =>
      (t.node key nid).tb = ⟨s.tbase.sec, s.tbase.ns, s.tbase.frac⟩ ∧ (t.node key nid).pc = c.npc [] ∧
      ∃ w' : Warp, t.warp key = some w' ∧
        (if isS d = true then w'.sAt (d - 64) = ⟨BitVec.ofNat 32 s.tbase.ns, false⟩
         else ∀ l, l < 96 → c.act.getLsbD l = true → w'.vAt (c.p.wb + d) l = ⟨BitVec.ofNat 32 s.tbase.ns, false⟩))

/-- 08 R231: CLK delivers a whole time value to consecutive registers, the lowest word first, at one instant. -/
def Sys2Proof.Says.ClockReads : Prop :=
  ∀ (s : State) (key nid : Nat) (lit : Word) (w : Warp) (d sel : Nat), Issues s key nid lit w →
    let c := seen true s key nid lit w
    let ws : List Nat := match sel with
      | 0 => [low32 s.clk, high32 s.clk]
      | 1 => [low32 c.w.cyc, high32 c.w.cyc]
      | _ => [s.tbase.frac, s.tbase.ns, low32 s.tbase.sec, s.tbase.sec / 2 ^ 32 % 2 ^ 16]
    sel ≤ 2 → d % ws.length = 0 → d ≤ 95 → c.any = true →
    Answers (.clk d sel) s fun t => (t.node key nid).pc = c.npc [] ∧
      ((t.node key nid).tb = if sel = 2 then ⟨s.tbase.sec, s.tbase.ns, s.tbase.frac⟩ else c.p.tb) ∧
      ∃ w' : Warp, t.warp key = some w' ∧ ∀ k, k < ws.length →
        (if isS d = true then w'.sAt (d - 64 + k) = ⟨BitVec.ofNat 32 (ws.getD k 0), false⟩
         else ∀ l, l < 96 → c.act.getLsbD l = true → w'.vAt (c.p.wb + d + k) l = ⟨BitVec.ofNat 32 (ws.getD k 0), false⟩)

/-- 08 R227-R231: what SRD and CLK read. -/
def Obligations.SpecialRegisterAndClockReads : Prop := SpecialRegisterReads ∧ ClockReads

/-- 08 R216, 06 R165, R172: BRA goes to its target where every lane takes it and to the next instruction where none does; where the
lanes disagree and the sub-core has two free entries, the path becomes a split whose two children hold the lanes of each side, the
lower address first. -/
def Obligations.BranchOutcomes : Prop :=
  ∀ (s : State) (key nid : Nat) (lit : Word) (w : Warp) (inv pr off : Nat), Issues s key nid lit w → inv ≤ 1 → pr ≤ 7 →
    let c := seen false s key nid lit w
    let target := branchTarget c.p.pc (BitVec.ofNat 22 off)
    let next := c.p.pc + 4#32
    let take := takers c inv pr
    (take = c.p.mask → ¬ Spins c.p target → Answers (.bra inv pr off) s fun t => Branches s t c target (spun c.p target)) ∧
    (take = 0#96 → c.p.mask ≠ 0#96 → Answers (.bra inv pr off) s fun t =>
      Branches s t c next (if target.toNat ≤ c.p.pc.toNat then 0 else c.p.spc)) ∧
    (take ≠ c.p.mask → take ≠ 0#96 → target ≠ next → nid ≤ 64 → c.p.kind = .path → s.mayTake key 2 = true →
      ∀ e1 e2, s.freeEntries key 2 = [e1, e2] → Answers (.bra inv pr off) s fun t =>
        let first := if target.toNat ≤ next.toNat then (target, take) else (next, c.p.mask &&& ~~~take)
        let second := if target.toNat ≤ next.toNat then (next, c.p.mask &&& ~~~take) else (target, take)
        (t.node key nid).kind = .split ∧
        (∀ e ∈ [(e1, first), (e2, second)], (t.node key e.1).kind = .path ∧ (t.node key e.1).parent = nid ∧
          (t.node key e.1).pc = e.2.1 ∧ (t.node key e.1).mask = e.2.2 ∧ (t.node key e.1).mode = c.p.mode ∧
          (t.node key e.1).wb = c.p.wb ∧ (t.node key e.1).slot = key % 8) ∧
        t.mem = s.mem ∧ ∀ k, k ≠ key → t.warp k = s.warp k)

/-- 08 R217, R218, 06 R158: CALL and CALLX slide the window up by their frame, put the frame into v62 and the link into v63 of every
lane and go to the target; BRX goes to the target its lanes agree on; RET slides back by v62 and goes to v63. Each where its
lanes agree and the window stays inside the register file. -/
def Obligations.CallsAndReturns : Prop :=
  ∀ (s : State) (key nid : Nat) (lit : Word) (w : Warp) (a f off : Nat), Issues s key nid lit w →
    let c := seen false s key nid lit w
    let slid (t : State) (target link : Word) : Prop := ∃ v, Leaves s t c (counts c) (fun w => { w with v := v, yv := 0 })
        (fun n => { n with wb := c.p.wb + f, pc := target, since := s.clk }) ∧
      ∀ pos l, l < 96 → sget {} v (pos * 128 + l) =
        if c.p.mask.getLsbD l = true ∧ pos = c.p.wb + f + 63 then ⟨link, false⟩
        else if c.p.mask.getLsbD l = true ∧ pos = c.p.wb + f + 62 then ⟨BitVec.ofNat 32 f, false⟩ else c.w.vAt pos l
    (InFrame c.w (c.p.wb + f) →
      Answers (.call f off) s fun t => slid t (branchTarget c.p.pc (BitVec.ofNat 20 off)) (c.p.pc + 4#32)) ∧
    (∀ target : Word, c.srcOk a = true → c.p.mask ≠ 0#96 → target.toNat % 4 = 0 →
      (∀ l, l < 96 → c.p.mask.getLsbD l = true → c.opnd a l = ⟨target, false⟩) →
      (¬ Spins c.p target → Answers (.brx a) s fun t => Branches s t c target (spun c.p target)) ∧
      (InFrame c.w (c.p.wb + f) → Answers (.callx a f) s fun t => slid t target (c.npc [a]))) ∧
    (∀ link : Word, c.p.mask ≠ 0#96 → f ≤ 63 → f ≤ c.p.wb → InFrame c.w (c.p.wb - f) →
      (∀ l, l < 96 → c.p.mask.getLsbD l = true → c.opnd 62 l = ⟨BitVec.ofNat 32 f, false⟩ ∧ c.opnd 63 l = ⟨link, false⟩) →
      Answers .ret s fun t => Leaves s t c (counts c) (fun w => { w with yv := 0 })
        (fun n => { n with wb := c.p.wb - f, pc := link &&& 0xfffffffc#32, since := s.clk }))

/-- 06 R167: JOIN of a warp that has not diverged is a step to the next instruction, and counts no completion (09 R247). -/
def Sys2Proof.Says.JoinOfAnUndivergedWarp : Prop :=
  ∀ (s : State) (key : Nat) (lit : Word) (w : Warp), Issues s key 64 lit w → s.entries key = [] → w.serial = [] → w.root.kind = .path →
    Answers .join s fun t => Leaves s t (seen false s key 64 lit w) w.cnt (fun w => { w with yv := 0 })
      (fun n => { n with pc := n.pc + 4#32 })

/-- 06 R168: a split all of whose children wait at its JOIN becomes one path of all their lanes, past the JOIN, and its children's
entries are free. -/
def Sys2Proof.Says.SplitMergesAtItsJoin : Prop :=
  ∀ (s : State) (key nid a b : Nat) (w : Warp), s.warp key = some w → swf none s.warps = true → swf {} s.belay = true →
    nid < 64 → a < 64 → b < 64 → a ≠ b → a ≠ nid → b ≠ nid → s.children key nid = [a, b] →
    (s.node key nid).kind = .split → (s.node key nid).fs = false →
    (∀ e ∈ [a, b], (s.node key e).kind = .path ∧ (s.node key e).wait = .join ∧ (s.node key e).mask ≠ 0#96) →
    ∃ t, s.settleAt key nid = some (t, false) ∧ (t.node key nid).kind = .path ∧ (t.node key nid).wait = .none ∧
      (t.node key nid).mask = (s.node key a).mask ||| (s.node key b).mask ∧ (t.node key nid).pc = (s.node key nid).pc + 4#32 ∧
      t.node key a = {} ∧ t.node key b = {} ∧ t.mem.bytes = s.mem.bytes

/-- 06 R167, R168: JOIN without a split, and the merge of a split at its JOIN. -/
def Obligations.ReconvergenceResults : Prop := JoinOfAnUndivergedWarp ∧ SplitMergesAtItsJoin

/-- 08 R219: AWAIT goes on at its continuation once few enough of the warp's Hod commands are incomplete and none belongs to an
earlier queue, and otherwise waits, its path unselectable, without completing. -/
def Sys2Proof.Says.AwaitOutcomes : Prop :=
  ∀ (s : State) (key nid : Nat) (lit : Word) (w : Warp) (a n : Nat), Issues s key nid lit w →
    let c := seen true s key nid lit w
    let x := (c.opndU a).bits
    let cont := if a = 103 then c.npc [a] else x
    uniOk a = true → (c.opndU a).psn = false → x.toNat % 4 = 0 → c.any = true →
    (w.ocp = 0 → w.oc ≤ n → Answers (.await a n) s fun t => Ends s t c cont fun w => { w with yv := 0 }) ∧
    ((w.ocp ≠ 0 ∨ n < w.oc) → Answers (.await a n) s fun t =>
      Leaves s t c w.cnt (fun w => { w with yv := 0 }) (fun p => { p with wait := .await n cont }))

/-- 08 R224, 06 R169, R173: EXIT of a warp that has not diverged takes its active lanes out; where no lane is left the warp has
exited, its arrival records and waits gone, and its team has one warp less. -/
def Sys2Proof.Says.ExitEndsLanes : Prop :=
  ∀ (s : State) (key : Nat) (lit : Word) (w : Warp), Issues s key 64 lit w → s.entries key = [] → w.serial = [] → w.arrive = [] → w.finals = [] →
    w.root.kind = .path → w.status = .resident → swf none s.teams = true →
    let c := seen true s key 64 lit w
    (c.p.mask &&& ~~~c.act ≠ 0#96 → Answers .exit s fun t => Leaves s t c (counts c) (fun w => { w with yv := 0 })
      (fun n => { goesOn s (c.npc []) n with mask := c.p.mask &&& ~~~c.act })) ∧
    (∀ tm : Team, s.team w.team = some tm → (∀ x ∈ s.ashs, x.2.team ≠ some w.team) → c.p.mask ≠ 0#96 → c.act = c.p.mask →
      Answers .exit s fun t => ∃ w' tm', t.warp key = some w' ∧ w'.status = .exited ∧ t.team w.team = some tm' ∧
        tm'.left = tm.left - 1 ∧ (tm.left ≤ 1 → tm'.status = .ended) ∧ t.mem.bytes = s.mem.bytes)

/-- 08 R219, R224: AWAIT, and EXIT. -/
def Obligations.WaitAndExitOutcomes : Prop := AwaitOutcomes ∧ ExitEndsLanes

/-! ### Memory -/

/-- 01 R24: the S-space translation of an address in a segment: backing slices in turn by 256-byte granules; an address in no
segment faults with code 2, a missing permission with code 4, a page of a staging segment that is not resident with code 1. -/
def Sys2Proof.Says.SegmentTranslation : Prop :=
  ∀ (c : Context) (va need : Nat), c.phys = false →
    ((∀ e ∈ c.seg, segHolds e.2 va = false) → c.xlateS va need = .error 2) ∧
    (∀ k e, (k, e) ∈ c.seg → segHolds e va = true → (∀ x ∈ c.seg, segHolds x.2 va = true → x = (k, e)) →
      (need &&& segPerm e ≠ need → c.xlateS va need = .error 4) ∧
      (need &&& segPerm e = need →
        let delta := va - segBase e
        let resident := sget false c.resid (segRbase e + delta / 65536) = true
        (segKind e = 3 → ¬ resident → c.xlateS va need = .error 1) ∧ ((segKind e = 3 → resident) → c.xlateS va need = .ok ((segSlice e + delta / 256 % segN e) * 2 ^ 24 + segOff e + delta / 256 / segN e * 256 + delta % 256))))

/-- 01 R13, R16: an access that is not aligned to its size faults with ALIGN before any translation, and one outside S-space and
L-space with SEGMENT. -/
def Sys2Proof.Says.AlignmentAndSpaces : Prop :=
  ∀ (s : State) (key va size need : Nat) (w : Warp), s.warp key = some w →
    (va % size ≠ 0 → s.translate key va size need = .error 3) ∧
    (va % size = 0 → 2 ^ 32 + 2 ^ 24 ≤ va → s.translate key va size need = .error 2)

/-- 01 R13-R21: how an address is translated, and when it is not. -/
def Obligations.TranslationResults : Prop := SegmentTranslation ∧ AlignmentAndSpaces

/-- 11 R276, R277; 02 R46, R48: LD and LDAQ go on at once with their reads on their way: each active lane's bytes, little-endian into
consecutive registers; an s-register destination takes the lowest active lane's. No register and no memory changes yet. LDAQ of a
scope above .WP holds the path's later accesses to its write-back. -/
def Sys2Proof.Says.LoadsAreSent : Prop :=
  ∀ (s : State) (key nid : Nat) (lit : Word) (w : Warp) (d a o z sc : Nat) (pa : Nat → Nat), Issues s key nid lit w →
    let c := seen true s key nid lit w
    let ls := lanesFor c d
    let L := latencyFor c d z pa ls
    let dst : FlightDst := if isS d = true then .uni (d - 64) (regsOf z) else .lanes (c.p.wb + d) (regsOf z)
    z ≤ 4 → o < 32 → addrOk a = true → d ≤ 95 → regSpan d z = true → (isS d = true → isS a = true ∧ (z = 2 ∨ z = 3)) →
    Reaches s c a o z needR ls pa →
    let sent (plain : Bool) (t : State) : Prop := MemoryStep s t c (c.npc [a]) [] [] (fun _ => True) ∧ t.mem = s.mem ∧
      Sent s t c (.load plain) dst ls (lanesPer d z) (beatsOf w d z) L (fun l => { lane := l, pa := pa l, n := 2 ^ z })
    Answers (.ld d a o z) s (sent true) ∧
    Answers (.ldaq d a o z sc) s fun t => sent false t ∧
      (0 < sc → s.coreClk (coreOf key) (beatsOf w d z - 1 + L) ≤ (t.node key nid).hold)

/-- 02 R48: what a memory instruction's beats bring at their write-back: each lane's bytes in consecutive registers, poisoned with their
bank word, and no other register. -/
def Sys2Proof.Says.WriteBackDelivers : Prop :=
  ∀ (w : Warp) (pos num : Nat) (ps : List AccPart), swf {} w.v = true → swf {} w.s = true → (ps.map (·.lane)).Nodup →
    (∀ p ∈ ps, p.lane < 96) →
    let x (p : AccPart) (k : Nat) : Val := ⟨BitVec.ofNat 32 (p.got / 2 ^ (32 * k)), p.psn⟩
    (∀ p ∈ ps, ∀ k, k < num → (w.deliver (.lanes pos num) ps).vAt (pos + k) p.lane = x p k) ∧
    (∀ r l, l < 96 → (r < pos ∨ pos + num ≤ r ∨ ∀ p ∈ ps, p.lane ≠ l) → (w.deliver (.lanes pos num) ps).vAt r l = w.vAt r l) ∧
    (w.deliver (.lanes pos num) ps).s = w.s ∧ (w.deliver (.uni pos num) ps).v = w.v ∧
    (∀ p, ps = [p] → ∀ k, k < num → (w.deliver (.uni pos num) ps).sAt (pos + k) = x p k) ∧
    ∀ r, r < pos ∨ pos + num ≤ r → (w.deliver (.uni pos num) ps).sAt r = w.sAt r

/-- 02 R42, R44; 04 R112: a read that takes effect at its bank slot gives each of its lanes the bytes there, poisoned where the bank
word is, or where a plain read meets another agent's plain store within 16 clk; it changes no byte. -/
def Sys2Proof.Says.ReadsTakeEffect : Prop :=
  ∀ (m : Sram) (agent : Nat) (a : BankAcc) (plain : Bool), swf false m.psn = true → swf false m.ueLat = true →
    let r := m.serve agent (.load plain) a
    r.1.served = true ∧ r.2.bytes = m.bytes ∧ r.1.parts.length = a.parts.length ∧
    ∀ p ∈ a.parts.zip r.1.parts, p.2.lane = p.1.lane ∧ p.2.got = memRead m.bytes p.1.pa p.1.n ∧
      (p.2.psn = true ↔ m.poisoned a.gran = true ∨ sget false m.ueLat a.gran = true ∨ (plain = true ∧ Raced m agent a.gran a.slot))

/-- 11 R276, R277; 02 R42-R48: LD and LDAQ, from their issue over their bank slots to their write-back. -/
def Obligations.LoadResults : Prop := LoadsAreSent ∧ ReadsTakeEffect ∧ WriteBackDelivers

/-- 11 R276: ST and STRL go on at once with each active lane's registers on their way to its address; the path's spin count is cleared
(06 R172). No byte of memory changes yet; a ST is noted as a plain store, and a later release waits for it (02 R44; 04 R102). -/
def Sys2Proof.Says.StoresAreSent : Prop :=
  ∀ (s : State) (key nid : Nat) (lit : Word) (w : Warp) (d a o z sc : Nat) (pa : Nat → Nat), Issues s key nid lit w →
    let c := seen true s key nid lit w
    let ls := lanesOf c.act
    z ≤ 4 → o < 32 → addrOk a = true → (if d ≤ 95 then regSpan d z = true else srcNoLatch d = true ∧ z ≤ 2) →
    Unpoisoned c ((List.range (regsOf z)).map (d + ·)) → Reaches s c a o z needW ls pa →
    let sent (t : State) (P : Warp → Prop) : Prop := MemoryStep s t c (c.npc [d, a]) [] [] P ∧ (t.node key nid).spc = 0 ∧
      t.mem = { s.mem with plain := t.mem.plain } ∧
      Sent s t c .store .none ls (lanesPer 0 z) (beatsOf w 0 z) 0 (fun l => { lane := l, pa := pa l, n := 2 ^ z, x := storeData c d z l })
    (Answers (.st d a o z) s fun t => sent t fun w' => ∀ f ∈ t.flights.drop s.flights.length, ∀ x ∈ f.accs, x.slot ≤ w'.lastPlain ∧
      (⟨x.gran, warpAgent w, x.slot⟩ : PlainStore) ∈ t.mem.plain) ∧
    Answers (.strl d a o z sc) s fun t => sent t (fun w' => w'.lastPlain = w.lastPlain) ∧ t.mem = s.mem

/-- 02 R42; 04 R99: a store that takes effect at its bank slot writes each of its lanes' bytes, the last of the lanes that share an
address winning, and no other byte. One that covers its bank word leaves the poison of its data, another adds to it. -/
def Sys2Proof.Says.StoresTakeEffect : Prop :=
  ∀ (m : Sram) (agent : Nat) (a : BankAcc), Memory.wf m.bytes = true → swf false m.psn = true → swf false m.ueLat = true →
    (∀ p ∈ a.parts, p.x < 2 ^ (8 * p.n)) →
    let t := (m.serve agent .store a).2
    let covers : Prop := ∀ b, b < 32 → ∃ p ∈ a.parts, p.pa ≤ 32 * a.gran + b ∧ 32 * a.gran + b < p.pa + p.n
    (m.serve agent .store a).1.served = true ∧
    (∀ before p after, a.parts = before ++ p :: after → (∀ q ∈ after, q.pa + q.n ≤ p.pa ∨ p.pa + p.n ≤ q.pa) →
      memRead t.bytes p.pa p.n = p.x) ∧
    (∀ x, (∀ p ∈ a.parts, x < p.pa ∨ p.pa + p.n ≤ x) → memByte t.bytes x = memByte m.bytes x) ∧
    (t.poisoned a.gran = true ↔ (∃ p ∈ a.parts, p.psn = true) ∨
      (¬ covers ∧ (m.poisoned a.gran = true ∨ sget false m.ueLat a.gran = true)))

/-- 11 R276; 04 R99: ST and STRL, from their issue to their bank slots. -/
def Obligations.StoreResults : Prop := StoresAreSent ∧ StoresTakeEffect

/-- 11 R282, R283: ATOM and RED go on at once with their lanes' operations on their way; ATOM's registers are written back later. The
`.TM` forms do the same (05 R143). No byte of memory changes yet; the path's spin count is cleared (06 R172). -/
def Sys2Proof.Says.AtomicsAreSent : Prop :=
  ∀ (s : State) (key nid : Nat) (lit : Word) (w : Warp) (d a b op : Nat) (pa : Nat → Nat), Issues s key nid lit w →
    let c := seen true s key nid lit w
    addrOk a = true → srcNoLatch b = true → d ≤ 95 → op < 16 →
    let sent (need : Nat) (ls : List Nat) (i : Instr) (dst : FlightDst) (k : Nat) (cmp : Nat → Nat) : Prop :=
      Reaches s c a 0 2 need ls pa → (∀ l ∈ ls, (c.opnd b l).psn = false ∧ (op = 9 → (c.opnd (if dst = .none then 0 else d) l).psn = false)) →
      Answers i s fun t => MemoryStep s t c (c.npc [b]) [] [] (fun _ => True) ∧ (t.node key nid).spc = 0 ∧ t.mem = s.mem ∧
        Sent s t c (.atomic op) dst ls (lanesPer k 2) (beatsOf w k 2)
          (latencyL (coreOf key) (beatsOf w k 2) (ls.flatMap fun l => [(l / lanesPer k 2, granOf (pa l)), (l / lanesPer k 2, granOf (pa l))]))
          fun l => { lane := l, pa := pa l, n := 4, x := (c.opnd b l).bits.toNat, cmp := cmp l }
    ((isS d = true → isS a = true ∧ uniOk b = true) → ∀ i ∈ [Instr.atomDv d a b op, .atomTm d a b op],
      sent needRWAT (lanesFor c d) i (if isS d = true then .uni (d - 64) 1 else .lanes (c.p.wb + d) 1) d fun l => (c.opnd d l).bits.toNat) ∧
    (op ≠ 9 → ∀ i ∈ [Instr.redDv a b op, .redTm a b op], ∃ cmp, sent needWAT (lanesOf c.act) i .none 0 cmp)

/-- 05 R143, R146: a lane's atomic operation that takes effect at its bank slot returns the word it found and stores the operation's
result there; on a poisoned word it returns poison and stores nothing. No other byte changes. HGS.EXACT adds 64 bits likewise (13 R352). Data
that is poisoned, as an Ashlar's may be (12 R336), poisons the bank word and stores nothing. -/
def Sys2Proof.Says.AtomicsTakeEffect : Prop :=
  ∀ (m : Sram) (agent op : Nat) (a : BankAcc) (p : AccPart), Memory.wf m.bytes = true → swf false m.psn = true → swf false m.ueLat = true →
    a.parts = [p] → p.pa % p.n = 0 → op < 16 → p.x < 2 ^ (8 * p.n) → p.cmp < 2 ^ 32 →
    let bad : Prop := m.poisoned (granOf p.pa) = true ∨ sget false m.ueLat (granOf p.pa) = true
    let old := memRead m.bytes p.pa p.n
    (p.n = 4 → p.psn = true → let r := m.serve agent (.atomic op) a
      r.1.served = true ∧ r.2.bytes = m.bytes ∧ r.2.poisoned (granOf p.pa) = true) ∧
    (p.n = 4 → p.psn = false → let r := m.serve agent (.atomic op) a
      r.1.served = true ∧ (∃ q, r.1.parts = [q] ∧ q.lane = p.lane ∧ q.got = old ∧ (q.psn = true ↔ bad)) ∧
      (¬ bad → memRead r.2.bytes p.pa 4 = atomicNew op old p.x p.cmp % 2 ^ 32) ∧ (bad → r.2.bytes = m.bytes) ∧
      ∀ x, x < p.pa ∨ p.pa + 4 ≤ x → memByte r.2.bytes x = memByte m.bytes x) ∧
    (p.n = 8 → let r := m.serve agent .addQ a
      r.1.served = true ∧ (¬ bad → memRead r.2.bytes p.pa 8 = (old + p.x) % 2 ^ 64) ∧ (bad → r.2.bytes = m.bytes) ∧
      ∀ x, x < p.pa ∨ p.pa + 8 ≤ x → memByte r.2.bytes x = memByte m.bytes x)

/-- 05 R143: the word operations of the atomics. -/
def Sys2Proof.Says.AtomicOperationTable : Prop :=
  ∀ x y z : Word, ∀ e ∈ atomicRows x y z, atomicNew e.1 x.toNat y.toNat z.toNat = e.2.toNat

/-- 05 R143-R146; 11 R282: the atomic instructions, from their issue to their bank slots, and the values of their operations. -/
def Obligations.AtomicResults : Prop := AtomicsAreSent ∧ AtomicsTakeEffect ∧ AtomicOperationTable

/-- 11 R280, R281: FENCE of a scope above .WP holds the path's later memory instructions until its own accesses are back, the texture-unit instructions
and TRACEs issued before it complete; PCHK writes
the poison of each active lane's operand into a predicate. -/
def Obligations.FenceAndPoisonCheck : Prop :=
  ∀ (s : State) (key nid : Nat) (lit : Word) (w : Warp) (sc p q : Nat), Issues s key nid lit w →
    let c := seen true s key nid lit w
    (c.any = true → Answers (.fence sc) s fun t => Leaves s t c (counts c) (fun w => { w with yv := 0 })
      (fun n => { goesOn s (c.npc []) n with hold := if sc = 0 then n.hold else max n.hold w.releaseAt
                                             fence := if sc = 0 then n.fence else s.clk + 1 })) ∧
    (p ≤ 6 → srcNoLatch q = true → c.any = true → Answers (.pchk p q) s fun t => ∃ x,
      Leaves s t c (counts c) (fun w => { w with p := x, yv := 0 }) (goesOn s (c.npc [q])) ∧
      (∀ l, l < 96 → (sget 0#96 x p).getLsbD l = if c.act.getLsbD l = true then (c.opnd q l).psn else (sget 0#96 c.w.p p).getLsbD l) ∧
      ∀ k, k ≠ p → sget 0#96 x k = sget 0#96 c.w.p k)

/-! ### Barriers, semaphores and stage rings -/

/-- 05 R130: one step on a barrier image: counters saturate with `OVR`, and a phase completes exactly when nothing is missing. -/
def Sys2Proof.Says.BarrierStepRule : Prop :=
  ∀ (o : Bar) (n : Nat) (err : Bool),
    let ends (x : Bar) : Bar := if x.pend = 0 ∧ x.inb = 0 ∧ x.outb = 0 then { x with gen := (x.gen + 1) % 16, pend := x.expect } else x
    o.step .arriveFinal = ends (if o.pend = 0 then { o with ovr := true } else { o with pend := o.pend - 1 }) ∧
    o.step (.announceIn n) = ends (if 2 ^ 32 ≤ o.inb + n then { o with inb := 2 ^ 32 - 1, ovr := true } else { o with inb := o.inb + n }) ∧
    o.step (.announceOut n) = ends (if 2 ^ 32 ≤ o.outb + n then { o with outb := 2 ^ 32 - 1, ovr := true } else { o with outb := o.outb + n }) ∧
    o.step (.decIn n err) = ends (if o.inb < n then { o with inb := 0, ovr := true, txerr := o.txerr || err }
      else { o with inb := o.inb - n, txerr := o.txerr || err }) ∧
    o.step (.decOut n err) = ends (if o.outb < n then { o with outb := 0, ovr := true, txerr := o.txerr || err }
      else { o with outb := o.outb - n, txerr := o.txerr || err })

/-- 05 R126; 04 R95; 02 R48: the step or check of an instruction acts at its bank slot; with a result, its write-back then brings that to
every lane it goes to, and without one there is nothing to write back. Where the path has gone in the meantime, no more than the SRAM changes. -/
def Sys2Proof.Says.StepsActAtTheirSlots : Prop :=
  ∀ (s : State) (i j : Nat) (f : Flight) (a : BankAcc) (job : StepJob), s.flights[i]? = some f → f.accs[j]? = some a → a.served = false →
    f.op = .step job →
    let r := s.serveStep f.key a.slot job
    let t := s.serveAt i j
    (∃ g : Flight, t = { r.1 with flights := setAt r.1.flights i g } ∧ g.key = f.key ∧ g.op = f.op ∧
      (∃ b : BankAcc, g.accs = setAt f.accs j b ∧ b.served = true ∧ b.beat = a.beat ∧ b.gran = a.gran ∧
        b.parts.map (·.lane) = a.parts.map (·.lane) ∧ ∀ v, r.2 = some v → ∀ p ∈ b.parts, p.got = v) ∧
      (if r.2 = none then g.dst = .none ∧ g.backs = [] else g.dst = f.dst ∧ g.backs = f.backs)) ∧
    (∀ x, job.instr = some x → s.stepCtx f.key job = none → r.2 = none ∧ r.1 = { s with mem := r.1.mem })

/-- 05 R126, R129-R131, R135; 11 R284, R285: a barrier instruction sends its step or check to the object, with the register its result goes
to; BINIT sends a plain store of its image. -/
def Sys2Proof.Says.BarrierInstructionsAreSent : Prop :=
  ∀ (s : State) (key nid : Nat) (lit : Word) (w : Warp) (d q e p va pa : Nat), Issues s key nid lit w →
    let c := seen true s key nid lit w
    let x := (c.opndU e).bits.toNat
    let given : Prop := uniOk e = true ∧ (c.opndU e).psn = false
    let sent (i : Instr) (x : Nat) (d : Option Nat) : Prop :=
      Answers i s fun t => StepSent s t c i va pa x d { instr := i, at_ := s.clk }
    uaddrOk q = true → c.any = true →
    (given → 1 ≤ x → x ≤ 4095 → ObjectAt s c q 16 needW va pa →
      Answers (.binit q e) s fun t => MemoryStep s t c (c.npc [e]) [] [] (fun _ => True) ∧ t.mem = { s.mem with plain := t.mem.plain } ∧
        Sent s t c .store .none [c.low] 96 1 0 (fun _ => { lane := c.low, pa := pa, n := 16, x := 2 ^ 30 + x * 2 ^ 16 + x * 2 ^ 4 })) ∧
    (ObjectAt s c q 16 needRWAT va pa →
      (given → sent (.announceIn q e) x none ∧ sent (.announceOut q e) x none) ∧ (d ≤ 95 → sent (.arrive d q) 0 (some d))) ∧
    (ObjectAt s c q 16 needR va pa → d ≤ 95 →
      (given → sent (.bwait d q e) x (some d)) ∧
      (p ≤ 6 → (c.opnd d c.low).psn = false → sent (.btest p q d) (c.opnd d c.low).bits.toNat (some d)))

/-- 05 R129-R131, R135, R139; 11 R279, R284, R285: the steps and checks of the barrier instructions at the bank slot of an object that is not
malformed: the image they leave, what they return, and that no other byte changes. A BWAIT whose phase is open waits at a monitor. -/
def Sys2Proof.Says.BarrierStepsAtTheirSlots : Prop :=
  ∀ (s : State) (key at_ : Nat) (w : Warp) (i : Instr) (j : StepJob), ReachesSlot s key w i j 16 →
    let c := atSlot s key w j
    let t := (s.serveStep key at_ j).1
    let result := (s.serveStep key at_ j).2
    let img := memRead s.mem.bytes j.pa 16
    let o := Bar.ofImage img
    let leaves (img' : Nat) : Prop := memRead t.mem.bytes j.pa 16 = img' ∧ OutsideKept s t j.pa 16
    let goes (codes : List Nat) : Prop := SlotStep s t c (c.npc codes) [] fun w' => w'.arrive = w.arrive
    let acquires : Prop := j.back ≤ (t.node key j.nid).hold
    o.malformed = false →
    (∀ q e, i = .announceIn q e → goes [e] ∧ leaves (o.step (.announceIn j.x)).image ∧ result = none) ∧
    (∀ q e, i = .announceOut q e → goes [e] ∧ leaves (o.step (.announceOut j.x)).image ∧ result = none) ∧
    (∀ d q, i = .arrive d q → w.arrive = [] →
      let final := s.liveLanes key &&& ~~~c.act = 0#96
      SlotStep s t c (c.npc []) [] (fun w' => w'.arrive = if final then [] else [⟨j.va, c.act, o.gen⟩]) ∧ result = some o.gen ∧
        leaves (if final then (o.step .arriveFinal).image else img)) ∧
    (o.ovr = false →
      (∀ d q e, i = .bwait d q e → leaves img ∧
        (o.gen ≠ j.x → goes [e] ∧ acquires ∧ result = some (img % 2 ^ 32)) ∧
        (o.gen = j.x → SlotWaits s t c c.p at_ j.pa 0 ∧ result = none)) ∧
      (∀ p q d, i = .btest p q d → p ≤ 6 → leaves img ∧ result = some (img % 2 ^ 32) ∧
        SlotStep s t c (c.npc []) [p] (fun w' => ∀ l, l < 96 → c.act.getLsbD l = true →
          (sget 0#96 w'.p p).getLsbD l = decide (o.gen ≠ j.x)) ∧ (o.gen ≠ j.x → acquires)))

/-- 05 R127-R136: the steps of a barrier object, and the barrier instructions over them. -/
def Obligations.BarrierResults : Prop :=
  BarrierStepRule ∧ BarrierInstructionsAreSent ∧ BarrierStepsAtTheirSlots ∧ StepsActAtTheirSlots

/-- 05 R126, R138; 11 R286: the semaphore instructions send their step to the object; a drawn SEMWAIT that has its ticket asks for none. -/
def Sys2Proof.Says.SemaphoreInstructionsAreSent : Prop :=
  ∀ (s : State) (key nid : Nat) (lit : Word) (w : Warp) (d q e va pa : Nat), Issues s key nid lit w →
    let c := seen true s key nid lit w
    let x := (c.opndU e).bits.toNat
    let sent (i : Instr) (x : Nat) (d : Option Nat) : Prop :=
      Answers i s fun t => StepSent s t c i va pa x d { instr := i, at_ := s.clk }
    uaddrOk q = true → c.any = true → ObjectAt s c q 8 needRWAT va pa →
    (uniOk e = true → (c.opndU e).psn = false → (x ≤ 65535 → sent (.sempost q e) x none) ∧ sent (.semwait q e) x none) ∧
    (isS d = true → sent (.semwaitDraw d q) 0 (if c.p.tkv then none else some d))

/-- 05 R138; 11 R286: a semaphore holds the count of posts below and the next ticket above. A ticket t is granted when the posts,
less t, modulo 2^32, are below 2^31. SEMPOST adds to the posts; a drawn SEMWAIT takes the next ticket once and keeps it until it is granted;
a ticket not granted leaves the path waiting at a monitor. -/
def Sys2Proof.Says.SemaphoreStepsAtTheirSlots : Prop :=
  ∀ (s : State) (key at_ : Nat) (w : Warp) (i : Instr) (j : StepJob), ReachesSlot s key w i j 8 →
    let c := atSlot s key w j
    let t := (s.serveStep key at_ j).1
    let result := (s.serveStep key at_ j).2
    let posts := memRead s.mem.bytes j.pa 4
    let ticket := memRead s.mem.bytes (j.pa + 4) 4
    let granted (t : Word) : Prop := (BitVec.ofNat 32 posts - t).toNat < 2 ^ 31
    let leaves (lo hi : Nat) : Prop :=
      memRead t.mem.bytes j.pa 4 = lo ∧ memRead t.mem.bytes (j.pa + 4) 4 = hi ∧ OutsideKept s t j.pa 8
    let goes (codes : List Nat) : Prop := SlotStep s t c (c.npc codes) [] fun w' => w'.arrive = w.arrive
    let checks (codes : List Nat) (tk : Word) (p : Node) : Prop :=
      (granted tk → goes codes ∧ j.back ≤ (t.node key j.nid).hold) ∧ (¬ granted tk → SlotWaits s t c p at_ j.pa 1)
    (∀ q e, i = .sempost q e → goes [e] ∧ leaves ((posts + j.x) % 2 ^ 32) ticket ∧ result = none) ∧
    (∀ q e, i = .semwait q e → j.x < 2 ^ 32 → checks [e] (BitVec.ofNat 32 j.x) c.p ∧ leaves posts ticket ∧ result = none) ∧
    (∀ d q, i = .semwaitDraw d q →
      (c.p.tkv = false → let mine : Word := BitVec.ofNat 32 ticket
        checks [] mine { c.p with tkv := true, tkt := mine } ∧ (granted mine → (t.node key j.nid).tkv = false) ∧
        leaves posts ((ticket + 1) % 2 ^ 32) ∧ result = some ticket) ∧
      (c.p.tkv = true → checks [] c.p.tkt c.p ∧ (granted c.p.tkt → (t.node key j.nid).tkv = false) ∧ leaves posts ticket ∧ result = none))

/-- 05 R138; 11 R286: the semaphore instructions, from their issue to the bank slot of the object. -/
def Obligations.SemaphoreInstructionResults : Prop := SemaphoreInstructionsAreSent ∧ SemaphoreStepsAtTheirSlots

/-- 05 R126; 11 R287, R288: the stage-ring instructions send their step to the ring. -/
def Sys2Proof.Says.RingInstructionsAreSent : Prop :=
  ∀ (s : State) (key nid : Nat) (lit : Word) (w : Warp) (d q e va pa : Nat), Issues s key nid lit w →
    let c := seen true s key nid lit w
    let sent (i : Instr) (x : Nat) (d : Option Nat) : Prop :=
      Answers i s fun t => StepSent s t c i va pa x d { instr := i, at_ := s.clk }
    uaddrOk q = true → c.any = true → ObjectAt s c q 32 needRWAT va pa →
    (isS d = true → d ≠ 0 → sent (.rpushRsv d q) 0 (some d) ∧ sent (.rpopTake d q) 0 (some d) ∧ sent (.rpeek d q) 0 (some d)) ∧
    (uniOk e = true → e ≠ 0 → (c.opndU e).psn = false → let x := (c.opndU e).bits.toNat
      sent (.rpushPub q e) x none ∧ sent (.rpopFree q e) x none)

/-- 11 R287-R289: the stage-ring steps at the bank slot of a well-formed ring: each finds its slot by the write or read sequence, or by its
operand, and moves that slot from one state to the next: free, reserved, published, taken. -/
def Sys2Proof.Says.RingStepsAtTheirSlots : Prop :=
  ∀ (s : State) (key at_ : Nat) (w : Warp) (i : Instr) (j : StepJob), ReachesSlot s key w i j 32 →
    let c := atSlot s key w j
    let t := (s.serveStep key at_ j).1
    let result := (s.serveStep key at_ j).2
    let o := memRead s.mem.bytes j.pa 32
    let slots := o % 32
    let st (x k : Nat) : Nat := x / 2 ^ (32 + 2 * k) % 4
    let wslot := o / 2 ^ 64 % 2 ^ 32 % slots
    let rslot := o / 2 ^ 96 % 2 ^ 32 % slots
    let moves (k from_ to_ : Nat) : Prop := let o' := memRead t.mem.bytes j.pa 32
      st o k = from_ ∧ st o' k = to_ ∧ (∀ n, n < 16 → n ≠ k → st o' n = st o n) ∧ o' % 2 ^ 32 = o % 2 ^ 32 ∧ OutsideKept s t j.pa 32
    let seqs (wn rn : Nat) : Prop := memRead t.mem.bytes (j.pa + 8) 4 = (o / 2 ^ 64 % 2 ^ 32 + wn) % 2 ^ 32 ∧
      memRead t.mem.bytes (j.pa + 12) 4 = (o / 2 ^ 96 % 2 ^ 32 + rn) % 2 ^ 32
    let goes (codes : List Nat) : Prop := SlotStep s t c (c.npc codes) [] fun w' => w'.arrive = w.arrive
    let acquires : Prop := j.back ≤ (t.node key j.nid).hold
    ringBad o = false →
    (∀ d q, i = .rpushRsv d q →
      (st o wslot = 0 → goes [] ∧ acquires ∧ result = some wslot ∧ moves wslot 0 1 ∧ seqs 1 0) ∧
      (st o wslot ≠ 0 → goes [] ∧ result = some 0xffffffff ∧ t.mem.bytes = s.mem.bytes)) ∧
    (∀ d q, i = .rpopTake d q →
      (st o rslot = 2 → goes [] ∧ acquires ∧ result = some rslot ∧ moves rslot 2 3 ∧ seqs 0 1) ∧
      (st o rslot ≠ 2 → SlotWaits s t c c.p at_ j.pa 2 ∧ result = none ∧ t.mem.bytes = s.mem.bytes)) ∧
    (∀ d q, i = .rpeek d q → goes [] ∧ (st o rslot = 2 → acquires) ∧
      result = some (if st o rslot = 2 then rslot else 0xffffffff) ∧ t.mem.bytes = s.mem.bytes) ∧
    (j.x < slots →
      (∀ q e, i = .rpushPub q e → st o j.x = 1 → goes [e] ∧ result = none ∧ moves j.x 1 2 ∧ seqs 0 0) ∧
      (∀ q e, i = .rpopFree q e → st o j.x = 3 → goes [e] ∧ result = none ∧ moves j.x 3 0 ∧ seqs 0 0))

/-- 11 R287-R289: the stage-ring instructions, from their issue to the bank slot of the ring. -/
def Obligations.StageRingResults : Prop := RingInstructionsAreSent ∧ RingStepsAtTheirSlots

/-- 08 R223: TSIGNAL and TCOND send their atomic step to the word that they name; there TSIGNAL adds 1 and TCOND writes its value. -/
def Sys2Proof.Says.TraverseWords : Prop :=
  (∀ (s : State) (key nid : Nat) (lit : Word) (w : Warp) (a v va pa : Nat), Issues s key nid lit w →
    let c := seen true s key nid lit w
    let ok (e : Nat) : Prop := uniOk e = true ∧ (c.opndU e).psn = false
    ok a → (c.opndU a).bits.toNat = va → c.any = true → s.translate key va 4 needWAT = .ok pa →
    (Answers (.tsignal a) s fun t => StepSent s t c (.tsignal a) va pa 0 none { instr := .tsignal a, at_ := s.clk }) ∧
    (ok v → Answers (.tcond v a) s fun t =>
      StepSent s t c (.tcond v a) va pa (c.opndU v).bits.toNat none { instr := .tcond v a, at_ := s.clk })) ∧
  ∀ (s : State) (key at_ : Nat) (w : Warp) (i : Instr) (j : StepJob), ReachesSlot s key w i j 4 →
    let c := atSlot s key w j
    let t := (s.serveStep key at_ j).1
    let goes (codes : List Nat) : Prop :=
      (SlotStep s t c (c.npc codes) [] fun w' => w'.arrive = w.arrive) ∧ (s.serveStep key at_ j).2 = none ∧ OutsideKept s t j.pa 4
    (∀ a, i = .tsignal a → goes [a] ∧ memRead t.mem.bytes j.pa 4 = (memRead s.mem.bytes j.pa 4 + 1) % 2 ^ 32) ∧
    (∀ v a, i = .tcond v a → j.x < 2 ^ 32 → goes [a, v] ∧ memRead t.mem.bytes j.pa 4 = j.x)

/-- 08 R222; 06 R176: SPAWN issues twice. Its first issue translates both accesses and sends the read of the control block; when that comes
back, at depth 4, or where the block is malformed, it ends with status 1 or 2; else its atomic step is the path's next instruction. -/
def Sys2Proof.Says.SpawnIssues : Prop :=
  (∀ (s : State) (key nid : Nat) (lit : Word) (w : Warp) (d a va pa pb : Nat), Issues s key nid lit w →
    let c := seen true s key nid lit w
    (c.p.step = none → isS d = true → uniOk a = true → c.opndU a = ⟨BitVec.ofNat 32 va, false⟩ → va < 2 ^ 32 → c.any = true →
      s.translate key va 64 needR = .ok pa → s.translate key (va + 32) 16 needRWAT = .ok pb →
      Answers (.spawn d a) s fun t => HalfSent s t c pa 64 { instr := .spawn d a, at_ := s.clk, va := va, pb := pb }) ∧
    (∀ h, c.p.step = some h → Answers (.spawn d a) s fun t => StepSent s t c (.spawn d a) h.va h.pb w.taskDepth (some d) h)) ∧
  ∀ (s : State) (key nid : Nat) (w : Warp) (h : HalfIssue) (d a pa x : Nat), ComesBack s key nid w h pa 2 x → h.instr = .spawn d a →
    isS d = true →
    let c := atBack s key nid w
    let t := s.halfBack key nid h.at_ (foundParts pa 2 x)
    let ends (n : Nat) : Prop := StepOver s t c (c.npc [a]) [d] [] (fun w' => w'.sAt (d - 64) = ⟨BitVec.ofNat 32 n, false⟩) ∧
      (t.node key nid).step = none
    (w.taskDepth = 4 → ends 1) ∧ (w.taskDepth ≠ 4 → tcbMalformed x = true → ends 2) ∧
    (w.taskDepth ≠ 4 → tcbMalformed x = false → Elsewhere s t key nid ∧
      t.node key nid = { c.p with step := some { h with img := x, psn := false } })

/-- 06 R176, R177; 08 R222: the atomic step of a SPAWN whose block is not unused returns status 3; else it queues the task, or leaves it
waiting for its dependencies, sets `STATE` and `DEPTH` and returns status 0. -/
def Sys2Proof.Says.SpawnStepAtItsSlot : Prop :=
  ∀ (s : State) (key at_ : Nat) (w : Warp) (d a : Nat) (j : StepJob) (h : HalfIssue), ReachesSlot s key w (.spawn d a) j 16 →
    (s.node key j.nid).step = some h → j.x < 4 →
    let c := atSlot s key w j
    let t := (s.serveStep key at_ j).1
    let o := memRead s.mem.bytes j.pa 16
    let queued := o / 2 ^ 58 % 2 ^ 16 = 0
    let item : TaskItem := ⟨w.launch, w.ctx, j.va, h.img, w.taskDepth + 1, w.strip⟩
    let goes (b : State) : Prop := SlotStep b t c (c.npc [a]) [] fun w' => w'.arrive = w.arrive
    (o / 2 ^ 55 % 8 ≠ 0 → goes s ∧ (s.serveStep key at_ j).2 = some 3 ∧ t.mem.bytes = s.mem.bytes) ∧
    (o / 2 ^ 55 % 8 = 0 → (s.serveStep key at_ j).2 = some 0 ∧
      goes { s with taskQ := s.taskQ ++ (if queued then [item] else []), waitTasks := s.waitTasks ++ (if queued then [] else [item]) } ∧
      (let o' := memRead t.mem.bytes j.pa 16
       o' / 2 ^ 55 % 8 = (if queued then 2 else 1) ∧ o' / 2 ^ 52 % 8 = j.x + 1 ∧ o' / 2 ^ 58 = o / 2 ^ 58 ∧ o' % 2 ^ 52 = o % 2 ^ 52) ∧
      OutsideKept s t j.pa 16)

/-- 08 R222, R223; 06 R176, R177: SPAWN, TSIGNAL and TCOND. -/
def Obligations.SpawnAndTraverseWords : Prop := SpawnIssues ∧ SpawnStepAtItsSlot ∧ TraverseWords

/-! ### Engine commands -/

/-- 11 R290-R292, R297: a Hod command instruction puts its command at the end of its sub-core's queue with the queue's next sequence
number, counts it in the warp's outstanding commands, and returns its ticket; with the queue full it does not issue and `QFULL`
counts. HLDR carries its lanes' addresses, and its registers are pending until the lanes are delivered. -/
def Sys2Proof.Says.HodCommandResults : Prop :=
  ∀ (s : State) (key nid : Nat) (lit : Word) (w : Warp) (p q z : Nat), Issues s key nid lit w →
    let c := seen true s key nid lit w
    let core := key / 128
    let sub := key / 8 % 16
    let h := s.hod core
    let x := h.queue sub
    let ticket := core * 2 ^ 22 + sub * 2 ^ 18 + x.nseq
    let with_ (cmd : HodCmd) : State :=
      s.setHod core (h.setQueue sub { x with cmds := x.cmds ++ [cmd], nseq := (x.nseq + 1) % 2 ^ 18 })
    let cmd (op va : Nat) : HodCmd := {
      op := op, ctx := w.ctx, team := some w.team, warp := w.warpId, epoch := w.epoch, recAddr := va
      ash := decide (op ≠ 9) && ((s.team w.team).map (·.ash)).getD false, seq := x.nseq, strip := w.strip, pad := (s.team w.team).map Team.pad, ready := max s.clk w.releaseAt, issued := s.clk }
    core ≤ 191 → x.nseq < 2 ^ 18 → c.any = true →
    (∀ va, (p = 0 ∨ isS p = true) → uaddrOk q = true → c.addr q 0 = (va, false) → va % 64 = 0 →
      ∀ e ∈ [(Instr.hcopy p q, 0), (.hcopys p q, 1), (.hgather p q, 2), (.hscatter p q, 3), (.hstage p q, 4), (.hevict p q, 5),
          (.hfill p q, 6), (.hmeta p q, 7)],
        (x.cmds.length < 8 → Answers e.1 s fun t => StepOver (with_ (cmd e.2 va)) t c (c.npc []) (if p = 0 then [] else [p]) []
          fun w' => w'.oc = w.oc + 1 ∧ (p ≠ 0 → w'.sAt (p - 64) = ⟨BitVec.ofNat 32 ticket, false⟩)) ∧
        (8 ≤ x.cmds.length → Answers e.1 s fun t =>
          Stays (s.setHod core { h with ctr := { h.ctr with qfull := satAdd h.ctr.qfull 1 32 } }) t c)) ∧
    (2 ≤ z → z ≤ 4 → p < 64 → regSpan p z = true → q < 64 → addrOk q = true → (∀ l ∈ lanesOf c.act, (c.addr q l).2 = false) →
      (x.cmds.length < 8 → Answers (.hldr p q z) s fun t =>
        StepOver (with_ { cmd 9 0 with dst := p, wb := c.p.wb, sz := z, lanes := (lanesOf c.act).map fun l => (l, (c.addr q l).1) }) t c
          (c.npc []) [] [] fun w' => w'.oc = w.oc + 1 ∧ w'.pend = w.pend ++ [{
            nid := nid, dst := p, num := regsOf z, mask := maskOf (lanesOf c.act), wb := c.p.wb, due := 0, del := .hldr x.nseq }]) ∧
      (8 ≤ x.cmds.length → Answers (.hldr p q z) s fun t =>
        Stays (s.setHod core { h with ctr := { h.ctr with qfull := satAdd h.ctr.qfull 1 32 } }) t c))

/-- 11 R300: RRING and RTREE put their command at the end of the core's reduction queue and return its ticket; with four commands
queued they do not issue. -/
def Sys2Proof.Says.ReductionCommandResults : Prop :=
  ∀ (s : State) (key nid : Nat) (lit : Word) (w : Warp) (p q va : Nat), Issues s key nid lit w →
    let c := seen true s key nid lit w
    let core := key / 128
    let f := s.fabQ core
    let cmd (tree : Bool) : FabCmd := {
      tree := tree, ctx := w.ctx, team := some w.team, warp := w.warpId, recAddr := va, seq := f.nseq
      pad := (s.team w.team).map Team.pad, ready := max s.clk w.releaseAt, issued := s.clk }
    core ≤ 191 → c.any = true → (p = 0 ∨ isS p = true) → uaddrOk q = true → c.addr q 0 = (va, false) → va % 64 = 0 →
    ∀ e ∈ [(Instr.rring p q, false), (.rtree p q, true)],
      (f.cmds.length < 4 → Answers e.1 s fun t =>
        StepOver (s.setFab core { f with cmds := f.cmds ++ [cmd e.2], nseq := (f.nseq + 1) % 2 ^ 18 }) t c (c.npc [])
          (if p = 0 then [] else [p]) [] fun w' =>
            p ≠ 0 → w'.sAt (p - 64) = ⟨BitVec.ofNat 32 (2 ^ 30 + core * 2 ^ 22 + f.nseq), false⟩) ∧
      (4 ≤ f.cmds.length → Answers e.1 s fun t => Stays s t c)

/-- 11 R290-R292, R297, R300: the commands of the Hod and of the reduction unit enter their queues and return their tickets. -/
def Obligations.EngineCommandResults : Prop := HodCommandResults ∧ ReductionCommandResults

/-- 11 R292, R298, R299, R306: WAITC asks the queue its ticket names and waits; when the answer returns, the path goes on where the
ticket is complete and otherwise waits for it. HQUERY and RSTAT leave a register pair pending, which the answer fills, and hold the
path's later memory, synchronisation and engine instructions until then. The answer takes 12 clk of the sub-core and 4 for each hop. -/
def Sys2Proof.Says.TicketQuestions : Prop :=
  ∀ (s : State) (key nid : Nat) (lit : Word) (w : Warp) (a p : Nat), Issues s key nid lit w →
    let c := seen true s key nid lit w
    let x := (c.opndU a).bits.toNat
    let due := subClk s key (12 + 4 * hops (key / 128) (tkCore x))
    let asks (del : Delivery) (t : State) : Prop := due ≤ (t.node key nid).hold ∧ StepOver s t c (c.npc [a]) [] [] fun w' =>
      w'.pend = w.pend ++ [{ nid := nid, dst := p, num := 2, mask := c.p.mask, wb := c.p.wb, due := due, del := del }]
    uniOk a = true → (c.opndU a).psn = false → ticketOk x = true → c.any = true →
    Answers (.waitc a) s (fun t => Leaves s t c w.cnt (fun w => { w with yv := 0 })
      (fun n => { n with wait := .asking x (c.npc [a]) due })) ∧
    (isS p = true → p % 2 = 0 → tkKind x ≠ 1 → Answers (.hquery p a) s (asks (.query x))) ∧
    (isS p = true → p % 2 = 0 → tkKind x = 1 → Answers (.rstat p a) s (asks (.rstat x)))

/-- 11 R298, R299, R306: what TICKET_ANSWER brings: a WAITC's path goes on or is registered; a question's register pair is filled with
the status, and the bytes moved so far, of the command named. -/
def Sys2Proof.Says.TicketAnswers : Prop :=
  ∀ (s : State) (key nid x due : Nat) (npc : Word) (w : Warp), s.warp key = some w → swf none s.warps = true → swf {} s.belay = true →
    swf {} w.s = true →
    ((s.node key nid).wait = .asking x npc due → due ≤ s.clk →
      Answers (.ticketAnswer key nid) s fun t => t = { s with warps := t.warps, belay := t.belay } ∧
        (s.ticketDone x = true → (t.node key nid).wait = .none ∧ (t.node key nid).pc = npc) ∧
        (s.ticketDone x = false → s.ticketWaiters x < 32 → (t.node key nid).wait = .ticket x npc none ∧
          (t.node key nid).pc = (s.node key nid).pc)) ∧
    (∀ pd rest, w.pend = pd :: rest → pd.nid = nid → pd.due ≤ s.clk → isS pd.dst = true → (∀ y n d, (s.node key nid).wait ≠ .asking y n d) →
      ∀ ws : Nat × Nat, (pd.del = .query x ∧ ws = s.queryWords x ∨ pd.del = .rstat x ∧ ws = s.rstatWords x) →
        Answers (.ticketAnswer key nid) s fun t => t = { s with warps := t.warps } ∧ (∀ k, k ≠ key → t.warp k = s.warp k) ∧
          ∃ u, t.warp key = some { w with pend := rest, s := u } ∧ ∀ i, sget {} u i =
            if i = pd.dst - 64 then ⟨BitVec.ofNat 32 ws.1, false⟩
            else if i = pd.dst - 64 + 1 then ⟨BitVec.ofNat 32 ws.2, false⟩ else w.sAt i) ∧
    (∀ e ∈ ((s.hod (tkCore x)).queue (tkQueue x)).log, seqDone ((s.hod (tkCore x)).queue (tkQueue x)).cseq (tkSeq x) = true →
      e.seq = tkSeq x → (∀ o ∈ ((s.hod (tkCore x)).queue (tkQueue x)).log, o.seq = tkSeq x → o = e) →
      s.queryWords x = (e.status + 32, e.bytes % 2 ^ 32))

/-- 11 R292, R298, R299, R306: questions about tickets, and what their answers bring. -/
def Obligations.TicketQuestionsAndAnswers : Prop := TicketQuestions ∧ TicketAnswers

/-! ### Ashlar -/

/-- The queue of an Ashlar context after an operation that enters in a clk from a sub-core: behind those there, but before the ones that
greater sub-cores have entered in the same clk (12 R314). -/
def Sys2Proof.Says.queued (ops : List AshOp) (clk sub : Nat) (o : AshOp) : List AshOp :=
  let later (e : AshOp) : Bool := decide (e.entered = clk ∧ sub < e.sub)
  ops.filter (fun e => !later e) ++ [o] ++ ops.filter later

/-- 12 R309, R314, R318, R325-R327, R335: the Ashlar instructions on a team's context: control words and the gang mask change at
issue, reads return what the context holds, operations enter the queue; with eight operations queued, or with the warp's own
arrival unmatched, the instruction does not issue; a team without a context raises ILLEGAL_INSTRUCTION. -/
def Obligations.AshlarInstructionResults : Prop :=
  ∀ (s : State) (key nid : Nat) (lit : Word) (w : Warp) (t d p q i ax : Nat), Issues s key nid lit w →
    let c := seen true s key nid lit w
    let a := s.ash ax
    let x := (c.opndU q).bits.toNat
    let given : Prop := uniOk q = true ∧ (c.opndU q).psn = false
    let free : Prop := a.arrived (halfIndex w) = false
    let room : Prop := free ∧ a.ops.length < 8
    let leaves (a' : AshCtx) (codes ds : List Nat) (P : Warp → Prop) (u : State) : Prop := StepOver (s.setAsh ax a') u c (c.npc codes) ds [] P
    let sub := key / 8 % 16
    let enters (a' : AshCtx) (o : AshOp) : AshCtx := { a' with ops := queued a'.ops s.clk sub o, nextId := a'.nextId + 1 }
    let op (kind : AshKind) (n : Nat) : AshOp := { id := a.nextId, kind := kind, t := n, entered := s.clk, sub := sub }
    let none_ (_ : Warp) : Prop := True
    let returns (v : Nat) (w' : Warp) : Prop := w'.sAt (p - 64) = ⟨BitVec.ofNat 32 v, false⟩
    c.any = true →
    (s.ashOf (key / 128) w.team = some ax →
      (given → free → tcOk x = true → Answers (.tctl t q) s (leaves { a with tc := sput 0 a.tc t x } [q] [] none_)) ∧
      (isS p = true → free →
        Answers (.trdc p 0 i) s (leaves a [] [p] (returns (sget 0 a.tc i))) ∧
        (i ≤ 7 → Answers (.trdc p 1 i) s (leaves a [] [p] (returns (sget 0 a.aw i)))) ∧
        Answers (.trdc p 2 i) s (leaves a [] [p] (returns a.ast)) ∧
        Answers (.trdc p 3 i) s (leaves { a with ast := 0 } [] [p] (returns a.ast))) ∧
      (room → Answers (.tzero t) s (leaves (enters a (op .tzero t)) [] [] none_)) ∧
      (given → room → x < 256 → Answers (.tscl t q) s (leaves (enters a { op .tscl t with arg := x }) [q] [] none_)) ∧
      (given → x < 2 ^ a.n → a.arrivals = [] → Answers (.gang q) s (leaves { a with gmask := x } [q] [] none_)) ∧
      (given → room → x < 2 ^ 31 → x / 2 ^ 12 % 2 ^ 18 = 0 → Answers (.azero d q) s
        (leaves (enters { a with aw := sput 0 a.aw d (2 ^ 31 + x) } (op .azero d)) [q] [] none_)) ∧
      (given → room → p < 64 → x < 2 ^ 14 → x / 64 % 4 = 0 → 2 ^ 31 ≤ sget 0 a.aw d → sget 0 a.aw d < 2 ^ 32 →
        let o (kind : AshKind) : AshOp := { op kind d with aw := sget 0 a.aw d, arg := x }
        Answers (.awrite p q d) s (leaves (enters a { o .awrite with vals := (lanesOf c.act).map fun l => (l, c.opnd p l) }) [q] [] none_) ∧
        Answers (.aread p q d) s (leaves (enters a { o .aread with
            warp := w.warpId, core := key / 128, got := (lanesOf c.act).map fun l => (l, {}) }) [q] [] fun w' =>
          w'.pend = w.pend ++ [{
            nid := nid, dst := p, num := 1, mask := c.act, wb := c.p.wb, due := 0, del := .aread a.nextId }])) ∧
      (¬ room → uniOk q = true → ∀ o ∈ [Instr.tzero t, .tscl t q, .azero d q], Answers o s fun u => Stays s u c)) ∧
    (s.ashOf (key / 128) w.team = none → uniOk q = true → ∀ o ∈ [Instr.tctl t q, .tzero t, .tscl t q, .gang q, .azero d q], Answers o s fun u =>
      ∃ w' : Warp, u.warp key = some w' ∧ w'.status = .parked ∧ (∃ m, w'.park = some (16, 0, 0, nid, m)) ∧ u.ashs = s.ashs)

/-- 12 R318, R319, R328: MMA and MMAS of a gang: a member's instruction arrives and completes; with the last member's the operation
enters the queue with the control words and the state word as they then are, where they pass the checks; it waits for what each of its
warps had issued before it (R337). An instruction of a warp outside the gang mask enters its operation alone. -/
def Sys2Proof.Says.JointMatrixIssue : Prop :=
  ∀ (s : State) (key nid : Nat) (lit : Word) (w : Warp) (d x y p k ax : Nat) (tm : Team), Issues s key nid lit w →
    let c := seen true s key nid lit w
    let a := s.ash ax
    let i := halfIndex w
    let base : AshOp := { id := 0, kind := .mma, t := d, a := x, b := y, pair := decide (p ≠ 0), ready := max s.clk w.releaseAt
                          forks := [(w.warpId, s.clk)], core := key / 128 }
    let captured (o : AshOp) (ready : Nat) (forks : List (Nat × Nat)) : AshOp :=
      { o with id := a.nextId, ta := sget 0 a.tc x, tb := sget 0 a.tc y, aw := sget 0 a.aw d, ready := ready, forks := forks
               entered := s.clk, sub := key / 8 % 16 }
    c.any = true → s.ashOf (key / 128) w.team = some ax → s.team w.team = some tm → a.arrived i = false → a.ops.length < 8 →
    ∀ e ∈ [(Instr.mma d x p y, base), (.mmas k d x p y, { base with kind := .mmas, mq := k })],
      let leaves (a' : AshCtx) (u : State) : Prop := StepOver (s.setAsh ax a') u c (c.npc []) [] [] fun _ => True
      let enters (o : AshOp) (a' : AshCtx) : AshCtx := { a' with ops := queued a.ops s.clk (key / 8 % 16) o, nextId := a.nextId + 1 }
      let alone := captured e.2 e.2.ready e.2.forks
      (i ∉ a.members → mmaOk alone tm.pair = true → Answers e.1 s (leaves (enters alone a))) ∧
      (i ∈ a.members → (∀ f ∈ a.arrivals, { f.op with ready := e.2.ready, forks := e.2.forks } = e.2) →
        let all := a.arrivals ++ [⟨i, e.2, 0⟩]
        let last := ∀ m ∈ a.members, ∃ f ∈ all, f.warp = m
        let o := captured e.2 (all.foldl (fun n f => max n f.op.ready) 0) (all.flatMap fun f => f.op.forks)
        (¬ last → Answers e.1 s (leaves { a with arrivals := all })) ∧
        (last → mmaOk o tm.pair = true → Answers e.1 s (leaves (enters o { a with arrivals := [] }))))

/-- 12 R314, R332, R337: TLD, TST and ADRAIN take their place in the queue at issue, with the control word or the state word as it then is and
the window's position, and send the read of their shape record; the operation may not start before the record is there. -/
def Sys2Proof.Says.TensorWindowIssue : Prop :=
  ∀ (s : State) (key nid : Nat) (lit : Word) (w : Warp) (t z q u ax va pa : Nat), Issues s key nid lit w →
    let c := seen true s key nid lit w
    let a := s.ash ax
    let sub := key / 8 % 16
    let base (kind : AshKind) : AshOp := { id := a.nextId, kind := kind, t := t, arg := (c.opndU u).bits.toNat, core := key / 128, warp := w.warpId
                                           held := true, ready := max s.clk w.releaseAt, forks := [(w.warpId, s.clk)]
                                           entered := s.clk, sub := sub }
    c.any = true → s.ashOf (key / 128) w.team = some ax → a.arrived (halfIndex w) = false → a.ops.length < 8 →
    uaddrOk q = true → uniOk u = true → (c.opndU u).psn = false → ObjectAt s c q 64 needR va pa →
    ∀ e ∈ [(Instr.tld t q u, { base .tld with ta := sget 0 a.tc t }), (.tst t q u, { base .tst with ta := sget 0 a.tc t }),
        (.adrain z t q u, { base .adrain with z := decide (z ≠ 0), aw := sget 0 a.aw t })],
      Answers e.1 s fun s' =>
        HalfSent (s.setAsh ax { a with ops := queued a.ops s.clk sub e.2, nextId := a.nextId + 1 }) s' c pa 64
          { instr := e.1, at_ := s.clk, va := va, op := a.nextId }

/-- 12 R331-R334: when the record of a TLD, TST or ADRAIN is there, it and every byte of the window inside the tensor are checked. Where they
pass, the operation has its record and the path goes on; where the record is malformed or does not agree with what the operation captured,
the operation leaves the queue and the warp parks with ILLEGAL_OPERAND. -/
def Sys2Proof.Says.TensorWindowRecord : Prop :=
  ∀ (s : State) (key nid : Nat) (w : Warp) (h : HalfIssue) (i : Instr) (t z q u ax pa x : Nat) (o : AshOp), ComesBack s key nid w h pa 2 x →
    h.instr = i → (i = .tld t q u ∧ o.kind = .tld ∨ i = .tst t q u ∧ o.kind = .tst ∨ i = .adrain z t q u ∧ o.kind = .adrain) →
    s.ashOf (key / 128) w.team = some ax → (s.ash ax).ops.find? (fun e => e.id == h.op) = some o →
    let c := atBack s key nid w
    let s' := s.halfBack key nid h.at_ (foundParts pa 2 x)
    let agrees : Prop := if o.kind = .adrain then drainOk o x = true else o.ta / 2 ^ 31 % 2 = 1 ∧ shFmt x = tcFmt o.ta
    let need := if o.kind = .tld then needR else if o.kind = .adrain ∧ x / 2 ^ 377 % 4 = 1 then needWAT else needW
    let runs := if o.kind = .adrain then windowRuns x o.arg (awM o.aw) (awN o.aw) 0
      else windowRuns x o.arg (tcRows o.ta) (tcKs o.ta) (if o.kind = .tld then scaleCols o.ta else 0)
    (agrees → shapeBad x o.arg = false → s.windowFault h.at_ key need runs = none →
      (∀ b, shBar x = some b → ∃ pb, s.translateAt h.at_ key b 16 needRWAT = .ok pb) →
      let here (e : AshOp) : AshOp := if e.id = o.id then { e with image := x, held := false } else e
      StepOver (s.setAsh ax { s.ash ax with ops := (s.ash ax).ops.map here }) s' c (c.npc [u]) [] [] (fun _ => True) ∧
        (s'.node key nid).step = none) ∧
    (¬ agrees ∨ shapeBad x o.arg = true → w.status = .resident → w.park = none →
      s'.ashs = (s.setAsh ax { s.ash ax with ops := (s.ash ax).ops.filter fun e => e.id != o.id }).ashs ∧
        ∃ w' : Warp, s'.warp key = some w' ∧ w'.status = .parked ∧ ∃ m, w'.park = some (17, 0, 0, nid, m))

/-- 12 R318, R319, R328, R332-R334: the operations of a gang, and those on a tensor window. -/
def Obligations.AshlarOperationIssue : Prop := JointMatrixIssue ∧ TensorWindowIssue ∧ TensorWindowRecord

/-! ### Texture unit, traversal and geometry -/

/-- Sources of a sample in a lane: coordinates, level and the lane's draw (13 R344, R346). -/
def Sys2Proof.Says.sampleWords (quad : Bool) (c : Ctx) (x u l : Nat) : List Nat :=
  let bits (k l : Nat) : Nat := (c.opnd (u + k) l).bits.toNat
  let lost := (List.range 4).any fun i => (c.opnd u (l / 4 * 4 + i)).psn || (c.opnd (u + 1) (l / 4 * 4 + i)).psn
  [bits 0 l, bits 1 l, if !quad then bits 2 l else if lost then 0 else fadd32 (quadLod x (bits 0) (bits 1) (l / 4 * 4)) (bits 2 l),
    c.texDraw l, b2n (quad && lost)]

/-- How the fetch step of a texture-unit instruction with `n` result registers ends (13 R339-R341): its job covers the active lanes with
their sources, from the clk of its descriptor step; each access `k` of a lane, which `places` puts at a physical address, is on its way
or is left to a later segment; the registers are pending where there are any. -/
def Sys2Proof.Says.Fetches (s t : State) (c : Ctx) (op dst n size : Nat) (h : HalfIssue) (how : AccOp) (words : Nat → List Nat)
    (places : Nat → Nat → Nat → Prop) (w' : Warp) : Prop :=
  ∃ j : TexJob, j.op = op ∧ j.dst = dst ∧ j.wb = c.p.wb ∧ j.desc = h.img ∧ j.nid = c.nid ∧ j.at_ = h.at_ ∧ j.sent = s.clk ∧
    j.lanes = (lanesOf c.act).map (fun l => (l, words l)) ∧ w'.tex = c.w.tex ++ [j] ∧
    w'.pend = c.w.pend ++ (if n = 0 then [] else [{
      nid := c.nid, dst := dst, num := n, mask := maskOf (lanesOf c.act), wb := c.p.wb, due := 0, del := .tex h.at_ }]) ∧
    ∀ l ∈ lanesOf c.act, ∀ k pa, places l k pa →
      (∃ f ∈ t.flights.drop s.flights.length, f.key = c.key ∧ f.agent = warpAgent c.w ∧ f.op = how ∧
        f.dst = (if n = 0 then .none else .tex h.at_) ∧ ∃ a ∈ f.accs, a.served = false ∧ a.gran = granOf pa ∧
          ∃ p ∈ a.parts, p.lane = l ∧ p.tag = k ∧ p.pa = pa ∧ p.n = size) ∨
      ∃ a ∈ j.left, a.lane = l ∧ a.key / 8 % 128 = k ∧ a.pa = pa ∧ a.n = size

/-- 13 R339, R342, R348, R349; 04 R114: a texture-unit instruction issues first to send the read of its descriptor; no register and no byte of
memory changes. When an accepted descriptor is back, the path stands at the instruction, whose fetch step is its next issue; a malformed one,
or one that gives it registers past the last, parks the warp with ILLEGAL_OPERAND. -/
def Sys2Proof.Says.DescriptorSteps : Prop :=
  (∀ (s : State) (key nid : Nat) (lit : Word) (w : Warp) (p q u va pa : Nat), Issues s key nid lit w →
    let c := seen true s key nid lit w
    let sent (i : Instr) (n : Nat) (vals : List (Nat × List Nat)) : Prop :=
      Answers i s fun t => HalfSent s t c pa n { instr := i, at_ := s.clk, va := va, vals := vals }
    c.any = true → uaddrOk q = true →
    (ObjectAt s c q 32 needR va pa → p % 4 = 0 → p ≤ 60 →
      (c.p.step = none → u ≤ 61 → sent (.tex p q u) 32 [] ∧ sent (.texb p q u) 32 []) ∧
      (srcNoLatch u = true →
        sent (.texq p q u) 32 ((lanesOf c.act).map fun l => (l, [(c.opnd u l).bits.toNat, b2n (c.opnd u l).psn])))) ∧
    (ObjectAt s c q 64 needR va pa → p ≤ 63 → u ≤ 63 → c.p.step = none →
      sent (.hgf p q u) 64 [] ∧ sent (.hgsFast p q u) 64 [] ∧ sent (.hgsExact p q u) 64 [])) ∧
  ∀ (s : State) (key nid : Nat) (w : Warp) (h : HalfIssue) (p q u pa n x : Nat), ComesBack s key nid w h pa n x →
    let t := s.halfBack key nid h.at_ (foundParts pa n x)
    let ends (bad : Prop) : Prop :=
      (¬ bad → Elsewhere s t key nid ∧ t.node key nid = { s.node key nid with step := some { h with img := x, psn := false } } ∧
        ∃ r : Node, (nid ≠ 64 → r = w.root) ∧ t.warp key = some (w.withRoot r)) ∧
      (bad → w.status = .resident → w.park = none → ∃ w' : Warp, t.warp key = some w' ∧ w'.status = .parked ∧ w'.v = w.v ∧ w'.s = w.s ∧
        w'.p = w.p ∧ ∃ m, w'.park = some (17, 0, 0, nid, m))
    let past : Prop := 64 < p + hgRegs x ∨ 64 < u + hgD x
    (h.instr = .tex p q u ∨ h.instr = .texb p q u → n = 1 → ends (texBad x = true)) ∧
    (h.instr = .hgf p q u → n = 2 → ends (hgBad x false = true ∨ past)) ∧
    (h.instr = .hgsFast p q u ∨ h.instr = .hgsExact p q u → n = 2 → ends (hgBad x true = true ∨ past))

/-- 13 R348: TEXQ has no fetch step. When its descriptor is back, the path goes on, and its results, due 2 clk later, are sizes, levels and
format. -/
def Sys2Proof.Says.TextureQueries : Prop :=
  ∀ (s : State) (key nid : Nat) (w : Warp) (h : HalfIssue) (p q u pa x : Nat), ComesBack s key nid w h pa 1 x → h.instr = .texq p q u →
    texBad x = false →
    let c := atBack s key nid w
    let t := s.halfBack key nid h.at_ (foundParts pa 1 x)
    let asked := h.vals.filter fun l => c.act.getLsbD l.1
    (t.node key nid).step = none ∧ StepOver s t c (c.npc [u]) [] [] fun w' => ∃ j : TexJob, j.op = 4 ∧ j.left = [] ∧ j.dst = p ∧
      j.wb = c.p.wb ∧ j.nid = nid ∧ j.at_ = h.at_ ∧ j.done = s.clk + 2 ∧ w'.tex = w.tex ++ [j] ∧
      w'.pend = w.pend ++ [{
        nid := nid, dst := p, num := 4, mask := maskOf (asked.map (·.1)), wb := c.p.wb, due := 0, del := .tex h.at_ }] ∧
      ∀ got, j.results got = asked.map fun l =>
        let k := l.2.getD 0 0
        let is (v : Nat) : Val := ⟨BitVec.ofNat 32 v, l.2.getD 1 0 == 1⟩
        (l.1, if k ≤ texLv x then [is (texW x k), is (texH x k), is (texLv x + 1), is (texFmt x)]
          else [is 0, is 0, is (texLv x + 1), is (texFmt x)])

/-- 13 R339-R347: the fetch step of TEX and TEXB with an accepted descriptor, unpoisoned sources and texels that can be reached sends their
reads on their way. -/
def Sys2Proof.Says.TextureSamplingResults : Prop :=
  ∀ (s : State) (key nid : Nat) (lit : Word) (w : Warp) (p q u : Nat), Issues s key nid lit w →
    let c := seen true s key nid lit w
    c.any = true → uaddrOk q = true → p % 4 = 0 → p ≤ 60 →
    ∀ h, c.p.step = some h → u ≤ 61 → Unpoisoned c [u, u + 1, u + 2] → ∀ e ∈ [(Instr.tex p q u, false), (.texb p q u, true)],
      let x := h.img
      let size := texBytes (texFmt x)
      let taps (l : Nat) : List Tap := let ws := sampleWords e.2 c x u l
        (texTaps x (ws.getD 0 0) (ws.getD 1 0) (ws.getD 2 0) (ws.getD 3 0)).getD []
      (∀ l ∈ lanesOf c.act, ∀ t ∈ taps l, ∀ b, t.addr x = some b → ∃ pb, s.translateAt h.at_ key b size needR = .ok pb) →
      Answers e.1 s fun t => t.mem = s.mem ∧ (t.node key nid).step = none ∧ MemoryStep s t c (c.npc []) [] []
        (Fetches s t c 0 p 4 size h (.load true) (sampleWords e.2 c x u) fun l k pb =>
          ∃ t ∈ taps l, t.key = k ∧ ∃ b, t.addr x = some b ∧ s.translateAt h.at_ key b size needR = .ok pb)

/-- 13 R349-R354: the fetch step of the hash-grid instructions with an accepted descriptor, unpoisoned sources and entries that can be
reached: HGF sends its reads of entries on their way, HGS its additions to the gradient table, which name no register. -/
def Sys2Proof.Says.HashGridResults : Prop :=
  ∀ (s : State) (key nid : Nat) (lit : Word) (w : Warp) (p q u : Nat), Issues s key nid lit w →
    let c := seen true s key nid lit w
    c.any = true → uaddrOk q = true → p ≤ 63 → u ≤ 63 →
    ∀ h, c.p.step = some h →
      let x := h.img
      let size := hgF x * hgFb x
      let coords (l : Nat) : List Nat := (List.range (hgD x)).map fun k => (c.opnd (u + k) l).bits.toNat
      let grads := (List.range (hgRegs x)).map (p + ·)
      let entry (l : Nat) : List Nat := (hgCorners x (coords l)).map fun k => k.lv * hgT x + k.idx
      let place (e : Nat) : Nat := (bitsN x 511 448 + e * size) % 2 ^ 64
      Unpoisoned c ((List.range (hgD x)).map (u + ·)) → 0 < hgRegs x →
      ((∀ l ∈ lanesOf c.act, ∀ e ∈ entry l, ∃ pb, s.translateAt h.at_ key (place e) size needR = .ok pb) →
        Answers (.hgf p q u) s fun t => t.mem = s.mem ∧ (t.node key nid).step = none ∧ MemoryStep s t c (c.npc []) [] []
          (Fetches s t c 1 p (hgRegs x) size h (.load true) coords fun l k pb => ∃ e ∈ hgCorners x (coords l), e.lv * 8 + e.c = k ∧
            s.translateAt h.at_ key (place (e.lv * hgT x + e.idx)) size needR = .ok pb)) ∧
      (Unpoisoned c grads → ∀ e ∈ [(Instr.hgsFast p q u, 2, 4, AccOp.atomic 10), (.hgsExact p q u, 3, 8, .addQ)],
        let word (k f : Nat) : Nat := (bitsN x 127 64 + (k * hgF x + f) * e.2.2.1) % 2 ^ 64
        (∀ l ∈ lanesOf c.act, ∀ k ∈ entry l, ∀ f, f < hgF x → ∃ pb, s.translateAt h.at_ key (word k f) e.2.2.1 needRWAT = .ok pb) →
        Answers e.1 s fun t => t.mem = s.mem ∧ (t.node key nid).step = none ∧ (t.node key nid).spc = 0 ∧
          MemoryStep s t c (c.npc []) [] [] (Fetches s t c e.2.1 p 0 e.2.2.1 h e.2.2.2 coords fun l k pb =>
            ∃ z ∈ hgCorners x (coords l), z.lv * 8 + z.c = k ∧ ∃ f, f < hgF x ∧
              s.translateAt h.at_ key (word (z.lv * hgT x + z.idx) f) e.2.2.1 needRWAT = .ok pb))

/-- 13 R340, R344, R351: a read texture-unit instruction ends with the results of what its reads have found in its lanes' registers,
which are then no longer pending; nothing else of the machine changes but what its reads held. -/
def Sys2Proof.Says.TextureJobsEnd : Prop :=
  ∀ (s : State) (key : Nat) (w : Warp) (j : TexJob), s.warp key = some w → swf none s.warps = true → swf {} w.v = true → j.op ≠ 2 → j.op ≠ 3 →
    (j.lanes.map (·.1)).Nodup → (∀ l ∈ j.lanes, l.1 < 96) →
    let t := s.texEnd key j
    let rs := j.results (s.texGot key j)
    t = { s with warps := t.warps, flights := t.flights } ∧ (∀ k, k ≠ key → t.warp k = s.warp k) ∧
      ∃ w', t.warp key = some w' ∧ w'.tex = w.tex.filter (· ≠ j) ∧
        (∀ r ∈ rs, ∀ k, k < r.2.length → w'.vAt (j.wb + j.dst + k) r.1 = r.2.getD k {}) ∧
        ∀ pos l, l < 96 → (∀ r ∈ rs, r.1 = l → pos < j.wb + j.dst ∨ j.wb + j.dst + r.2.length ≤ pos) → w'.vAt pos l = w.vAt pos l

/-- 13: the texture and the hash-grid instructions, to their results. -/
def Obligations.SamplingResults : Prop := DescriptorSteps ∧ TextureQueries ∧ TextureSamplingResults ∧ HashGridResults ∧ TextureJobsEnd

/-- 13 R355-R358: TRACE hands the active lanes' rays to the traversal unit, each with the root to visit first and none to be read before
the warp's earlier stores and atomics have taken effect, and does not issue while the warp's earlier TRACE is
incomplete or the unit holds 512 rays; HITGET delivers the hit buffers, at once or when the TRACE ends; RSORT gives the lanes of
the rays in key order, and each lane its own key. -/
def Obligations.TraversalInstructionResults : Prop :=
  ∀ (s : State) (key nid : Nat) (lit : Word) (w : Warp) (p q u va : Nat), Issues s key nid lit w →
    let c := seen true s key nid lit w
    let act := lanesOf c.act
    let block (l : Nat) : List Val := (List.range 8).map fun i => c.opnd (u + i) l
    let busy : Prop := w.trace.isSome = true ∨ 512 ≤ s.raysHeld (key / 128)
    c.any = true →
    (uaddrOk q = true → u % 8 = 0 → u ≤ 56 → c.addr q 0 = (va, false) → va % 64 = 0 → (∀ l ∈ act, ∀ v ∈ block l, v.psn = false) →
      (¬ busy → va < 2 ^ 32 + 2 ^ 24 → Answers (.trace q u) s fun t => ∃ after, s.clk ≤ after ∧
        (∀ f ∈ s.flights, f.key = key → (∀ b, f.op ≠ .load b) → ∀ a ∈ f.accs, a.served = false → a.slot < after) ∧
        StepOver s t c (c.npc []) [] [] fun w' => w'.trace = some {
          nid := nid, root := va, rays := act.map fun l => { lane := l, words := (block l).map (·.bits.toNat), stack := [va] }
          at_ := s.clk, after := after }) ∧
      (busy → Answers (.trace q u) s fun t => Stays s t c)) ∧
    (p < 64 → (∀ e ∈ [(0, 4), (1, 1)], (e.1 = 0 → p % 4 = 0) →
      (w.trace = none → Answers (.hitget p e.1) s fun t =>
        StepOver s t c (c.npc []) ((List.range e.2).map (p + ·)) [] fun w' => ∀ l ∈ act, let h := sget noHit w.hits l
          ∀ k, k < e.2 → w'.vAt (c.p.wb + p + k) l =
            ⟨if e.1 = 1 then h.status else [h.t, h.prim, h.u, h.v].getD k 0#32, false⟩) ∧
      (w.trace.isSome = true → Answers (.hitget p e.1) s fun t => StepOver s t c (c.npc []) [] [] fun w' =>
        w'.pend = w.pend ++ [{
          nid := nid, dst := p, num := e.2, mask := c.act, wb := c.p.wb, due := 0, del := .trace e.1 }]))) ∧
    (p % 2 = 0 → p ≤ 62 → srcNoLatch q = true → u % 8 = 0 → u ≤ 56 →
      let dir (l : Nat) : List Nat := (((block l).drop 3).take 3).map (·.bits.toNat)
      let bad (l : Nat) : Bool := (c.opnd q l).psn || (block l).any (·.psn) || (dir l).any (fun x => (fp32.decode x).isNan)
      let own (l : Nat) : Nat := if bad l then 2 ^ 32 - 1
        else sortKey (c.opnd q l).bits.toNat (dir l) fun i => Config.freeNat (s.fresh + 2 * l + i)
      Answers (.rsort p q u) s fun t => ∃ order : List Nat, order.Perm act ∧
        order.Pairwise (fun a b => own a < own b ∨ own a = own b ∧ a < b) ∧
        StepOver { s with fresh := t.fresh } t c (c.npc [q]) [p, p + 1] [] fun w' => ∀ j, j < act.length →
          w'.vAt (c.p.wb + p) (act.getD j 0) = ⟨BitVec.ofNat 32 (order.getD j 0), false⟩ ∧
          w'.vAt (c.p.wb + p + 1) (act.getD j 0) = ⟨BitVec.ofNat 32 (own (act.getD j 0)), bad (act.getD j 0)⟩)

/-- 13 R360, R362: what a warp of a mesh team does to the team's meshlet: MSETC sets its counts, SRATE its level, EMITV writes a group of
four attributes of each active lane's vertex and EMITP each active lane's primitive, the highest lane winning; R361: a pixel warp's
EMITV sets its lanes' colours, and DISCARD ends its lanes. -/
def Sys2Proof.Says.GeometryInstructionResults : Prop :=
  ∀ (s : State) (key nid : Nat) (lit : Word) (w : Warp) (tm : Team) (p q u : Nat), Issues s key nid lit w → s.team w.team = some tm →
    let c := seen true s key nid lit w
    let m := tm.mesh
    let val (k : Nat) : Nat := (c.opndU k).bits.toNat
    let given (k : Nat) : Prop := uniOk k = true ∧ (c.opndU k).psn = false
    let act := lanesOf c.act
    let leaves (codes : List Nat) (m' : Mesh) (t : State) : Prop :=
      StepOver (s.setTeam w.team (some { tm with mesh := m' })) t c (c.npc codes) [] [] fun _ => True
    let ix (l : Nat) : Nat := (c.opnd p l).bits.toNat
    let word (l : Nat) : Nat := (c.opnd u l).bits.toNat
    let data : List Nat := (List.range 4).map (u + ·)
    let lastAt (l : Nat) : Prop := ∀ j ∈ act, l < j → ix j ≠ ix l
    c.any = true → swf 0 m.verts = true → swf 0 m.prims = true → swf 0 w.colour = true → swf false w.emitted = true →
    (w.stageKind = 1 →
      (given q → given u → p ≤ 4 → val q ≤ 128 → val u ≤ 256 → (m.set = true → m.nv = val q ∧ m.np = val u ∧ m.g = p) →
        Answers (.msetc p q u) s (leaves [q, u] { m with set := true, nv := val q, np := val u, g := p })) ∧
      (given q → val q ≤ 4 → Answers (.srate q) s (leaves [q] { m with srate := val q })) ∧
      (m.set = true → srcNoLatch p = true → u ≤ 60 → given q → val q ≤ m.g → Unpoisoned c (p :: data) → (∀ l ∈ act, ix l < m.nv) →
        Answers (.emitv p q u) s fun t => ∃ vs, leaves [p, q] { m with verts := vs } t ∧
          (∀ l ∈ act, lastAt l → ∀ i, i < 4 → sget 0 vs ((ix l * 5 + val q) * 4 + i) = (c.opnd (u + i) l).bits.toNat) ∧
          ∀ y, (∀ l ∈ act, ∀ i, i < 4 → y ≠ (ix l * 5 + val q) * 4 + i) → sget 0 vs y = sget 0 m.verts y) ∧
      (m.set = true → srcNoLatch p = true → u ≤ 63 → Unpoisoned c [p, u] →
        (∀ l ∈ act, ix l < m.np ∧ word l < 2 ^ 25 ∧ ∀ j, j < 3 → word l / 256 ^ j % 256 < m.nv) →
        Answers (.emitp p u) s fun t => ∃ ps, leaves [p] { m with prims := ps } t ∧
          (∀ l ∈ act, lastAt l → sget 0 ps (ix l) = word l + 2 ^ 32) ∧ ∀ y, (∀ l ∈ act, y ≠ ix l) → sget 0 ps y = sget 0 m.prims y)) ∧
    (w.stageKind = 2 →
      (given q → val q ≤ 3 → u ≤ 60 → Unpoisoned c data → Answers (.emitv 103 q u) s fun t => ∃ col em,
        Ends s t c (c.npc [103, q]) (fun w => { w with colour := col, emitted := em, yv := 0 }) ∧
        (∀ l ∈ act, sget false em (l * 4 + val q) = true ∧
          ∀ i, i < 4 → sget 0 col ((l * 4 + val q) * 4 + i) = (c.opnd (u + i) l).bits.toNat) ∧
        ∀ y, (∀ l ∈ act, y ≠ l * 4 + val q) → sget false em y = sget false w.emitted y ∧
          ∀ i, i < 4 → sget 0 col (y * 4 + i) = sget 0 w.colour (y * 4 + i)) ∧
      (nid = 64 → s.entries key = [] → w.serial = [] → w.arrive = [] → w.finals = [] → w.root.kind = .path → w.status = .resident →
        c.p.mask &&& ~~~c.act ≠ 0#96 → Answers .discard s fun t =>
          Leaves s t c (counts c) (fun w => { w with killedPix := w.killedPix ||| c.act, yv := 0 })
            (fun n => { goesOn s (c.npc []) n with mask := c.p.mask &&& ~~~c.act })))

/-! ### Fault handlers -/

/-- 16 R428-R432: the FRAG group in a handler warp. FQPOP copies the oldest fault record and returns its handle, or all ones where the
queue is empty; FINFO returns an item of the parked work for each lane; FRESUME makes a parked fragment a ready path, FKILL marks
its launch failed, both freeing the handle; a handle that names nothing answers 1. Results come after 12 clk and 4 for each hop. -/
def Sys2Proof.Says.HandlerInstructionResults : Prop :=
  ∀ (s : State) (key nid : Nat) (lit : Word) (w : Warp) (p q u : Nat), Issues s key nid lit w → swf {} s.ctxs = true →
    swf none s.teams = true → swf none s.launches = true → swf {} (s.ctx w.ctx).dir = true →
    let c := seen true s key nid lit w
    let cx := s.ctx w.ctx
    let x (k : Nat) : Nat := (c.opndU k).bits.toNat
    let given (k : Nat) : Prop := uniOk k = true ∧ (c.opndU k).psn = false
    let returns (vals : List Val) (due : Nat) (w' : Warp) : Prop := w'.pend = w.pend ++ [{
      nid := nid, dst := p, num := 1, mask := c.act, wb := c.p.wb, due := due, del := .frag vals }]
    let word (v : Nat) : List Val := [⟨BitVec.ofNat 32 v, false⟩]
    let h := x q
    let soon := subClk s key 12
    w.handler = true → c.any = true →
    (isS p = true →
      (∀ va pa, uaddrOk q = true → c.addr q 0 = (va, false) → s.translate key va 64 needW = .ok pa →
        (cx.fqhead = cx.fqtail → Answers (.fqpop p q) s fun t =>
          StepOver s t c (c.npc []) [] [] (returns (word (2 ^ 32 - 1)) soon) ∧ soon ≤ (t.node key nid).hold) ∧
        (∀ src, cx.fqhead ≠ cx.fqtail → s.fqSlot w.ctx cx.fqhead = some src → Sound s src 64 →
          Answers (.fqpop p q) s fun t => ∃ due, s.clk + 17 ≤ due ∧ due ≤ (t.node key nid).hold ∧
            StepOver { (s.setCtx w.ctx { cx with fqhead := cx.fqhead + 1 }).setMem t.mem with traffic := t.traffic } t c (c.npc []) [] []
              (returns (word (memRead s.mem.bytes src 64 / 2 ^ 128 % 2 ^ 32)) due) ∧
            memRead t.mem.bytes pa 64 = memRead s.mem.bytes src 64 ∧ OutsideKept s t pa 64)) ∧
      (given q → cx.liveWork h = none → given u → x u ≤ 1 →
        ∀ e ∈ [(Instr.fresume p q u, c.npc [q, u]), (.fkill p q, c.npc [q])], Answers e.1 s fun t =>
          StepOver s t c e.2 [] [] (returns (word 1) soon)) ∧
      (∀ (tk i f k2 : Nat) (v : Warp) (tm : Team), given q → given u → x u ≤ 1 → cx.liveWork h = some (.frag tk i f) → s.team tk = some tm →
        s.workSaved (.frag tk i f) = false → s.warpKey tk i = some k2 → k2 ≠ key → s.warp k2 = some v → s.entries k2 = [] → v.serial = [] →
        v.root.kind = .frag → v.root.fragId = f → tm.tcb = none →
        Answers (.fresume p q u) s fun t => (∃ v', t.warp k2 = some v' ∧ v'.root.kind = .path ∧ v'.root.mask = v.root.mask ∧
            (x u = 0 → v'.root.pc = v.root.pc) ∧ v'.v = v.v ∧ v'.s = v.s ∧ v'.p = v.p) ∧
          (t.ctx w.ctx).liveWork h = none ∧ (t.node key nid).pc = c.npc [q, u] ∧ t.mem = s.mem ∧
          ∃ w' due, t.warp key = some w' ∧ returns (word 0) due w') ∧
      (∀ (tk i f k2 : Nat) (v : Warp) (tm : Team) (l : Launch), given q → cx.liveWork h = some (.frag tk i f) → s.team tk = some tm →
        s.workSaved (.frag tk i f) = false → s.launch tm.launch = some l → s.warpKey tk i = some k2 → k2 ≠ key → s.warp k2 = some v →
        s.entries k2 = [] → v.serial = [] → v.arrive = [] → v.finals = [] → v.root.kind = .frag → v.root.fragId = f → v.root.mask ≠ 0#96 →
        v.status = .resident → tm.tcb = none → (∀ a ∈ s.ashs, a.2.team ≠ some tk) →
        Answers (.fkill p q) s fun t => (∃ v', t.warp k2 = some v' ∧ v'.status = .exited) ∧
          (∃ l', t.launch tm.launch = some l' ∧ l'.failed = true) ∧ (t.ctx w.ctx).liveWork h = none ∧ (t.node key nid).pc = c.npc [q] ∧
          t.mem.bytes = s.mem.bytes ∧ ∃ w' due, t.warp key = some w' ∧ returns (word 0) due w')) ∧
    (p < 64 → given q → given u →
      let item := x u % 256
      x u < 768 → (item ≤ 3 ∨ 64 ≤ item ∧ item ≤ 127) →
      (cx.liveWork h = none → Answers (.finfo p q u) s fun t =>
        StepOver s t c (c.npc [q, u]) [] [] (returns (List.replicate 96 ⟨0#32, true⟩) soon)) ∧
      (∀ wk, cx.liveWork h = some wk → Answers (.finfo p q u) s fun t => ∃ due vals, s.clk + 12 ≤ due ∧
        StepOver s t c (c.npc [q, u]) [] [] (returns vals due) ∧
        ∀ l, l < 32 → vals.getD l {} = s.infoItem wk item (32 * (x u / 256 % 4) + l)))

/-- 13, 14, 16: the geometry instructions and those of handler warps. -/
def Obligations.GeometryAndHandlerResults : Prop := GeometryInstructionResults ∧ HandlerInstructionResults

/-! ### Events of a warp -/

/-- 02 R48, R55; 04 R118; 05 R140, R142; 06 R160; 08 R220: what ends a warp's waits between its instructions: write-back of the beats due
into registers, or to the path that waits for what it has read,
urgency after 64 clk held on one instruction, the end of a frame move or of a YIELD, a monitor's wake and recheck, which is counted. An event that is not due changes nothing. -/
def Sys2Proof.Says.WarpWaitEvents : Prop :=
  ∀ (s : State) (k m sl : Nat) (w : Warp), s.warp k = some w →
    let ready := s.updNode k m fun n => { n with wait := .none, since := s.clk }
    let ends (i : Instr) (wait : Nat → Wait) : Prop := ∀ till, (s.node k m).wait = wait till →
      (till ≤ s.clk → exec i s = .next ready) ∧ (s.clk < till → exec i s = .next s)
    (∀ (f : Flight) (rest : List Flight), s.flights = f :: rest → f.key = k → f.dst ≠ .none → (∀ g ∈ rest, g.key ≠ k ∧ g.dst ≠ .none) →
      (∀ n z, f.dst ≠ .half n z) → (∀ g ∈ s.flights, ∀ a ∈ g.accs, a.served = true) → s.slotsHeld = [] → s.railOf (k / 128) = 0 → w.tex = [] → w.finals = [] →
      swf none s.warps = true →
      let f' := { f with backs := f.backs.filter fun b => decide (s.clk < b.2) }
      let ready_ := (f.accs.filter fun a => f.backs.any fun b => b.2 ≤ s.clk && b.1 == a.beat).flatMap (·.parts)
      Answers (.memoryWriteback k) s fun t => t = { s with warps := t.warps, flights := t.flights, cal := t.cal } ∧
        (∀ j, j ≠ k → t.warp j = s.warp j) ∧
        t.warp k = some (({ w with inflight := w.inflight.filter fun t => decide (s.clk < t) } : Warp).deliver f.dst ready_) ∧
        ((∃ n, f.dst = .tex n ∨ f.dst = .ray n) ∨ f'.backs ≠ [] → t.flights = f' :: rest) ∧
        ((∀ n, f.dst ≠ .tex n ∧ f.dst ≠ .ray n) → f'.backs = [] → t.flights = rest)) ∧
    (∀ (f : Flight) (n z : Nat), f.dst = .half n z → (∃ b ∈ f.backs, b.2 ≤ s.clk) → s.writeBack k f = s.halfBack k n z
      ((f.accs.filter fun a => f.backs.any fun b => b.2 ≤ s.clk && b.1 == a.beat).flatMap (·.parts))) ∧
    (∀ since, w.urgent = false → w.heldAt = some since → since + 64 ≤ s.clk →
      exec (.attemptUrgent k) s = .next (s.setWarp k (some { w with urgent := true, nurg := satAdd w.nurg 1 32 }))) ∧
    ends (.frameMoveDone k m) (fun t => .frame (some t)) ∧ ends (.yieldExpiry k m) .yield ∧
    (∀ slice till, (s.node k m).wait = .monitor (some (slice, till)) →
      (s.clk < till → exec (.monitorRecheck k m) s = .next s) ∧
      (till ≤ s.clk → Answers (.monitorRecheck k m) s fun t =>
        t = (s.setMem { s.mem with mon := t.mem.mon }).updNode k m (fun n => { n with wait := .none, since := s.clk }) ∧
        (swf {} s.mem.mon = true → (sget {} t.mem.mon slice).mpoll = satAdd (sget {} s.mem.mon slice).mpoll 1 32))) ∧
    (∀ e : CairnEntry, sget [] s.mem.wakes sl = [e] → e.waiter = .path w.ctx k m → (s.node k m).wait = .monitor none →
      exec (.monitorWake sl) s = .next ((s.setMem { s.mem with wakes := sput [] s.mem.wakes sl [] }).updNode k m fun n =>
        { n with wait := .none, since := s.clk }))

/-- 11 R297; 16 R428: a FRAG result reaches its register once due, and HLDR's values all lanes at once, with the registers no longer
pending. -/
def Sys2Proof.Says.EngineDeliveries : Prop :=
  ∀ (s : State) (k m : Nat) (w : Warp) (pd : Pend) (rest : List Pend), s.warp k = some w → swf none s.warps = true → swf {} w.v = true →
    swf {} w.s = true → w.pend = pd :: rest → (∀ l ∈ lanesOf pd.mask, l < 96) →
    (∀ vals, pd.nid = m → pd.due ≤ s.clk → pd.del = .frag vals → Answers (.fragDelivery k m) s fun t => ∃ w', t = s.setWarp k (some w') ∧
      w'.pend = rest ∧ (isS pd.dst = true → ∀ i, i < vals.length → w'.sAt (pd.dst - 64 + i) = vals.getD i {}) ∧
      (isS pd.dst = false → ∀ l ∈ lanesOf pd.mask, w'.vAt (pd.wb + pd.dst) l = vals.getD l {})) ∧
    (∀ (core slot tk : Nat) (f : Xfer), (s.hod core).slot slot = some f → swf none (s.hod core).slots = true → swf {} s.hods = true →
      f.cmd.op = 9 → f.phase ≠ .ended → f.cmd.lanes.length ≤ f.got.length → f.cmd.team = some tk → s.warpKey tk f.cmd.warp = some k →
      pd.del = .hldr f.cmd.seq → pd.dst < 64 → (f.got.map (·.1)).Nodup → (∀ g ∈ f.got, g.1 < 96) →
      Answers (.hldrDelivery core slot) s fun t => (t.hod core).slot slot = some { f with phase := .ended } ∧
        ∃ w', t.warp k = some w' ∧ w'.pend = rest ∧ t = { s with hods := t.hods, warps := t.warps } ∧
          ∀ g ∈ f.got, ∀ i, i < g.2.length → w'.vAt (pd.wb + pd.dst + i) g.1 = g.2.getD i {})

/-- 13 R341: the next segment of a texture-unit instruction reserves and sends its accesses on their way, where its reservations
succeed; else its warp is held for the clk, which no `HOLD` counts while the cluster is paused (17 R447). -/
def Sys2Proof.Says.TextureSegments : Prop :=
  ∀ (s : State) (k m : Nat) (w : Warp) (j : TexJob), s.warp k = some w → swf none s.warps = true → w.tex = [j] → j.nid = m →
    j.after < s.clk → j.left ≠ [] →
    let core := k / 128
    let atomic := decide (2 ≤ j.op)
    let seg := (segTake core atomic j.left 0 0 0 [] []).1
    let passes := (seg.map (·.key)).eraseDups.length
    let free := s.clear (some k) j.sent (s.clk + ·) core passes (segAccs atomic seg) (passSlotsOf core s.clk passes)
    (free = false → s.clk < (s.cluster (clusterOf core)).pause → exec (.textureSegmentAttempt k m) s = .next s) ∧
    (free = false → (s.cluster (clusterOf core)).pause ≤ s.clk → exec (.textureSegmentAttempt k m) s = .next (s.setWarp k (some { w with hold := satAdd w.hold 1 64 }))) ∧
    (free = true → Answers (.textureSegmentAttempt k m) s fun t => seg ≠ [] ∧ ∃ w' j' f,
      t = { reached s t with warps := t.warps, belay := t.belay } ∧
      t.mem = s.mem ∧ t.warp k = some w' ∧ w'.tex = [j'] ∧ j.left = seg ++ j'.left ∧ w'.pend = w.pend ∧ t.flights = s.flights ++ [f] ∧
      f.key = k ∧ ∀ a ∈ seg, ∃ x ∈ f.accs, x.gran = granOf a.pa ∧ x.served = false ∧ ∃ p ∈ x.parts, p.lane = a.lane ∧ p.pa = a.pa ∧ p.n = a.n)

/-- 13 R356: a ray asks for the first node of its stack, whose two bank words are read on their way; one that does not translate ends the walk
with its code, and so does the node after the 65,536th. While the reservations fail nothing changes. -/
def Sys2Proof.Says.RayAttempts : Prop :=
  ∀ (s : State) (k a : Nat) (w : Warp) (j : TraceJob) (x : RayWalk) (rest : List Nat), x.code = none → x.due = none → x.stack = a :: rest →
    let core := k / 128
    let r := s.rayAttempt k w j x
    let accs (pa : Nat) : List (Nat × Nat) := [(0, granOf pa), (0, granOf pa + 1)]
    (65536 ≤ x.visits → r = (s, { x with code := some 18 })) ∧
    (x.visits < 65536 →
      (∀ e, s.translateAt j.at_ k a 64 needR = .error e → r = (s, { x with code := some (statusOf e) })) ∧
      (∀ pa, s.translateAt j.at_ k a 64 needR = .ok pa →
        (s.clear (some k) j.at_ (s.clk + ·) core 1 (accs pa) = false → r = (s, x)) ∧
        (s.clear (some k) j.at_ (s.clk + ·) core 1 (accs pa) = true →
          r.2 = { x with stack := rest, visits := x.visits + 1, due := some (s.clk + latencyL core 1 (accs pa)) } ∧
          ∃ f : Flight, r.1 = { s with flights := s.flights ++ [f], cal := r.1.cal, slotsHeld := r.1.slotsHeld } ∧ f.key = k ∧
            f.agent = warpAgent w ∧ f.op = .load true ∧ f.dst = .ray x.lane ∧ f.accs.map (·.gran) = [granOf pa, granOf pa + 1] ∧
            (f.accs.flatMap (·.parts)).map (fun p => (p.lane, p.pa, p.n)) =
              [(x.lane, 32 * granOf pa, 32), (x.lane, 32 * (granOf pa + 1), 32)])))

/-- 13 R355, R356: the node that a ray has asked for: poison ends the walk with 13 and a malformed node with 16; a leaf may better its hit; the
children of an inner node that it hits go on top of its stack, the nearer first, and a 65th entry ends it with 19; an empty stack ends it. -/
def Sys2Proof.Says.RayVisits : Prop :=
  ∀ (x : RayWalk) (space img : Nat), x.code = none → img < 2 ^ 512 →
    let r := Ray.ofWords x.words
    let kind := img / 2 ^ 510
    let ends (st : List Nat) (best : Best) : RayWalk := { x with due := none, stack := st, best := best, code := if st = [] then some 0 else none }
    let below := nodeChildren r x.best.t space img ++ x.stack
    let reserved : Prop := img / 2 ^ 448 % 2 ^ 10 ≠ 0 ∨ img / 2 ^ 384 % 2 ^ 32 ≠ 0
    x.visit space img true = { x with due := none, code := some 13 } ∧
    (nodeBad img = true ↔ kind = 0 ∨ kind = 3 ∨ reserved ∨
      (kind = 2 ∧ (img / 2 ^ 484 % 2 ^ 26 ≠ 0 ∨ img / 2 ^ 458 % 2 ^ 26 ≠ 0 ∨ img / 2 ^ 96 % 2 ^ 96 ≠ 0))) ∧
    (nodeBad img = true → x.visit space img false = { x with due := none, code := some 16 }) ∧
    (nodeBad img = false → kind = 2 → x.visit space img false = ends x.stack (leafHit r x.best img)) ∧
    (nodeBad img = false → kind = 1 →
      (64 < below.length → x.visit space img false = { x with due := none, code := some 19 }) ∧
      (below.length ≤ 64 → x.visit space img false = ends below x.best))

/-- 13 R356, R357: rays visit the nodes that are there; a TRACE some of whose rays still walk goes on, and at the end of all their walks the
rays' hits are in the warp's hit buffers, and a HITGET that waits for them has its words. -/
def Sys2Proof.Says.TraceEnds : Prop :=
  ∀ (s : State) (k m : Nat) (w : Warp) (j : TraceJob), s.warp k = some w → swf none s.warps = true → swf {} w.v = true →
    swf noHit w.hits = true → w.trace = some j → j.nid = m → (j.rays.map (·.lane)).Nodup →
    let space := if j.root < 2 ^ 32 then 0 else 2 ^ 32
    let node (l : Nat) : Nat × Bool := s.rayNode k l
    let here (x : RayWalk) : Prop := ∃ t, x.due = some t ∧ t ≤ s.clk
    (∀ (f : Flight) (x : RayWalk) (pa img : Nat), s.flights = [f] → f.key = k → f.dst = .ray x.lane → pa < 2 ^ 64 → img < 2 ^ 512 →
      f.accs.flatMap (·.parts) = (foundParts pa 2 img).map (fun p => { p with lane := x.lane }) → node x.lane = (img, false)) ∧
    (∀ rays : List RayWalk, rays.length = j.rays.length →
      (∀ e ∈ j.rays.zip rays, (here e.1 → e.2 = e.1.visit space (node e.1.lane).1 (node e.1.lane).2) ∧ (¬ here e.1 → e.2 = e.1)) →
      (∃ x ∈ rays, x.code = none) → Answers (.traceComplete k m) s fun t =>
        t = { s with warps := t.warps, flights := t.flights } ∧ (∀ i, i ≠ k → t.warp i = s.warp i) ∧
        t.warp k = some { w with trace := some { j with rays := rays } }) ∧
    ((∀ x ∈ j.rays, x.due = none ∧ x.code ≠ none) → Answers (.traceComplete k m) s fun t => ∃ w',
      t = { s with warps := t.warps, belay := t.belay } ∧ (∀ i, i ≠ k → t.warp i = s.warp i) ∧ t.warp k = some w' ∧ w'.trace = none ∧
      (∀ x ∈ j.rays, ∀ c, x.code = some c → sget noHit w'.hits x.lane = hitOf c x.best) ∧
      (∀ l, (∀ x ∈ j.rays, x.lane ≠ l) → sget noHit w'.hits l = sget noHit w.hits l) ∧
      (∀ pd i, w.pend = [pd] → pd.del = .trace i → (∀ l ∈ lanesOf pd.mask, l < 96) → w'.pend = [] ∧ ∀ l ∈ lanesOf pd.mask,
        let h := sget noHit w'.hits l
        ∀ x, x < (if i = 0 then 4 else 1) → w'.vAt (pd.wb + pd.dst + x) l =
          ⟨if i = 0 then [h.t, h.prim, h.u, h.v].getD x 0#32 else h.status, false⟩))

/-- 11 R297; 13 R341, R356, R357; 16 R428: what engines deliver to a warp. -/
def Obligations.WarpDeliveries : Prop := EngineDeliveries ∧ TextureSegments ∧ RayAttempts ∧ RayVisits ∧ TraceEnds

/-- 08 R228, 16 R418, R419: an expired deadline disarms; a running warp takes DEADLINE at once if a path of it waits, else at its next
boundary, and so it does behind a gang-level park or a pre-emption of its team. 08 R224, 06 R156: WARP_RELEASE frees the slot of an exited
warp whose instructions have reached write-back; with the team's last warp its spill areas and its energy share are free, and the team is to
end once its plain stores are 17 clk old (04 R109). -/
def Sys2Proof.Says.DeadlineAndRelease : Prop :=
  ∀ (s : State) (k : Nat) (w : Warp) (tm : Team), s.warp k = some w → swf none s.warps = true → swf {} s.belay = true →
    swf none s.teams = true → s.team w.team = some tm →
    (k < 24576 → tm.status = .started → w.status = .resident → w.deadline < 2 ^ 64 - 1 → w.deadline ≤ s.clk →
      let later := exec (.deadline k) s = .next (s.setWarp k (some { w with deadline := 2 ^ 64 - 1, dlHit := true }))
      let behind := tm.gangPark ≠ none ∨ tm.preempt ≠ 0
      (behind → later) ∧
      (¬ behind → w.strip = false →
        (s.someWaiting k = none → later) ∧
        (∀ i, s.someWaiting k = some i → Answers (.deadline k) s fun t => ∃ w', t.warp k = some w' ∧ w'.status = .parked ∧
          w'.deadline = 2 ^ 64 - 1 ∧ (∃ mask, w'.park = some (21, 0, 0, i, mask)) ∧ w'.v = w.v ∧ w'.s = w.s ∧ w'.p = w.p))) ∧
    (s.clk < w.deadline → w.dlHit = false → exec (.deadline k) s = .next s) ∧
    (w.status = .exited → s.memDone k = false ∨ (∃ b ∈ w.busy, s.clk < b.till) → exec (.warpRelease k) s = .next s) ∧
    (w.status = .exited → s.memDone k = true → (∀ b ∈ w.busy, b.till ≤ s.clk) → w.stageKind ≠ 2 → s.entries k = [] →
      let gap := max tm.gapAt (w.lastPlain + 17)
      let cl := clusterOf tm.core
      (tm.keys.filter (· != k) ≠ [] → exec (.warpRelease k) s =
        .next ((s.setWarp k none).setTeam w.team (some { tm with keys := tm.keys.filter (· != k), gapAt := gap }))) ∧
      (tm.keys = [k] → swf {} s.clusters = true → Answers (.warpRelease k) s fun t => t = { s with
          warps := t.warps, teams := t.teams, clusters := t.clusters } ∧ t.warp k = none ∧ (∀ i, i ≠ k → t.warp i = s.warp i) ∧
        t.team w.team = some { tm with keys := [], gapAt := gap, spills := [], gone := 1 } ∧
        t.cluster cl = (if tm.strip then { s.cluster cl with scommit := (s.cluster cl).scommit - tm.energy }
          else { s.cluster cl with commit := (s.cluster cl).commit - tm.energy })))

/-- The events that end a wait, time a warp out and free its slot. -/
def Obligations.WarpWaitAndDeadlineEvents : Prop := WarpWaitEvents ∧ DeadlineAndRelease

/-! ### The copy engines -/

/-- The tables of a core's Hod are in canonical form. -/
structure Sys2Proof.Says.HodTables (s : State) (core : Nat) : Prop where
  hods : swf {} s.hods = true
  queues : swf {} (s.hod core).qs = true
  slots : swf none (s.hod core).slots = true
  bytes : Memory.wf s.mem.bytes = true
  marks : swf false s.mem.psn = true
  latent : swf false s.mem.ueLat = true

/-- What one unit of a transfer reserves in this clk succeeds (03 R76, R81): its beat of the Hod's core, and for a read the way in. -/
def Sys2Proof.Says.UnitFree (s : State) (core pa n : Nat) (reads : Bool) : Prop :=
  let accs := (spanPieces 32 (n + 1) pa 0 n).map fun p => (0, granOf p.1)
  s.hodMay core = true ∧ s.clear none 0 (fun _ => s.clk) core 1 accs
    (if reads = true then [(s.clk + latencyL core 1 accs, hodIn core)] else []) = true

/-- A unit's bytes are on their way in a flight (03 R81): each lies in a part of an access to its bank word, not served yet. -/
def Sys2Proof.Says.UnitSent (fl : Flight) (agent : Nat) (op : AccOp) (pa n : Nat) (P : AccPart → Nat → Prop) : Prop :=
  fl.agent = agent ∧ fl.op = op ∧ ∀ x, x < n → ∃ a ∈ fl.accs, a.served = false ∧ a.gran = granOf (pa + x) ∧
    ∃ p ∈ a.parts, p.pa = pa + p.lane ∧ p.lane ≤ x ∧ x < p.lane + p.n ∧ P p x

/-- 11 R291, R296; 03 R78; 02 R56: the Hod asks for the record at the head of a queue as one unit of 64 bytes, and marks what comes when it is
malformed or poisoned; a free transfer slot takes the head command of the queue that the order of service chooses, with the status its
start decides. -/
def Sys2Proof.Says.HodStartEvents : Prop :=
  ∀ (s : State) (core q : Nat) (c : HodCmd) (rest : List HodCmd), HodTables s core →
    let h := s.hod core
    let x := h.queue q
    x.cmds = c :: rest → c.ready ≤ s.clk → s.cmdFree c = true →
    (∀ pa, c.image = none → c.asked = none → c.early = 0 → c.op ≠ 9 → q ≠ 17 → c.recPhys = false → spaceOf c.recAddr ≤ 1 →
      s.padHeld c c.recAddr = false → s.hodXlate core q c c.recAddr needR = .ok pa → UnitFree s core pa 64 true →
      Answers (.hodRecordRead core q) s fun t => t = { reached s t with hods := t.hods } ∧ t.mem = s.mem ∧
        (∃ fl, t.flights = s.flights ++ [fl] ∧ fl.key = recKey core q ∧ fl.dst = .hod 0 ∧
          UnitSent fl (hodAgent core q c.seq) (.load false) pa 64 fun _ _ => True) ∧
        t.hod core = { h.setQueue q { x with cmds := { c with
          asked := some (s.clk + latencyL core 1 ((spanPieces 32 65 pa 0 64).map fun p => (0, granOf p.1))) } :: rest } with
            tried := s.clk + 1 }) ∧
    (∀ d fl, c.asked = some d → d ≤ s.clk → s.flights = [fl] → fl.key = recKey core q → fl.dst = .hod 0 →
      Answers (.hodRecordRead core q) s fun t => t = { s with hods := t.hods, flights := [] } ∧
        let img := fl.unitGot.1
        t.hod core = h.setQueue q { x with cmds := { c with
          asked := none, image := some img, early := if fl.unitGot.2.1 ≠ 0 ∨ hodMalformed c.op q c.ash img = true then 16 else 0 } :: rest }) ∧
    (∀ i, q ≠ 17 → s.hodPick core = some q → s.hodReady core q = some c → s.startHeld c = false →
      (List.range 4).find? (fun i => (h.slot i).isNone) = some i →
      (∀ k, k < 17 → ∀ e ∈ (h.queue k).cmds.head?, ∀ d ∈ e.asked, s.clk < d) →
      Answers (.hodCommandStart core) s fun t => ∃ f : Xfer, (t.hod core).slot i = some f ∧ f.q = q ∧ f.cmd = c ∧
        ((t.hod core).queue q).cmds = rest ∧ (∀ j, j ≠ i → (t.hod core).slot j = h.slot j) ∧ t.mem.bytes = s.mem.bytes ∧
        ((s.hodStart core q c).1 ≠ 0 → f.phase = .ended ∧ f.status = (s.hodStart core q c).1) ∧
        ((s.hodStart core q c).1 = 0 → c.op < 4 → f.phase = .moving ∧ f.status = 0 ∧ f.elem = 0 ∧ f.off = 0 ∧ f.buf = []))

/-- 03 R76, R81, R90; 05 R133: a unit of an HCOPY between segments. Its read takes a unit of the buffer and sends its accesses on their
way; when their data arrive they are in the buffer; its write sends them to the destination, counts its bytes and owes the destination
barrier its decrement 17 clk after the last bank slot. An attempt whose reservations fail changes nothing but the clk of the next. -/
def Sys2Proof.Says.HodUnitEvents : Prop :=
  ∀ (s : State) (core i pa : Nat) (f : Xfer), HodTables s core → (s.hod core).slot i = some f → f.q < 17 → f.phase = .moving → f.cmd.op = 0 →
    f.walk = none → f.flag = none → f.decq = [] → f.idxDue = none →
    let img := f.cmd.image.getD 0
    let src := (recSrc img + f.off) % 2 ^ 64
    let dst := (recDst img + f.off) % 2 ^ 64
    let n := min (recLen img - f.off) (min (256 - src % 256) (256 - dst % 256))
    let done := s.clk + latencyL core 1 ((spanPieces 32 (n + 1) pa 0 n).map fun p => (0, granOf p.1))
    let slot (t : State) : Option Xfer := (t.hod core).slot i
    let agent := hodAgent core f.q f.cmd.seq
    (f.stop = false → f.skip = false → f.buf = [] → (s.hod core).held < 64 → f.elem = 0 → f.off < recLen img → src < 2 ^ 32 →
      s.hodXlate core f.q f.cmd src needR = .ok pa →
      (UnitFree s core pa n true → Answers (.hodUnitRead core i) s fun t => t = { reached s t with hods := t.hods } ∧ t.mem = s.mem ∧
        (∃ fl, t.flights = s.flights ++ [fl] ∧ fl.key = hodKey core i ∧ fl.dst = .hod f.nextId ∧
          UnitSent fl agent (.load false) pa n fun _ _ => True) ∧
        ∃ g, slot t = some g ∧ g.buf = [{ dst := dst, len := n, data := 0, psn := 0, id := f.nextId, t := s.clk, stage := .due done }] ∧
          g.nextId = f.nextId + 1 ∧ g.status = f.status ∧ (if f.off + n = recLen img then g.elem = 1 else g.elem = 0 ∧ g.off = f.off + n)) ∧
      (s.hodMay core = true → ¬ UnitFree s core pa n true → Answers (.hodUnitRead core i) s fun t =>
        t = { s with hods := t.hods } ∧ slot t = some f ∧ (t.hod core).tried = s.clk + 1)) ∧
    (∀ (u : BufUnit) (due : Nat) (fl : Flight), f.stop = true → f.buf = [u] → u.stage = .due due → due ≤ s.clk → u.space = 0 → f.sbar = none →
      s.barHeld f.cmd 67 = false → s.flights = [fl] → fl.key = hodKey core i → fl.dst = .hod u.id → Answers (.hodUnitRead core i) s fun t =>
        t = { s with hods := t.hods, flights := [] } ∧ ∃ g, slot t = some g ∧
          g.buf = [{ u with data := fl.unitGot.1, psn := fl.unitGot.2.1, st := fl.unitGot.2.2, stage := .held }] ∧
          g.status = worse f.status fl.unitGot.2.2 ∧ g.outDec = f.outDec + u.len) ∧
    (∀ u rest, f.buf = u :: rest → (∀ v ∈ f.buf, v.stage = .held) → u.dst < 2 ^ 32 → u.psn = 0 → u.data < 2 ^ (8 * u.len) → 0 < u.len → u.len ≤ 256 →
      s.hodXlate core f.q f.cmd u.dst needW = .ok pa → UnitFree s core pa u.len false →
      Answers (.hodUnitWrite core i) s fun t => t = { reached s t with hods := t.hods } ∧ t.mem = { s.mem with plain := t.mem.plain } ∧
        ∃ fl last, t.flights = s.flights ++ [fl] ∧ fl.key = hodKey core i ∧ fl.dst = .none ∧ (∀ a ∈ fl.accs, a.slot ≤ last) ∧
          UnitSent fl agent .store pa u.len (fun p x => p.psn = false ∧
            p.x / 2 ^ (8 * (x - p.lane)) % 256 = u.data / 2 ^ (8 * x) % 256) ∧
          ∃ g, slot t = some g ∧ g.buf = rest ∧ g.bytes = f.bytes + u.len ∧ g.decq = [(last + 17, u.len)] ∧ g.status = f.status)

/-- 03 R81, R82: what a unit's accesses have found, one for each bank word in turn, is its bytes, poisoned where its bank words are. -/
def Sys2Proof.Says.UnitBytes : Prop :=
  ∀ (fl : Flight) (m : Memory) (pa n : Nat), n ≤ 256 →
    (fl.accs.flatMap (·.parts) = (spanPieces 32 (n + 1) pa 0 n).map fun p =>
      { lane := p.2.1, pa := p.1, n := p.2.2, got := memRead m p.1 p.2.2 }) → fl.unitGot = (memRead m pa n, 0, 0)

/-- 01 R32; 03 R81, R86; 11 R292, R299; 03 R89: a walk begins at the root, where the directory cache holds nothing of its context; an entry
that arrives leads to the next table, ends the walk with its page, which no cache takes after a shootdown (R33), or fails it; the end of an eviction's wait; a command whose
transfer is over completes in queue order, and its completion is counted and logged; a repair leaves its slot likewise. -/
def Sys2Proof.Says.HodCompletionEvents : Prop :=
  ∀ (s : State) (core i : Nat) (f : Xfer), HodTables s core → (s.hod core).slot i = some f →
    let q := (s.hod core).queue f.q
    let slot (t : State) : Option Xfer := (t.hod core).slot i
    let completes (t : State) : Prop := slot t = none ∧ ((t.hod core).queue f.q).cseq = (q.cseq + 1) % 2 ^ 18 ∧
      ((t.hod core).queue f.q).log = (⟨f.cmd.seq, f.status, f.bytes⟩ :: q.log).take 16 ∧
      ((t.hod core).queue f.q).cmds = q.cmds ∧ ∀ j, j ≠ i → (t.hod core).slot j = (s.hod core).slot j
    (∀ w, f.walk = some w →
      let walks (t : State) (w' : Walk) : Prop := t = { s with hods := t.hods, dirCaches := t.dirCaches } ∧ slot t = some { f with walk := some w' }
      (w.stage = .held → w.level = 0 → s.walkerBusy (walkerOf core) = false → (∀ e ∈ sget [] s.dirCaches (walkerOf core), e.ctx ≠ f.cmd.ctx) →
        Answers (.pageWalk core i) s fun t => walks t { w with level := 1, table := (s.ctx f.cmd.ctx).ptroot }) ∧
      (∀ due, w.stage = .due due → s.clk < due → exec (.pageWalk core i) s = .next s) ∧
      (∀ due, w.stage = .due due → due ≤ s.clk →
        (pteFails w.level w.data w.st = none → w.level < 4 → Answers (.pageWalk core i) s fun t =>
          let next := w.data / 2 ^ 11 % 2 ^ 28
          walks t { w with level := w.level + 1, table := next, got := w.got ++ [(w.level, next)], stage := .held }) ∧
        (pteFails w.level w.data w.st = none → 4 ≤ w.level → pteAllows w.data (if w.dest = true then needW else needR) = true →
          Answers (.pageWalk core i) s fun t => t = { s with hods := t.hods, dirCaches := t.dirCaches } ∧
            (∃ g, slot t = some g ∧ g.walk = none ∧ (if w.dest = true then g.dpg else g.spg) = some (w.page, w.data)) ∧
            (w.old = false → (t.hod core).tc.head? = some ⟨f.cmd.ctx, w.page, w.data⟩) ∧
            (w.old = true → t.dirCaches = s.dirCaches ∧ (t.hod core).tc = (s.hod core).tc)) ∧
        (∀ k, pteFails w.level w.data w.st = some k → f.flag = none → f.cmd.op ≠ 9 → Answers (.pageWalk core i) s fun t =>
          t = { s with hods := t.hods, flights := t.flights } ∧
            ∃ g, slot t = some g ∧ g.walk = none ∧ g.stop = true ∧
            g.status = worse f.status (if w.dest = true then k else s.pieceStatus core f k)))) ∧
    (f.phase = .evict → f.wait ≤ s.clk → s.backingHeld f = false → Answers (.evictWaitEnd core i) s fun t => t.mem.bytes = s.mem.bytes ∧
      (t.hod core).ctr.evicted = satAdd (s.hod core).ctr.evicted 1 32 ∧ ∃ g, slot t = some g ∧
        g.phase = if bitN (f.cmd.image.getD 0) 351 then .moving else .begin) ∧
    (f.q < 17 → f.moved = true → f.wait ≤ s.clk → f.phase ≠ .begin → f.flag = none → f.decq = [] → q.cseq = f.cmd.seq →
      (f.cmd.op = 9 → f.phase = .ended) → s.startHeld f.cmd = false → Answers (.hodCommandComplete core i) s completes) ∧
    (f.q = 17 → f.moved = true → f.wait ≤ s.clk → f.phase ≠ .begin → Answers (.repairComplete core i) s completes)

/-- The events of a Hod, from the start of a command to its completion. -/
def Obligations.HodEvents : Prop := HodStartEvents ∧ HodUnitEvents ∧ UnitBytes ∧ HodCompletionEvents

/-! ### LPDDR 6 -/

/-- 03 R74, R75, R91: refresh. A slot falls due every 256 clk, or 128 at the doubled rate, joins the list or, with eight on it, forces
an all-bank refresh; the oldest slot's refresh takes an idle bank with nothing queued for 144 clk, one a clk; the forced refresh takes
all banks for 288 clk and clears the list; the rate follows the devices' indication once a millisecond. No slot falls due in a wipe. -/
def Sys2Proof.Says.RefreshEvents : Prop :=
  ∀ (s : State) (q : Nat), swf {} s.lp.sub = true →
    let c := s.lp.subOf q
    let due := s.lp.epoch + if c.twice then 128 * c.nslot + 2 * q else 256 * c.nslot + 4 * q
    let with_ (c' : SubCh) : State := s.setLp { s.lp with sub := sput {} s.lp.sub q c' }
    let idle (b : Nat) : Prop := sget 0 c.busy b ≤ s.clk
    let quiet (b : Nat) : Prop := ∀ a ∈ sget [] c.accq b, s.clk < a.at_
    (s.clk < due ∨ s.life.wiping = true → exec (.refreshSlotDue q) s = .next s) ∧
    (s.life.wiping = false → due ≤ s.clk → c.list.length < 8 → exec (.refreshSlotDue q) s = .next (with_ { c with
      nslot := c.nslot + 1, list := c.list ++ [⟨c.nslot % 16, due, false⟩], debtMax := max c.debtMax (c.list.length + 1) })) ∧
    (s.life.wiping = false → due ≤ s.clk → 8 ≤ c.list.length → exec (.refreshSlotDue q) s = .next (with_ { c with
      nslot := c.nslot + 1, forced := true, forcedAt := s.clk })) ∧
    (∀ r rest, c.list = r :: rest → c.forced = false → c.refreshed s.clk = false → idle r.bank → quiet r.bank →
      Answers (.perBankRefresh q) s fun t => t = s.setLp t.lp ∧ t.lp.bytes = s.lp.bytes ∧ (t.lp.subOf q).list = rest ∧
        (t.lp.subOf q).refpb = satAdd c.refpb 1 32 ∧ (swf 0 c.busy = true → sget 0 (t.lp.subOf q).busy r.bank = s.clk + 144)) ∧
    (c.refreshed s.clk = true → exec (.perBankRefresh q) s = .next s) ∧
    (c.forced = true → (∀ b, b < 16 → idle b) → Answers (.allBankRefresh q) s fun t => t = s.setLp t.lp ∧ t.lp.bytes = s.lp.bytes ∧
      (t.lp.subOf q).list = [] ∧ (t.lp.subOf q).forced = false ∧ (t.lp.subOf q).refab = satAdd c.refab 1 32 ∧
      ∀ b, b < 16 → sget 0 (t.lp.subOf q).busy b = s.clk + 288) ∧
    (∀ r, (s.clk < c.pollAt → exec (.refreshRatePoll q r) s = .next s) ∧
      (s.life.wiping = false → c.pollAt ≤ s.clk → Answers (.refreshRatePoll q r) s fun t => t = s.setLp t.lp ∧ t.lp.bytes = s.lp.bytes ∧
        (t.lp.subOf q).twice = decide (r ≠ 0) ∧ (t.lp.subOf q).pollAt = s.clk + 1050000 ∧
        (c.twice = decide (r ≠ 0) → (t.lp.subOf q).nslot = c.nslot)))

/-- 03 R70-R73, R91; 02 R43: an idle bank starts its oldest arrived access, whose data are ready 48 clk later at the earliest; a write takes
effect when its controller accepts it; a scrub checks its burst, and the patrol its granule, and neither changes a byte. -/
def Sys2Proof.Says.AccessAndScrubEvents : Prop :=
  ∀ (s : State) (q : Nat), swf {} s.lp.sub = true →
    let c := s.lp.subOf q
    let idle (b : Nat) : Prop := sget 0 c.busy b ≤ s.clk
    (∀ b a rest, sget [] c.accq b = a :: rest → (s.clk < a.at_ ∨ ¬ idle b ∨ c.forced = true) → exec (.lpddrAccessStart q b) s = .next s) ∧
    (∀ b a rest, sget [] c.accq b = a :: rest → c.forced = false → idle b → a.at_ ≤ s.clk → swf [] c.accq = true → swf 0 c.busy = true →
      Answers (.lpddrAccessStart q b) s fun t => t.lp.bytes = s.lp.bytes ∧ t.mem = s.mem ∧ s.clk + 56 ≤ sget 0 (t.lp.subOf q).busy b ∧
        sget [] (t.lp.subOf q).accq b = rest ∧
        (∀ core i n f u, a.write = false → a.who = .unit core i n → swf {} s.hods = true → swf none (s.hod core).slots = true →
          (s.hod core).slot i = some f → f.buf = [u] → u.id = n → 0 < a.len →
          (∀ x, a.pa / 32 ≤ x → x ≤ (a.pa + a.len - 1) / 32 → sget false s.lp.psn x = false ∧ sget false s.lp.ueLat x = false) →
          ∃ r, s.clk + 48 ≤ r ∧ (t.hod core).slot i = some { f with
            buf := [{ u with data := memRead s.lp.bytes a.pa a.len, psn := 0, st := 0, stage := .ready r }] })) ∧
    (∀ (lp : Lpddr) (w : LpWrite) (clk : Nat), lp.inbox = [w] → Memory.wf lp.bytes = true → w.data < 2 ^ (8 * w.len) →
      (clk < w.at_ → lp.accept clk = lp) ∧
      (w.at_ ≤ clk → (lp.accept clk).inbox = [] ∧ memRead (lp.accept clk).bytes w.pa w.len = w.data ∧
        ∀ x, x < w.pa ∨ w.pa + w.len ≤ x → memByte (lp.accept clk).bytes x = memByte lp.bytes x)) ∧
    (∀ a, lpPresent a = true → lpSub a = q → s.life.wiping = false → c.forced = false → idle (lpBank a) →
      (∀ x ∈ sget [] c.accq (lpBank a), s.clk < x.at_) → Answers (.lpddrScrub a) s fun t => t = s.setLp t.lp ∧ t.lp.bytes = s.lp.bytes ∧
        (swf false s.lp.ceLat = true → sget false t.lp.ceLat (a / 32) = false) ∧
        (a / 32 * 32 = scrubBurst q c.scrubbed → (t.lp.subOf q).scrubbed = c.scrubbed + 1)) ∧
    (∀ a, a < 192 * 2 ^ 24 → s.life.wiping = false → s.bankHeld (granOf a) = false → Answers (.patrolScrub a) s fun t => t = s.setMem t.mem ∧
      t.mem.bytes = s.mem.bytes ∧ (swf false s.mem.ceLat = true → sget false t.mem.ceLat (granOf a) = false))

/-- 03 R70-R75, R91; 02 R43: the LPDDR 6 controllers, and the scrubbers. -/
def Obligations.AssetMemoryEvents : Prop := RefreshEvents ∧ AccessAndScrubEvents

/-! ### Time, the host and the platform -/

/-- 14 R363, R365: every mesh clk adds `INC` units of 2^-32 ns; a step adds `SNS` ns and `SFRAC`; a write of `INC` changes it alone, both when no
host write to SRAM is under way (04 R122); a PPS edge is captured while `PPSEN` is set; `REFLK` follows the reference, its loss is journalled. -/
def Obligations.TimebaseEvents : Prop :=
  ∀ (s : State) (x n : Nat),
    let t := s.tbase
    let units (u : Timebase) : Nat := ((u.sec * 10 ^ 9 + u.ns) * 65536 + u.frac) * 65536 + u.acc
    (t.ns < 10 ^ 9 → t.frac < 65536 → t.acc < 65536 → units t + t.inc * n < 2 ^ 48 * (10 ^ 9 * 2 ^ 32) →
      units (t.tick n) = units t + t.inc * n ∧ (t.tick n).inc = t.inc ∧ (t.tick n).ns < 10 ^ 9) ∧
    (∀ now : Nat, s.hostBusy = false → (now : Int) = t.now + sextN t.sns 64 * 65536 + (t.sfrac : Int) → now < 2 ^ 48 * (10 ^ 9 * 65536) →
      Answers .tbStep s fun u => u = { s with tbase := u.tbase } ∧ u.tbase.now = now ∧ u.tbase.acc = t.acc ∧ u.tbase.inc = t.inc) ∧
    (s.hostBusy = false → t.now + sextN t.sns 64 * 65536 + (t.sfrac : Int) < 0 → Answers .tbStep s fun u => u = { s with tbase := u.tbase } ∧ u.tbase.now = 0) ∧
    (s.hostBusy = false → exec (.tbIncWrite x) s = .next { s with tbase := { t with inc := x % 2 ^ 40 } }) ∧
    (t.ppsen = true → exec .ppsCapture s = .next { s with tbase := { t with
      capSec := t.sec, capNs := t.ns, capFrac := t.frac, capv := true } }) ∧
    (t.ppsen = false → exec .ppsCapture s = .next s) ∧
    (t.refen = true → exec .refLockGained s = .next { s with tbase := { t with reflk := true } }) ∧
    (t.reflk = true → Answers .refLockLoss s fun u => u.tbase = { t with reflk := false } ∧
      u = { s with tbase := u.tbase, ptr := u.ptr } ∧ u.ptr.jmade = (s.ptr.jmade + 1) % 2 ^ 64)

/-- 01 R38; 18 R456; 01 R29; 02 R56, R66; 04 R121-R123: what the host does through the SRAM aperture. Reads and writes are on their way to
the bank slots that their stop reserves, none before that of an earlier write of the same half; a read is answered with what it
found there, of a poisoned granule zeros with the poison indication; a protected block gives zeros, takes nothing, and counts; during a
wipe, and beyond the slices that exist, an error completion is all there is. -/
def Sys2Proof.Says.HostApertureAccess : Prop :=
  ∀ (s : State) (a n x : Nat), 0 < n → a % 32 + n ≤ 32 → a < 2 ^ 32 → s.hostRds = [] →
    let stop := hostStopAt a
    let kept (t : State) : Prop := t.mem = { s.mem with ctr := t.mem.ctr } ∧ t.flights = s.flights ∧ (swf {} s.mem.ctr = true →
      (t.mem.ctrOf (a / 2 ^ 24)).prot = satAdd (s.mem.ctrOf (a / 2 ^ 24)).prot 1 32)
    let sent (t : State) (fl : Flight) (slot : Nat) : Prop := t.flights = s.flights ++ [fl] ∧ fl.key = hostKey stop ∧
      s.clk < slot ∧ sget 0 s.hostSlot stop ≤ slot ∧ ∀ y ∈ fl.accs, y.slot = slot
    (s.life.wiping = true ∨ 192 * 2 ^ 24 < a + n → exec (.hostApertureRead a n) s = .next { s with hostErr := true } ∧
      exec (.hostApertureWrite a n x 0) s = .next { s with hostErr := true }) ∧
    (s.life.wiping = false → a + n ≤ 192 * 2 ^ 24 →
      (s.mem.protAt a = false →
        Answers (.hostApertureRead a n) s (fun t =>
          t = { reached s t with hostErr := false, hostRds := t.hostRds, hostSeq := s.hostSeq + 1 } ∧ t.mem = s.mem ∧
          ∃ fl slot due, sent t fl slot ∧ slot < due ∧ fl.dst = .hod s.hostSeq ∧ t.hostRds = [⟨due, none, [(stop, s.hostSeq, 0)]⟩] ∧
            UnitSent fl (hostAgent stop) (.load true) a n fun _ _ => True) ∧
        Answers (.hostApertureWrite a n x 0) s fun t =>
          t = { reached s t with hostErr := false, hostQ := t.hostQ, hostGap := t.hostGap, hostSlot := t.hostSlot } ∧
          t.mem = { s.mem with plain := t.mem.plain } ∧ ∃ fl slot, sent t fl slot ∧ fl.dst = .none ∧
            t.hostQ = s.hostQ ++ [⟨s.clk, slot⟩] ∧ slot + 17 ≤ t.hostGap ∧ (swf 0 s.hostSlot = true → sget 0 t.hostSlot stop = slot + 1) ∧
            UnitSent fl (hostAgent stop) .store a n fun p y => p.psn = false ∧ p.x / 2 ^ (8 * (y - p.lane)) % 256 = x / 2 ^ (8 * y) % 256) ∧
      (s.mem.protAt a = true →
        Answers (.hostApertureRead a n) s (fun t => t.hostData = 0 ∧ t.hostPsn = false ∧ kept t) ∧ Answers (.hostApertureWrite a n x 0) s kept)) ∧
    (∀ (fl : Flight) (due k id : Nat), due ≤ s.clk → s.flights = [fl] → fl.key = hostKey k → fl.dst = .hod id →
      let w : State := { s with hostRds := [⟨due, none, [(k, id, 0)]⟩] }
      (fl.unitGot.2.1 = 0 →
        w.hostAnswers = { s with flights := [], hostRds := [], hostData := fl.unitGot.1 % 2 ^ 2048, hostPsn := false }) ∧
      (fl.unitGot.2.1 ≠ 0 → w.hostAnswers.hostPsn = true))

/-- 18 R457; 15 R393, R402; 04 R121, R122; 00 R6: what the host does through the control aperture. A read waits for the writes that its stop
took before it, a write for all host writes to SRAM that have not taken effect. One to an offset that is not listed changes nothing, a pipeline's counters read back as written, a queue's
`TICKETS` takes any value but 0, which decides from the next mesh clk on; 14 R364: a write of the word that holds `SNS` steps the timebase; R458: a 1 in `FWGO` starts
verification. -/
def Sys2Proof.Says.ControlApertureAccess : Prop :=
  ∀ (s : State) (a x : Nat),
    (s.hostRds = [] → (sget 0 s.hostSlot 16 ≤ s.clk → exec (.hostApertureRead (2 ^ 32 + a) 8) s =
        .next { s with hostData := s.ctlRead a, hostPsn := false, hostErr := false }) ∧
      (s.clk < sget 0 s.hostSlot 16 → exec (.hostApertureRead (2 ^ 32 + a) 8) s =
        .next { s with hostErr := false, hostRds := [⟨sget 0 s.hostSlot 16, some a, []⟩] })) ∧
    (s.hostQ ≠ [] ∨ s.clk < s.hostGap ∨ s.ctlQ ≠ [] → ∀ i ∈ [Instr.registerWrite a x, .ticketsWrite a x, .fwgo, .tbStep, .tbIncWrite x],
      exec i s = .next { s with ctlQ := s.ctlQ ++ [i] }) ∧
    (s.hostQ = [] → s.hostGap ≤ s.clk → s.ctlQ = [] →
      ((a % 8 ≠ 0 ∨ ctlBlock a = none ∨ a < 0x1000) → exec (.registerWrite a x) s = .next s) ∧
      (∀ p off, a % 8 = 0 → ctlBlock a = some (.pipe p, off) → swf {} s.pipes = true →
        Answers (.registerWrite a x) s fun t => t.ctlRead a = x % 2 ^ 64 ∧ t = { s with pipes := t.pipes }) ∧
      (∀ q, q < 64 → (x % 1024 ≠ 0 → ∃ u : HwQueue, exec (.ticketsWrite q x) s = .next (s.setQueue q u) ∧
          u = { s.queue q with tickets := x % 1024, ticketsWas := u.ticketsWas } ∧
          u.ticketsNow s.clk = (s.queue q).ticketsNow s.clk ∧ ∀ d, s.clk < d → u.ticketsNow d = x % 1024) ∧
        (x % 1024 = 0 → exec (.ticketsWrite q x) s = .next s)) ∧
      (s.tbase.inc < 2 ^ 40 →
        exec (.registerWrite 0x11a028 x) s = .next { s with tbase := Timebase.step { s.tbase with sns := x % 2 ^ 64 } }) ∧
      (x / 2 ^ 26 % 2 = 1 → s.life.lcs = 0 → s.life.wiping = false →
        Answers (.registerWrite 0x1020 x) s fun t => t.life.lcs = 1 ∧ t.life.wiping = true ∧ t.mem.bytes = []))

/-- 18 R470: the journal's next record is written in three steps, 17 mesh clk from one to the next: its `SEQ` all ones, bytes 0 to 55, and
`SEQ`, with which `JWSEQ` counts it. No byte outside what a step writes changes. -/
def Sys2Proof.Says.RecordsAreWritten : Prop :=
  ∀ (s : State) (rest : List Act) (r : LogRec), s.agenda = .tick 1 :: rest → s.ptr.jq = [r] → r.on = true → s.ptr.fq = [] →
    s.ptr.jAt ≤ s.clk → s.flights = [] → s.slotsHeld = [] → s.hostQ = [] → s.ctlQ = [] → Memory.wf s.mem.bytes = true →
    let a := s.ptr.jbase * 65536 + 64 * (s.ptr.jwseq % 2 ^ (s.ptr.jlog2 + 10))
    a + 64 ≤ 192 * 2 ^ 24 → r.image < 2 ^ 512 → ∃ t, step s = .next t ∧ t.clk = s.clk + 1 ∧ t.ptr.jAt = s.clk + 17 ∧
      (r.step = 0 → t.ptr.jq = [{ r with step := 1 }] ∧ t.ptr.jwseq = s.ptr.jwseq ∧ memRead t.mem.bytes (a + 56) 8 = 2 ^ 64 - 1 ∧
        OutsideKept s t (a + 56) 8) ∧
      (r.step = 1 → t.ptr.jq = [{ r with step := 2 }] ∧ t.ptr.jwseq = s.ptr.jwseq ∧ memRead t.mem.bytes a 56 = r.image % 2 ^ 448 ∧
        OutsideKept s t a 56) ∧
      (r.step = 2 → t.ptr.jq = [] ∧ t.ptr.jwseq = (s.ptr.jwseq + 1) % 2 ^ 64 ∧ memRead t.mem.bytes (a + 56) 8 = r.image / 2 ^ 448 ∧
        OutsideKept s t (a + 56) 8)

/-- 01 R38; 04 R122, R123; 14 R364; 18 R456, R457, R470: the host's apertures, and the records that the device writes for it. -/
def Obligations.HostAccessEvents : Prop := HostApertureAccess ∧ ControlApertureAccess ∧ RecordsAreWritten

/-- 17 R447, R448, R453-R455; 18 R462, R465, R466; 02 R66; 03 R93: rails change with an issue pause of 17 mesh clk; forcing ends a second
after its cause; a plausible sample becomes its sensor's value and an implausible one makes it suspect; a margin search goes on
by 5 mV a step; power-up, the wipe, `FWGO` and the end of verification move the life cycle. -/
def Sys2Proof.Says.PlatformChanges : Prop :=
  ∀ (s : State) (cl se x r : Nat), cl < 48 → swf {} s.clusters = true →
    let c := s.cluster cl
    let switched (r : Nat) : State := s.updCluster cl fun c => { c with rail := r, swit := satAdd c.swit 1 32, pause := s.clk + 17 }
    (s.wantRail cl = r → c.rail ≠ r → exec (.railSwitch cl r) s = .next (switched r)) ∧
    (s.wantRail cl ≠ r ∨ c.rail = r → exec (.railSwitch cl r) s = .next s) ∧
    (c.railm = 2 → c.rail = 0 → s.wantRail cl = 1 → c.forced = false → exec (.lowRailIdle cl) s = .next (switched 1)) ∧
    (c.susp < 3 → c.calm + 1050000000 ≤ s.clk → c.hot = false → c.calmT + 1050000000 ≤ s.clk →
      exec (.forceClear cl) s = .next (s.updCluster cl fun c => { c with flow := false, tlow := false })) ∧
    (se < 4 → swf {} c.sensors = true → (s.sensor cl se).suspect = false → s.goodNeighbours (sensorCore cl se) = [] →
      (-40000 ≤ sextN x 32 → sextN x 32 ≤ 150000 → (∀ v, (s.sensor cl se).last = some v → v - 1000 ≤ sextN x 32 ∧ sextN x 32 ≤ v + 1000) →
        Answers (.sensorSample cl se x) s fun t => (t.sensor cl se).last = some (sextN x 32) ∧ (t.sensor cl se).value = sextN x 32 ∧
          (t.sensor cl se).suspect = false) ∧
      (150000 < sextN x 32 → Answers (.sensorSample cl se x) s fun t => (t.sensor cl se).suspect = true ∧
        s.ptr.jq.length < t.ptr.jq.length ∧ (t.sensor cl se).value = 110000)) ∧
    (∀ m : Margin, sget none s.margins c.rail = some m → m.isOver = false → swf none s.margins = true →
      let now (t : State) : Option Margin := sget none t.margins c.rail
      (s.clk < m.since + 1050000 → x < 2 ^ 16 → exec (.marginStep cl x) s = .next s) ∧
      (m.since + 1050000 ≤ s.clk → x ≤ 4 → m.mv < 60 → Answers (.marginStep cl x) s fun t =>
        t = { s with margins := t.margins } ∧ now t = some { m with safe := m.mv, mv := m.mv + 5, since := s.clk }) ∧
      (m.since + 1050000 ≤ s.clk → 4 < x → x < 2 ^ 16 → Answers (.marginStep cl x) s fun t =>
        now t = some { m with mv := m.safe, isOver := true })) ∧
    (∀ po, po ≤ 3 → swf {} s.dps = true → Answers (.dpHotplug po x) s fun t => (sget {} t.dps po).plugged = decide (x ≠ 0) ∧
      t.ptr.jmade = (s.ptr.jmade + 1) % 2 ^ 64 ∧ t = { s with dps := t.dps, mem := t.mem, ptr := t.ptr }) ∧
    exec .powerUp s = .next { State.reset with agenda := s.agenda, fresh := s.fresh } ∧
    (s.life.wiping = true → (s.clk < s.life.wipeAt + 8192 → exec .wipeComplete s = .next s) ∧
      (s.life.wipeAt + 8192 ≤ s.clk → exec .wipeComplete s =
        .next { s with life := { s.life with wiping := false }, lp := { s.lp with epoch := s.clk } })) ∧
    (let wiped (t : State) : Prop := t.life.wiping = true ∧ t.life.wipeAt = s.clk ∧ t.mem = { ctr := t.mem.ctr } ∧
        (∀ n, n < 192 → (t.mem.ctrOf n).idle s.clk = 0) ∧ t.lp = {} ∧ t.ctxs = [] ∧ t.warps = [] ∧ t.launches = [] ∧
        t.hods = [] ∧ t.pipes = [] ∧ t.queues = [] ∧ t.clk = s.clk ∧ t.tbase = s.tbase;
      s.life.wiping = false →
        (s.life.lcs = 0 → s.hostBusy = false → Answers .fwgo s fun t => t.life.lcs = 1 ∧ wiped t) ∧
        (s.life.lcs = 1 → Answers .fwVerifyDone s fun t => wiped t ∧ t.life.fwstat = s.life.verdict ∧
          t.life.lcs = if s.life.verdict = 1 then 2 else 4))

/-! ### Fabric -/

/-- 11 R301-R306; 01 R35; 18 R473: reductions and the fabric. A head command with a malformed record completes with status 16, one with a
member to which no route leads with 10; a member's contribution is held for its chunk, differs from this member's record, is refused by
its window or makes the unposted chunks replay; a member that stops answering ends the reduction with 17, once the chunks written are
posted; with every contribution there, the result of a chunk is written, and 17 clk later posted at its semaphore; a peer's write through an
export reaches this device's memory, its read returns what is there, and its reduction combines each word; a port that goes down moves its routes to
their alternates, and each change of a port is journalled. -/
def Sys2Proof.Says.FabricChanges : Prop :=
  ∀ (s : State) (core k mem po : Nat) (c : FabCmd) (rest : List FabCmd), swf {} s.fabs = true → (s.fabQ core).cmds = c :: rest →
    let q := s.fabQ core
    let ends (st : Nat) (t : State) : Prop := (t.fabQ core).cmds = rest ∧ (t.fabQ core).cseq = (q.cseq + 1) % 2 ^ 18 ∧
      (t.fabQ core).log = ((c.seq, st, c.posted.length, c.replays) :: q.log).take 16
    let ended (st : Nat) (t : State) : Prop :=
      if c.wrote = [] then ends (worse c.status st) t else (t.fabQ core).cmds = { c with fin := worse c.fin st } :: rest
    (∀ pa, c.started = false → c.ready ≤ s.clk → (∀ tk, c.team = some tk → s.forkFree tk c.warp c.issued = true) → c.early = 0 →
      spaceOf c.recAddr ≤ 1 → s.hodXlate core 0 { op := 0, ctx := c.ctx, team := c.team, pad := c.pad } c.recAddr needR = .ok pa → Sound s pa 64 →
      let x := memRead s.mem.bytes pa 64
      (fabMalformed c.tree x = true → Answers (.reductionCommandStart core) s (ends 16)) ∧
      (∀ pg pt, let gt := x / 2 ^ 289 % 2 ^ 26 * 64
        (s.ctx c.ctx).xlateS gt needR = .ok pg → Sound s pg 64 →
        let h := memRead s.mem.bytes pg 64
        let n := h % 2 ^ 16
        let rank := h / 2 ^ 16 % 2 ^ 16
        let ms := (List.range n).map fun j => memRead s.mem.bytes (pt + 2 * j) 2
        let within (va : Nat) : Prop := spaceOf va = 0 ∨ spaceOf va = 2
        fabMalformed c.tree x = false → h < 2 ^ 64 → 0 < n → n ≤ 8192 → rank < n →
        (∀ i, i < (2 * n + 31) / 32 → (s.ctx c.ctx).xlateS (gt + 64 + 32 * i) needR = .ok (pt + 32 * i)) → Sound s pt (2 * n) →
        (∀ e ∈ ms, e < 2 ^ 13) → ms.getD rank 0 = s.fab.devid → h / 2 ^ 32 % 2 ^ 16 = (s.ctx c.ctx).group →
        within (recSrc x) → within (recDst x) →
        ((∃ e ∈ ms, s.fab.reach e = false) → Answers (.reductionCommandStart core) s (ends 10)) ∧
        ((∀ e ∈ ms, s.fab.reach e = true) → Answers (.reductionCommandStart core) s fun t => t.mem.bytes = s.mem.bytes ∧
          (t.fabQ core).cmds = { c with
            image := some x, nmemb := n, rank := rank, gen := h / 2 ^ 48, members := ms, started := true } :: rest))) ∧
    (c.started = true → k < c.chunks → mem < c.nmemb → mem ≠ c.rank → k ∉ c.posted → c.fin = 0 → (∀ r ∈ c.recv, ¬ (r.1 = k ∧ r.2.1 = mem)) →
      (s.xwinOk c = false → exec (.chunkMessage core k mem) s = .next s) ∧
      (s.xwinOk c = true → Answers (.chunkMessage core k mem) s fun t => t = { s with fabs := t.fabs, fresh := t.fresh, warps := t.warps, belay := t.belay } ∧
        (ended 17 t ∨ ended 11 t ∨ (t.fabQ core).cmds = { c with
            recv := [], wrote := [], replays := c.replays + (c.chunks - c.posted.length) } :: rest ∨
          ∃ psn data, (t.fabQ core).cmds = { c with recv := c.recv ++ [(k, mem, psn, data)] } :: rest))) ∧
    (c.started = true → mem < c.nmemb → mem ≠ c.rank → Answers (.memberStopsAnswering core mem) s (ended 17)) ∧
    (c.started = true → k < c.chunks → k ∉ c.posted →
      let stops (t : State) : Prop := ∃ st n, (t.fabQ core).log = ((c.seq, st, n, c.replays) :: q.log).take 16 ∧ (t.fabQ core).cmds = rest
      (c.fin = 0 → (∀ w ∈ c.wrote, w.1 ≠ k) → (∀ r, r < c.nmemb → r ≠ c.rank → ∃ y ∈ c.recv, y.1 = k ∧ y.2.1 = r) →
        Answers (.chunkComplete core k) s fun t => stops t ∨ ∃ st, (t.fabQ core).cmds = { c with
          wrote := c.wrote ++ [(k, s.clk + 17)], status := st, recv := c.recv.filter (fun r => r.1 != k) } :: rest) ∧
      (∀ due pa, c.wrote.find? (fun w => w.1 == k) = some (k, due) → (s.clk < due → exec (.chunkComplete core k) s = .next s) ∧
        (due ≤ s.clk → (s.ctx c.ctx).xlateS (c.image.getD 0 / 2 ^ 315 % 2 ^ 29 * 8 + 8 * k) needRWAT = .ok pa → Memory.wf s.mem.bytes = true →
          Sound s pa 8 → Answers (.chunkComplete core k) s fun t => (stops t ∨ (t.fabQ core).cmds = { c with
              posted := c.posted ++ [k], wrote := c.wrote.filter (fun w => w.1 != k) } :: rest ∧ c.posted.length + 1 ≠ c.chunks) ∧
            memRead t.mem.bytes pa 4 = (memRead s.mem.bytes pa 4 + 1) % 2 ^ 32 ∧ OutsideKept s t pa 4))) ∧
    (∀ (dev a n x e pa : Nat), 0 < n → a % 256 + n ≤ 256 → x < 2 ^ (8 * n) → Memory.wf s.mem.bytes = true → bitsN e 127 124 = 1 →
      s.life.wiping = false →
      let off := a % 2 ^ 35
      let group := dev / 2 ^ 13 % 2 ^ 16
      let answered (t : State) (x : Nat) : Prop :=
        t = { s with mem := t.mem, traffic := t.traffic, peerStat := 0, peerData := x, peerPsn := false }
      (s.fab.exportFor off n 1 group = none → exec (.peerRequest dev a (4 * n + 1) x) s =
        .next { s with peerStat := 11, peerData := 0, peerPsn := false }) ∧
      (s.fab.exportFor off n 1 group = some e → (s.exportPlace e off needW).1 = .ok (.sram pa) →
        Answers (.peerRequest dev a (4 * n + 1) x) s fun t => answered t 0 ∧ memRead t.mem.bytes pa n = x ∧ OutsideKept s t pa n) ∧
      (s.fab.exportFor off n 0 group = some e → (s.exportPlace e off needR).1 = .ok (.sram pa) → Sound s pa n →
        Answers (.peerRequest dev a (4 * n) x) s fun t => answered t (memRead s.mem.bytes pa n) ∧ t.mem.bytes = s.mem.bytes) ∧
      (s.fab.exportFor off n 2 group = some e → (s.exportPlace e off (16 + needW)).1 = .ok (.sram pa) → n % 4 = 0 → Sound s pa n →
        Answers (.peerRequest dev a (4 * n + 2) x) s fun t => answered t 0 ∧ OutsideKept s t pa n ∧
          ∀ j, j < n / 4 → memRead t.mem.bytes (pa + 4 * j) 4 =
            fabCombine (dev / 2 ^ 29 % 8) (memRead s.mem.bytes (pa + 4 * j) 4) (x / 2 ^ (32 * j) % 2 ^ 32))) ∧
    (po ≤ 11 → swf false s.fab.down = true →
      (sget false s.fab.down po = false → Answers (.portDown po) s fun t => sget false t.fab.down po = true ∧
        t.ptr.jmade = (s.ptr.jmade + 1) % 2 ^ 64 ∧ (swf 0 s.fab.routes = true → ∀ d, let e := sget 0 s.fab.routes d
          let alt := e / 2 ^ 7 % 16
          sget 0 t.fab.routes d = if e / 2 ^ 15 % 2 = 1 ∧ e / 2 ^ 11 % 16 = po then
            (if e / 2 ^ 6 % 2 = 1 then 2 ^ 15 + alt * 2 ^ 11 + alt * 2 ^ 7 else 0) else e)) ∧
      (sget false s.fab.down po = true → Answers (.portUp po) s fun t => sget false t.fab.down po = false ∧
        t.ptr.jmade = (s.ptr.jmade + 1) % 2 ^ 64 ∧ t.fab.routes = s.fab.routes))

/-- 01, 11, 17, 18: the events of the platform and of the fabric. -/
def Obligations.PlatformAndFabricEvents : Prop := PlatformChanges ∧ FabricChanges

/-! ### Launches, teams and graphs -/

/-- 15 R393-R397, R403; 06 R155, R173; 16 R435; 18 R460: control stop 20 reads a queue's head record; when it has come it is numbered and
journalled as accepted, or as malformed; the distributor decides once a clk and places released work that fits; a placed team asks for its
scratchpad's zeros and, when they have been written, starts: its scratchpad reads zero and its warps are resident with their deadline; a
launch with nothing left is journalled complete, or failed. -/
def Sys2Proof.Says.LaunchEvents : Prop :=
  ∀ (s : State) (q lid tk core : Nat), swf {} s.queues = true → swf none s.launches = true → swf none s.teams = true →
    let h := s.queue q
    (∀ pa, s.arb.accAt ≤ s.clk → s.nextQueue = some q → s.ctxPa h.ctx h.entry needR = some pa → Answers (.launchAccept q) s fun t =>
      t.queue q = { h with readDue := (t.queue q).readDue } ∧ (∃ d, (t.queue q).readDue = some d ∧ s.clk < d) ∧ t.arb.lastQ = q ∧
        t.arb.accAt = s.clk + 1 ∧ t.launchCtr = s.launchCtr ∧ t.launches = s.launches ∧ t.mem = s.mem ∧ ∃ fl, t.flights = s.flights ++ [fl] ∧
        fl.key = entryKey q ∧ UnitSent fl deviceAgent (.load false) pa 64 fun _ _ => True) ∧
    (∀ d, h.readDue = some d → s.clk < d → exec (.launchAccept q) s = .next s) ∧
    (∀ d fl, h.readDue = some d → d ≤ s.clk → s.flights.find? (fun f => f.key == entryKey q) = some fl →
      let x := fl.unitGot.1
      let taken (t : State) : Prop := t.queue q = { h with head := (h.head + 1) % 2 ^ 32, readDue := none } ∧
        t.launchCtr = s.launchCtr + 1
      let recorded (t : State) (st : Nat) : Prop := t.ptr = (s.journal q s.launchCtr h.head st h.ctx 0).ptr
      (fl.unitGot.2.1 ≠ 0 ∨ launchMalformed x true = true ∨ (h.ctx = 0 ∧ s.plumbFull x = false) →
        Answers (.launchAccept q) s fun t => taken t ∧ t.launches = s.launches ∧ recorded t 2) ∧
      (fl.unitGot.2.1 = 0 → launchMalformed x true = false → h.ctx ≠ 0 → lrKind x = 0 ∨ lrKind x = 3 →
        Answers (.launchAccept q) s fun t => taken t ∧ recorded t 1 ∧ t.launch s.launchCtr = some {
          queue := q, ctx := h.ctx, pos := h.head, recAddr := h.entry, image := x, kind := lrKind x, src := q })) ∧
    (s.clk < s.arb.decAt → exec .distributorDecision s = .next s) ∧
    (∀ tm, s.arb.decAt ≤ s.clk → s.chainQ = [.team tk] → s.binQ = [] → s.team tk = some tm → tm.status = .waiting →
      s.bestCore tm = some core → Answers .distributorDecision s fun t => t.arb.decAt = s.clk + 1 ∧ t.chainQ = [] ∧
        ∃ tm', t.team tk = some tm' ∧ tm'.status = .placed ∧ tm'.core = core ∧ tm'.launch = tm.launch ∧ tm'.kpc = tm.kpc) ∧
    (∀ tm w key, s.team tk = some tm → tm.status = .placed → tm.restoring = false → tm.pair = false → tm.tcb = none → tm.deadlineAt = none →
      tm.keys = [key] → s.warp key = some w → swf none s.warps = true → Memory.wf s.mem.bytes = true →
      let base := tm.core * 2 ^ 24 + tm.base0
      (tm.scratch ≠ 0 → tm.asked = false → swf [] s.traffic = true → Answers (.teamStart tk) s fun t =>
        t = { s with teams := t.teams, traffic := t.traffic } ∧ t.team tk = some { tm with asked := true } ∧
        sget [] t.traffic (408 + tm.core) = sget [] s.traffic (408 + tm.core) ++ [⟨tm.core, unitsOf base tm.scratch, .team tk⟩]) ∧
      (tm.asked = true → s.teamMoving tk = true → exec (.teamStart tk) s = .next s) ∧
      (tm.scratch = 0 ∨ tm.asked = true → s.teamMoving tk = false → Answers (.teamStart tk) s fun t =>
        t.team tk = some { tm with status := .started, asked := false } ∧
        (∃ w', t.warp key = some w' ∧ w'.status = .resident ∧ w'.v = w.v ∧ w'.s = w.s ∧ w'.root.pc = w.root.pc ∧ w'.root.mask = w.root.mask ∧
          w'.deadline = if tm.wdl = 0 then 2 ^ 64 - 1 else (s.clk + tm.wdl) % 2 ^ 64) ∧
        (∀ a, base ≤ a → a < base + tm.scratch → memByte t.mem.bytes a = 0) ∧ OutsideKept s t base tm.scratch)) ∧
    (∀ l, s.launch lid = some l → l.done = false → s.launchIdle lid l = true → l.walker = none → l.parent = none → l.handler = false →
      exec (.launchComplete lid) s = .next ((({ s with waitTasks := s.waitTasks.filter (fun x => x.launch != lid) } : State).setLaunch
        lid none).journal l.src lid l.pos (if l.failed then 4 else 3) l.ctx 0))

/-- 15 R410-R413: a GRAPH launch at the head of its queue takes a free walker with its nodes; a node whose work is over is Done when its
turn comes, its KERNEL node's launch gone; a WAITTIME node at its time; a COND that is woken reads its word again and chooses its
first successor where the condition holds. -/
def Sys2Proof.Says.GraphEvents : Prop :=
  ∀ (s : State) (lid k n : Nat), swf none s.launches = true → swf none s.walkers = true →
    let g := s.gnode k n
    let noSucc : Prop := bitN g.image 487 = false ∧ bitN g.image 474 = false
    (∀ l, s.launch lid = some l → lid < s.launchCtr → l.kind = 3 → l.walker = none → l.done = false → s.graphHead l.queue lid = true →
      (List.range 8).find? (fun k => (s.walker k).isNone) = some k → Answers (.graphPlace lid) s fun t =>
        (∃ l', t.launch lid = some l' ∧ l'.walker = some k) ∧ ∃ w, t.walker k = some w ∧ w.launch = lid ∧ w.ctx = l.ctx ∧
          w.base = l.image / 2 ^ 274 % 2 ^ 26 * 64 ∧ w.n = l.image / 2 ^ 262 % 2 ^ 12 + 1) ∧
    (∀ w, s.walker k = some w → swf {} w.nodes = true → noSucc →
      (nKind g.image = 5 ∨ nKind g.image = 7 → s.nodeTurn k n = true →
        Answers (.traverseNodeDone k n) s fun t => (t.gnode k n).st = 3) ∧
      (∀ l, nKind g.image = 1 → s.nodeTurn k n = true → g.launch = some l → l ≠ w.launch →
        Answers (.traverseNodeDone k n) s fun t => (t.gnode k n).st = 3 ∧ t.launch l = none) ∧
      (nKind g.image = 6 → s.nodeTurn k n = true → Answers (.waittimeExpiry k n) s fun t => (t.gnode k n).st = 3) ∧
      (nKind g.image = 6 → s.clk < waitTill g.image g.start → exec (.waittimeExpiry k n) s = .next s)) ∧
    (∀ w pa, s.walker k = some w → swf {} w.nodes = true → nKind g.image = 3 → g.st = 2 → g.choice = 0 → s.mem.woken (.node k n) = true →
      s.ctxPa w.ctx (g.image / 2 ^ 354 % 2 ^ 30 * 4) needR = some pa → Sound s pa 4 →
      condHolds g.image (memRead s.mem.bytes pa 4) = true → Answers (.condRecheck k n) s fun t => (t.gnode k n).choice = 2 ∧
        t.mem.woken (.node k n) = false ∧ t.mem.bytes = s.mem.bytes)

/-- 15: launches, teams and graphs. -/
def Obligations.LaunchAndGraphEvents : Prop := LaunchEvents ∧ GraphEvents

/-! ### Faults on their way, pre-emption and contexts -/

/-- 16 R424-R427: the oldest fault of a context, with the writes before it done, enters the context's fault queue with its handle and
sequence number, or the driver's log, which a full queue does not hold back; a handler launch starts while records wait and fewer than `HMAX` run. -/
def Obligations.FaultDeliveryEvents : Prop :=
  ∀ (s : State) (cx : Nat), swf {} s.ctxs = true → swf none s.launches = true → Memory.wf s.mem.bytes = true →
    let c := s.ctx cx
    (∀ f i, c.pending = [f] → f.handle = 0 → f.after ≤ s.clk → swf {} c.dir = true →
      (List.range 1024).find? (fun i => (sget {} c.dir i).serial == 0) = some i → (∀ tm, s.team f.work.team = some tm → tm.tcb = none) →
      let h := i * 2 ^ 22 + nextSerial c.serial
      let named (t : State) : Prop := (t.ctx cx).liveWork h = some f.work ∧ (t.ctx cx).pending = []
      (∀ pa, f.toDriver = false → s.fqSlot cx c.fqtail = some pa → c.fqtail - c.fqhead < 2 ^ c.fqlog2 → f.image < 2 ^ 512 →
        f.image / 2 ^ 128 % 2 ^ 32 = 0 → f.image / 2 ^ 32 % 2 ^ 32 = 0 → i < 1024 → Answers (.faultRecordWrite cx) s fun t => named t ∧
          (t.ctx cx).fqtail = c.fqtail + 1 ∧ (t.ctx cx).fseq = (c.fseq + 1) % 2 ^ 32 ∧
          memRead t.mem.bytes pa 64 = f.image + h * 2 ^ 128 + c.fseq % 2 ^ 32 * 2 ^ 32 ∧ OutsideKept s t pa 64) ∧
      (f.toDriver = true → Answers (.faultRecordWrite cx) s fun t => named t ∧ (t.ctx cx).fqtail = c.fqtail ∧
        t.ptr.flmade = (s.ptr.flmade + 1) % 2 ^ 32)) ∧
    (∀ f g pa, c.pending = [f, g] → f.toDriver = false → g.toDriver = true → f.handle ≠ 0 → g.handle ≠ 0 → f.after ≤ s.clk → g.after ≤ s.clk →
      s.fqSlot cx c.fqtail = some pa → 2 ^ c.fqlog2 ≤ c.fqtail - c.fqhead → (∀ tm, s.team g.work.team = some tm → tm.tcb = none) →
      Answers (.faultRecordWrite cx) s fun t => (t.ctx cx).pending = [f] ∧ (t.ctx cx).fqtail = c.fqtail ∧
        t.ptr.flmade = (s.ptr.flmade + 1) % 2 ^ 32) ∧
    (∀ pa, c.hrec ≠ 0 → c.hdead = false → c.fqhead ≠ c.fqtail → c.hrun < c.hmax → s.ctxPa cx (c.hrec * 64) needR = some pa → Sound s pa 64 →
      let x := memRead s.mem.bytes pa 64
      launchMalformed x true = false → lrKind x = 0 → Answers (.handlerLaunchStart cx) s fun t => (t.ctx cx).hrun = c.hrun + 1 ∧
        t.launchCtr = s.launchCtr + 1 ∧ ∃ l, t.launch s.launchCtr = some l ∧ l.handler = true ∧ l.ctx = cx ∧ l.image = x ∧
          l.queue = c.hqueue ∧ l.s5 = c.fqtail - c.fqhead) ∧
    (c.hmax ≤ c.hrun → exec (.handlerLaunchStart cx) s = .next s)

/-- A command ends at the head of the control queue (18 R460, R461): `CQHEAD` and the journal advance, and the result bytes of the
entry hold `RET`, `CSTAT` and DONE. -/
def Sys2Proof.Says.CommandEnds (s t : State) (stat ret : Nat) : Prop :=
  t.ptr.cqhead = (s.ptr.cqhead + 1) % 2 ^ 32 ∧ t.ptr.cqtail = s.ptr.cqtail ∧ t.ptr.jmade = (s.ptr.jmade + 1) % 2 ^ 64 ∧
    (s.ptr.cqAddr + 64 ≤ 192 * 2 ^ 24 → ret < 2 ^ 32 → stat < 128 → Memory.wf s.mem.bytes = true →
      memRead t.mem.bytes (s.ptr.cqAddr + 58) 5 = ret + stat * 2 ^ 32 + 2 ^ 39)

/-- 16 R437, R440-R442, R445; 01 R23, R29, R33; 02 R54: a team that has stopped at its boundaries asks for its state to be written and is
then saved, its slots free; a saved team that has been placed asks for its state to be read and its scratchpad copied, and then starts again; an `.idem` team is discarded, and its launch places it again; a commit's end takes back
the blocks that leave protection and zeroes them, and a commit or a shootdown ends when no command of before is left. -/
def Obligations.PreemptionEvents : Prop :=
  ∀ (s : State) (tk cx : Nat), swf none s.teams = true → swf none s.warps = true → swf none s.launches = true → swf {} s.ctxs = true →
    (∀ tm key w, s.team tk = some tm → tm.keys = [key] → s.warp key = some w → key < 24576 → s.entries key = [] → tm.pair = false →
      (∀ x ∈ s.ashs, x.2.team ≠ some tk) →
      let asks (t : State) : Prop := t = { s with teams := t.teams, traffic := t.traffic } ∧ t.team tk = some { tm with asked := true }
      (tm.status = .started → tm.preempt = 1 → s.teamQuiet tk tm = true → tm.asked = false → Answers (.teamSave tk) s asks) ∧
      (tm.status = .placed → tm.restoring = true → tm.asked = false → Answers (.teamResume tk tm.core) s asks) ∧
      (tm.status = .started → tm.preempt = 1 → s.teamQuiet tk tm = true → tm.strip = false → tm.gangPark = none → tm.asked = true →
        s.teamMoving tk = false → Answers (.teamSave tk) s fun t => t.warp key = none ∧ t.savedQ = s.savedQ ++ [tk] ∧
          (∃ tm', t.team tk = some tm' ∧ tm'.status = .saved ∧ tm'.preempt = 0 ∧ tm'.keys = [savedKey tk w.warpId]) ∧
          ∃ w', t.warp (savedKey tk w.warpId) = some w' ∧ w'.v = w.v ∧ w'.s = w.s ∧ w'.p = w.p ∧ w'.root.pc = w.root.pc ∧
            w'.root.mask = w.root.mask) ∧
      (tm.status = .placed → tm.restoring = true → tm.changes = [] → tm.asked = true → s.teamMoving tk = false → Memory.wf s.mem.bytes = true →
        let src := tm.oldCore * 2 ^ 24 + tm.old0
        let dst := tm.core * 2 ^ 24 + tm.base0
        let late := !w.strip && decide (w.deadline ≠ 2 ^ 64 - 1) && decide (w.deadline ≤ s.clk)
        Answers (.teamResume tk tm.core) s fun t =>
          t.team tk = some { tm with status := .started, restoring := false, asked := false, changes := [] } ∧ t.warp key = some { w with
            age := s.clk, dlHit := w.dlHit || late, deadline := if late then 2 ^ 64 - 1 else w.deadline } ∧
          (tm.oldCore = tm.core → t.mem = s.mem) ∧
          (tm.oldCore ≠ tm.core → OutsideKept s t dst tm.scratch ∧
            ∀ i, i < tm.scratch → memByte t.mem.bytes (dst + i) = memByte s.mem.bytes (src + i))) ∧
      (∀ l, tm.status = .started → tm.preempt = 2 → tm.tcb = none → s.launch tm.launch = some l →
        (w.ic ≠ 0 → Answers (.teamDiscard tk) s fun t => t = { s with teams := t.teams } ∧ t.team tk = some { tm with preempt := 1 }) ∧
        (w.ic = 0 → s.memDone key = true → w.lastPlain + 17 ≤ s.clk → Answers (.teamDiscard tk) s fun t => t.team tk = none ∧ t.warp key = none ∧
          t.launch tm.launch = some { l with live := l.live - 1, again := insertNat tm.teamId l.again } ∧
          t.ptr.jmade = (s.ptr.jmade + 1) % 2 ^ 64))) ∧
    (∀ cmds blocks, (s.ctx cx).commit = some (cmds, blocks) → (∀ k ∈ cmds, k ∉ s.hodCommands cx) →
      let gone (b : Nat) : Prop := b ∈ blocks ∧ ∀ x ∈ s.ctxs, x.2.guards b = false
      (s.oldAccessesDone cx = false → exec (.protectRelease cx) s = .next s ∧ exec (.segCommitDone cx) s = .next s) ∧
      ((s.ctx cx).commitReleased = false → s.oldAccessesDone cx = true → Answers (.protectRelease cx) s fun t =>
        (t.ctx cx).commitReleased = true ∧ (∀ b, gone b → sget false t.mem.prot b = false) ∧ (∀ a, gone (a / 65536) → memByte t.mem.bytes a = 0) ∧
          ∀ a, ¬ gone (a / 65536) → memByte t.mem.bytes a = memByte s.mem.bytes a) ∧
      ((s.ctx cx).commitReleased = true → s.oldAccessesDone cx = true → Answers (.segCommitDone cx) s fun t =>
        (t.ctx cx).commit = none ∧ CommandEnds s t 0 0)) ∧
    ((s.ctx cx).shoot = true → (∀ x ∈ s.hods, ∀ e ∈ x.2.slots, ∀ f, e.2 = some f → f.cmd.ctx = cx → f.xlOld = false) →
      Answers (.shootdownDone cx) s fun t => (t.ctx cx).shoot = false ∧ CommandEnds s t 0 0)

/-! ### Strip pipelines -/

/-- 14 R368-R374; 15 R409: a pipeline's next frame starts at the time foreseen for it, lengthened or shortened by a line where it is off
its nominal time by more than half a line, with the chains and the BIN node of the frame after it; a meshlet enters the bin area
where it fits and is counted as dropped where not; a BIN node is Done, its list in order, when FRAMEEND has come and every MESH
launch before it is over, every FRAMEEND of the frame with it, and Late at its deadline. -/
def Obligations.FrameAndBinEvents : Prop :=
  ∀ (s : State) (pp tk : Nat), swf {} s.pipes = true → swf none s.teams = true → swf none s.launches = true →
    let p := s.pipe pp
    let x := p.image
    (∀ m, p.en = true → p.cur = some m → s.tbase.inc ≠ 0 → p.held = [] →
      let l := lineClk (pLns x) s.tbase.inc
      let next := max (p.nextFs + 1) (p.nextFs + p.vt * l / 65536)
      let e : Int := s.tbase.now - ((s.clk - p.nextFs) * s.tbase.inc / 65536 : Nat) - (pEpoch x + (m + 1) * pPeriod x : Nat)
      (s.clk < p.nextFs → exec (.frameStart pp) s = .next s) ∧
      (p.nextFs ≤ s.clk → Answers (.frameStart pp) s fun t => t = { s with pipes := t.pipes } ∧
        (t.pipe pp).cur = some (m + 1) ∧ (t.pipe pp).fs = p.nextFs ∧ (t.pipe pp).lclk = l ∧ (t.pipe pp).nextFs = next ∧
        (t.pipe pp).ctr.frames = satAdd p.ctr.frames 1 32 ∧
        (t.pipe pp).vt = (if 2 * e > pLns x then pVtot x - 1 else if 2 * e < -(pLns x : Int) then pVtot x + 1 else pVtot x) ∧
        (∃ b ∈ (t.pipe pp).bins, b.frame = m + 2 ∧ b.st = .running ∧ b.dl = (chainTimes x next l 0).2) ∧
        ∀ c, c < pChains x → ∃ h ∈ (t.pipe pp).chains, h.frame = m + 2 ∧ h.ix = c ∧ h.st = .pending ∧ (h.f, h.r) = chainTimes x next l c)) ∧
    (∀ tm l b, s.team tk = some tm → tm.stage = 1 → tm.handed = false → tm.status = .ended → tm.pipe = pp →
      s.launch tm.launch = some l → p.en = true → p.bins.find? (fun b => b.frame % 2 ^ 32 == lrFrame l.image && b.st == .running) = some b →
      let size := up64 (64 + 16 * tm.mesh.nv * tm.mesh.g + 4 * tm.mesh.np)
      Answers (.meshletHandoff tk) s fun t => (tm.gone ≠ 2 → t.team tk = some { tm with handed := true }) ∧
        (tm.gone = 2 → (∀ a ∈ s.ashs, a.2.team ≠ some tk) → t.team tk = none) ∧
        (pBinHalf x < b.used + size → (t.pipe pp).ctr.dropm = satAdd p.ctr.dropm (pViews x) 32 ∧ t.mem = s.mem) ∧
        (b.used + size ≤ pBinHalf x → ∃ b' ∈ (t.pipe pp).bins, b'.frame = b.frame ∧ b.used + size ≤ b'.used ∧ b'.used ≤ pBinHalf x ∧
          ∃ r, b'.items = b.items ++ r)) ∧
    (∀ b, p.runningBin = some b →
      (b.fes = [] ∨ b.before.all s.launchOver = false → exec (.binNodeComplete pp) s = .next s) ∧
      (b.fes ≠ [] → b.fes.Nodup → b.before.all s.launchOver = true →
        (∀ fe ∈ b.fes, ∃ l, s.launch fe = some l ∧ l.done = false ∧ l.parent = none ∧ l.handler = false) →
        Answers (.binNodeComplete pp) s fun t => (∀ fe ∈ b.fes, t.launch fe = none) ∧
          t.ptr.jmade = (s.ptr.jmade + b.fes.length) % 2 ^ 64 ∧
          ∃ b' ∈ (t.pipe pp).bins, b'.frame = b.frame ∧ b'.st = .done ∧ b'.items = sortBy PrimItem.before b.items) ∧
      (s.clk < b.dl → exec (.binNodeLate pp) s = .next s) ∧
      (b.dl ≤ s.clk → b.fes = [] → Answers (.binNodeLate pp) s fun t => (t.pipe pp).ctr.late = satAdd p.ctr.late 1 32 ∧
        t.mem = s.mem ∧ ∃ b' ∈ (t.pipe pp).bins, b'.frame = b.frame ∧ b'.st = .late ∧ b'.items = []))

/-- A chain has left its pipeline at a level (14 R385). -/
def Sys2Proof.Says.ChainEnded (t : State) (pp : Nat) (h : Chain) (level : Nat) : Prop :=
  (∀ y ∈ (t.pipe pp).chains, ¬ (y.frame = h.frame ∧ y.ix = h.ix)) ∧ sget 0 (t.pipe pp).lev h.ix = level

/-- A chain's node runs from the present, its slots WRITING for the chain (14 R381, R385). -/
def Sys2Proof.Says.NodeRuns (s t : State) (pp : Nat) (h : Chain) (level : Nat) : Prop :=
  (∃ y ∈ (t.pipe pp).chains, y.frame = h.frame ∧ y.ix = h.ix ∧ y.node = h.node ∧ y.st = .running ∧ y.level = level ∧ y.start = s.clk) ∧
    ∀ k ∈ s.nodeSlots (s.pipe pp).image ((s.pipe pp).nodeOf h) h.frame h.ix,
      (t.slot k.1).st = 1 ∧ (t.slot k.1).owner = some (pp, h.frame, h.ix)

/-- 14 R369, R374, R381, R385, R386; 15 R407: a chain's clusters are reserved from 4,096 clk before its release; at its release it is
skipped where its BIN node did not end Done, else its level is set from the costs to come and its first node starts once its
slots are free; a node that is over passes its slots on, and the last ends the chain at its level; a chain still there at its
limit is late and ends at level 5. The statement is of nodes that start no launch, copy or signal. -/
def Obligations.ChainEvents : Prop :=
  ∀ (s : State) (ch : Nat), swf {} s.pipes = true → swf {} s.slots = true →
    let pp := ch % 4
    let p := s.pipe pp
    let x := p.image
    let calm (h : Chain) : Prop := nKind (p.nodeOf h) = 6 ∨
      nKind (p.nodeOf h) = 1 ∧ (nSkind (p.nodeOf h) = 1 ∨ nSkind (p.nodeOf h) = 2 ∨ nSkind (p.nodeOf h) = 3)
    swf 0 p.lev = true →
    (∀ h, p.chains.find? (fun h => h.ix == ch / 4 && !h.res) = some h →
      (s.clk + 4096 < h.r → exec (.plumbReserve ch) s = .next s) ∧
      (h.r ≤ s.clk + 4096 → Answers (.plumbReserve ch) s fun t => t = { s with pipes := t.pipes } ∧
        ∀ y ∈ (t.pipe pp).chains, y.frame = h.frame → y.ix = h.ix → y.res = true)) ∧
    (∀ h, p.chains.head? = some h → h.ix = ch / 4 → h.st = .pending →
      let bin := (p.bins.find? (fun (b : Bin) => b.frame == h.frame)).map Bin.st
      let l0 := if sget false p.seen h.ix = true then sget 0 p.lev h.ix - 1 else 0
      let cost := grown (((p.costs h.ix).drop h.node).foldl (fun a c => a + c) 0)
      let level := if h.f < s.clk + cost then min (l0 + 1) 5 else l0
      (s.clk < h.r → exec (.chainRelease ch) s = .next s) ∧
      (h.r ≤ s.clk → bin = some .running → exec (.chainRelease ch) s = .next s) ∧
      (h.r ≤ s.clk → (bin = none ∨ bin = some .late ∨ bin = some .done ∧ level = 5) → Answers (.chainRelease ch) s fun t =>
        ChainEnded t pp h 5 ∧ (t.pipe pp).ctr.skipped = satAdd p.ctr.skipped 1 32) ∧
      (h.r ≤ s.clk → bin = some .done → level < 5 → calm h →
        (s.slotsReady pp h = true → Answers (.chainRelease ch) s fun t => NodeRuns s t pp h level) ∧
        (s.slotsReady pp h = false → Answers (.chainRelease ch) s fun t => (t.pipe pp).ctr.slotw = satAdd p.ctr.slotw 1 32 ∧
          t.mem = s.mem ∧ ∃ y ∈ (t.pipe pp).chains, y.frame = h.frame ∧ y.ix = h.ix ∧ y.st = .waiting ∧ y.level = level))) ∧
    (∀ h, s.chainOf pp (ch / 4) = some h →
      (h.st = .waiting → calm h → s.slotsReady pp h = true → Answers (.nodeSlotFree ch) s fun t => NodeRuns s t pp h h.level) ∧
      (h.st = .waiting → s.slotsReady pp h = false → exec (.nodeSlotFree ch) s = .next s) ∧
      (h.st = .running → (nKind (p.nodeOf h) = 6 ∨ nKind (p.nodeOf h) = 7 ∨ nKind (p.nodeOf h) = 1 ∧ nSkind (p.nodeOf h) ≠ 3) →
        p.nodes.length ≤ h.node + 1 → s.chainOver pp h = true → Answers (.chainNodeDone ch h.node) s fun t => ChainEnded t pp h h.level ∧
          ∀ k ∈ s.nodeSlots x (p.nodeOf h) h.frame h.ix, rOut (s.ringDesc (k.1 / 16)) = true →
            (t.slot k.1).st = 2 ∧ (t.slot k.1).level = h.level) ∧
      (s.clk < h.f → exec (.chainLate ch) s = .next s) ∧
      (h.f ≤ s.clk → Answers (.chainLate ch) s fun t => ChainEnded t pp h 5 ∧ (t.pipe pp).ctr.late = satAdd p.ctr.late 1 32))

/-- 14 R374: a BIN node that has not completed by its deadline ends Late with its lists discarded, and a chain of a frame whose BIN node
ended Late is skipped at level 5 when its turn to be released comes. -/
def Obligations.LateBinNodeSkipsItsChains : Prop :=
  ∀ (s : State) (pp : Nat), pp < 4 → swf {} s.pipes = true → swf 0 (s.pipe pp).lev = true →
    (∀ b, (s.pipe pp).runningBin = some b → b.dl ≤ s.clk → Answers (.binNodeLate pp) s fun t =>
      ∃ b' ∈ (t.pipe pp).bins, b'.frame = b.frame ∧ b'.st = .late ∧ b'.items = []) ∧
    (∀ h b, (s.pipe pp).chains.head? = some h → h.st = .pending → h.r ≤ s.clk →
      (s.pipe pp).bins.find? (fun (b : Bin) => b.frame == h.frame) = some b → b.st = .late →
      Answers (.chainRelease (h.ix * 4 + pp)) s fun t => ChainEnded t pp h 5)

/-- 14 R376, R377, R381, R387, R389, R391: a raster node launches its next pixel warp, with its entry in the reorder buffer, while
that holds fewer than 512; the oldest entry commits once its warp has ended, and writes nothing for an ended chain or for lanes
that were discarded; a consumer takes a COMPLETE strip at its time or repeats; a line is read up to two lines ahead, and a scanned line goes
out, or the one before it where its data is late (a free bit says so), and the last frees the slot; an OBU that fits enters the bitstream, and 17 clk later its end is
released. -/
def Obligations.StripOutputEvents : Prop :=
  ∀ (s : State) (pp ch n : Nat), swf {} s.pipes = true → swf {} s.slots = true → swf none s.teams = true →
    let p := s.pipe pp
    let x := p.image
    (∀ h w e l, ch % 4 = pp → s.chainOf pp (ch / 4) = some h → h.st = .running → s.nextPixel pp h = some w →
      h.launches.find? (fun e => e.1 == w.2.2.1.pix) = some e → s.launch e.2 = some l →
      (512 ≤ p.rob.length → exec (.pixelWarpLaunch ch) s = .next s) ∧
      (p.rob.length < 512 → Answers (.pixelWarpLaunch ch) s fun t => t.teamSeq = s.teamSeq + 1 ∧ t.mem = s.mem ∧
        t.chainQ = s.chainQ ++ [.team s.teamSeq] ∧ (∃ tm, t.team s.teamSeq = some tm ∧ tm.status = .waiting ∧ tm.stage = 2 ∧
          tm.strip = true ∧ tm.deadlineAt = some h.f ∧ tm.view = w.2.2.1.view) ∧
        ∃ r, (t.pipe pp).rob = p.rob ++ [r] ∧ r.team = s.teamSeq ∧ r.frame = h.frame ∧ r.chain = h.ix)) ∧
    (∀ e rest, p.rob = e :: rest →
      (e.done = false → exec (.fragmentCommit pp) s = .next s) ∧
      (e.done = true → Answers (.fragmentCommit pp) s fun t =>
        t = { s with pipes := t.pipes, mem := t.mem, slots := t.slots, traffic := t.traffic } ∧ (t.pipe pp).rob = rest ∧
        (p.chains.all (fun h => !(h.frame == e.frame && h.ix == e.chain)) = true → t = s.setPipe pp { p with rob := rest }) ∧
        (e.blocks.all (fun b => e.killed.getLsbD b.1) = true → t.mem = s.mem ∧ t.slots = s.slots))) ∧
    (∀ f, p.takeAt = some f → p.en = true →
      let o := p.take % pStrips x
      let k := s.slotKey x (pOring x) (p.take / pStrips x) o
      let done := s.stripDone p (p.take / pStrips x) o
      (s.clk < f → exec (.stripConsumerTake pp o) s = .next s) ∧
      (f ≤ s.clk → done = true → pConsumer x = true → Answers (.stripConsumerTake pp o) s fun t => (t.pipe pp).take = p.take + 1 ∧
        (t.pipe pp).ctr = p.ctr ∧ (t.slot k).st = 3) ∧
      (f ≤ s.clk → done = false → Answers (.stripConsumerTake pp o) s fun t => t = { s with pipes := t.pipes } ∧
        (t.pipe pp).take = p.take + 1 ∧ (t.pipe pp).ctr.rep = satAdd p.ctr.rep 1 32)) ∧
    (∀ tm, p.lineAt = some tm → p.en = true → pConsumer x = true →
      let f := p.line / pVact x
      let y := p.line % pVact x
      let k := s.slotKey x (pOring x) f (y / pH x)
      let sl := s.slot k
      let reading : Prop := sl.st = 3 ∧ sl.frame = f ∧ sl.strip = y / pH x
      (p.ahead = [] → p.take ≤ f * pStrips x + y / pH x ∨ s.clk + 2 * p.lclk / 65536 < tm → exec (.lineScan pp) s = .next s) ∧
      (p.ahead = [] → f * pStrips x + y / pH x < p.take → tm ≤ s.clk + 2 * p.lclk / 65536 → s.clk < tm → Answers (.lineScan pp) s fun t =>
        (t.pipe pp).line = p.line ∧ (t.pipe pp).lineOut = p.lineOut ∧ t.mem.bytes = s.mem.bytes ∧ t.slots = s.slots ∧
        (reading ∨ (pDpo x = true ∧ pRepeat x = 2) → (t.pipe pp).ahead = [some (s.ringLine x k (y % pH x))]) ∧
        (¬ reading → ¬ (pDpo x = true ∧ pRepeat x = 2) → (t.pipe pp).ahead = [none])) ∧
      (∀ row rest, p.ahead = row :: rest → tm ≤ s.clk → Answers (.lineScan pp) s fun t => (t.pipe pp).line = p.line + 1 ∧
        (∀ r, row = some r → (pDpo x = true → (t.pipe pp).lineOut = if Config.freeBit s.fresh = true then p.lineOut else r) ∧
          (t.pipe pp).ctr.underrun = satAdd p.ctr.underrun (b2n (Config.freeBit s.fresh)) 32) ∧
        (row = none → (pDpo x = true → (t.pipe pp).lineOut = if pRepeat x = 0 then p.lineOut else 0) ∧ t.fresh = s.fresh) ∧
        (reading → (y + 1 = pVact x ∨ (y + 1) % pH x = 0) → (t.slot k).st = 0) ∧
        (swf {} s.dps = true → pDpo x = true → (sget {} t.dps (pDpoNo x)).sent = (t.pipe pp).lineOut) ∧
        (¬ reading → t.mem.bytes = s.mem.bytes ∧ t.slots = s.slots))) ∧
    (∀ m pa, p.cur = some m → p.enc.frame ≤ m → p.en = true → pEnc x = true → p.enc.wrote = none → p.obuLine ≤ p.line →
      sget 0 s.encAt (pEncNo x) + p.obuClk ≤ s.clk → 0 < n →
      s.ctxPa p.ctx (pEbuf x + 4) needR = some pa →
      let used := (p.enc.woff % 2 ^ 32 + 2 ^ 32 - memRead s.mem.bytes pa 4) % 2 ^ 32
      (pEring x < used + n → Answers (.obuWrite pp n) s fun t => t.mem.bytes = s.mem.bytes ∧ (t.pipe pp).enc.woff = p.enc.woff ∧
        (t.pipe pp).enc.frame = p.enc.frame + 1 ∧ (t.pipe pp).ctr.ebfull = satAdd p.ctr.ebfull 1 32) ∧
      (used + n ≤ pEring x → Answers (.obuWrite pp n) s fun t => (t.pipe pp).enc = { p.enc with woff := p.enc.woff + n, wrote := some s.clk } ∧
        (t.pipe pp).ctr = p.ctr ∧ (swf 0 s.encAt = true → sget 0 t.encAt (pEncNo x) = s.clk))) ∧
    (∀ since pa, p.en = true → pEnc x = true → p.enc.wrote = some since → Memory.wf s.mem.bytes = true → s.ctxPa p.ctx (pEbuf x) needW = some pa →
      (s.clk < since + 17 → exec (.obuWrite pp n) s = .next s) ∧
      (since + 17 ≤ s.clk → Answers (.obuWrite pp n) s fun t => t = { s with mem := t.mem, pipes := t.pipes, traffic := t.traffic } ∧
        memRead t.mem.bytes pa 4 = p.enc.woff % 2 ^ 32 ∧ OutsideKept s t pa 4 ∧ (t.pipe pp).enc.wrote = none ∧
        (t.pipe pp).enc.woff = p.enc.woff ∧ (t.pipe pp).enc.frame = if p.enc.obu = pStrips x + 2 then p.enc.frame + 1 else p.enc.frame))

/-! ### The Ashlar's queue and latch -/

/-- 12 R315, R316, R327, R329, R333-R335, R337: the head operation of a context whose core partner is idle starts when its forks are over: TZERO,
TSCL and AZERO set a tile, its scales or an accumulator, AWRITE writes the elements inside it, MMA adds its products to every element,
TLD, TST and ADRAIN have the pieces of their window to move; its unit is busy and it completes later. A completed operation leaves the
queue, and the array operation behind it has nothing to chain to; an AREAD's values reach their warp's register. -/
def Obligations.AshlarQueueEvents : Prop :=
  ∀ (s : State) (ax tk : Nat) (o : AshOp) (rest : List AshOp), swf {} s.ashs = true →
    let c := s.ash ax
    let started (o : AshOp) (busy till : Nat) : AshOp := { o with started := true, busy := busy, till := till }
    c.ops = o :: rest →
    (c.team = some tk → rest = [] → (s.ash (ax ^^^ 1)).ops = [] → o.started = false → o.held = false → o.pair = false →
      (s.opForked c o = false → exec (.ashlarOpStart ax) s = .next s) ∧
      (s.opForked c o = true → o.kind = .tld ∨ o.kind = .tst ∨ o.kind = .adrain → Answers (.ashlarOpStart ax) s fun t =>
        t = { s with ashs := t.ashs, ashTurn := t.ashTurn } ∧ t.ash ax = { c with ops := [started (c.withPieces o) s.clk s.clk] }) ∧
      (s.opForked c o = true → o.kind = .tzero ∨ o.kind = .tscl ∨ o.kind = .azero ∨ o.kind = .awrite → swf 0#8 c.tiles = true → swf 127 c.scales = true →
          swf {} c.acc = true → swf false c.epsn = true → (o.vals.map (·.1)).Nodup →
        Answers (.ashlarOpStart ax) s fun t => t = { s with ashs := t.ashs, ashTurn := t.ashTurn } ∧
          (t.ash ax).ops = [started o (s.coreClk (ax / 2) 2) (s.coreClk (ax / 2) 2)] ∧
          (∀ a, memByte (t.ash ax).tiles a = if o.kind = .tzero ∧ a / 4096 = o.t then 0#8 else memByte c.tiles a) ∧
          (∀ a, sget 127 (t.ash ax).scales a = if o.kind = .tzero ∧ a / 256 = o.t then 127 else
            if o.kind = .tscl ∧ a / 256 = o.t then o.arg else sget 127 c.scales a) ∧
          (∀ k, sget false (t.ash ax).epsn k = if (o.kind = .tzero ∨ o.kind = .tscl) ∧ k = o.t then false else sget false c.epsn k) ∧
          (o.kind = .tzero → ∀ k, k / 128 = o.t → sget false (t.ash ax).tpsn k = false) ∧
          (o.kind = .azero → ∀ i j, i < 64 → j < 64 → (t.ash ax).accAt o.t i j = {}) ∧
          (o.kind = .awrite → ∀ v ∈ o.vals, o.arg % 64 < awM o.aw → o.arg / 256 % 64 + v.1 < awN o.aw →
            (t.ash ax).accAt o.t (o.arg % 64) (o.arg / 256 % 64 + v.1) = v.2)) ∧
      (s.opForked c o = true → o.kind = .mma → s.throttled (ax / 2) = false → swf {} c.acc = true →
        Answers (.ashlarOpStart ax) s fun t => (t.ash ax).ops = [started o (s.coreClk (ax / 2) (opD o (tcRows o.tb))) (s.coreClk (ax / 2) (opD o (tcRows o.tb) + 8))] ∧
          t.mem = s.mem ∧ (t.ash ax).tiles = c.tiles ∧ (t.ash ax).scales = c.scales ∧
          ∀ r k, r < awM o.aw → k < awN o.aw → k < tcRows o.tb →
            (tcSp o.ta = false → (t.ash ax).accAt o.t r k = mmaElem c o (c.ownB o) k r (fun _ => 0) (c.accAt o.t r k)))) ∧
    (o.started = true → o.held = false → o.kind ≠ .aread → (∀ e ∈ rest, e.id ≠ o.id) →
      (∀ k tm, c.team = some k → s.team k = some tm → tm.gone ≠ 2) →
      let bare (l : List AshOp) : List AshOp := l.map fun e => { e with prevDone := false }
      (o.todo = [] → o.till ≤ s.clk → Answers (.ashlarOpComplete ax) s fun t => bare (t.ash ax).ops = bare rest ∧
        t = { s with mem := t.mem, ashs := t.ashs, flights := t.flights } ∧
        (o.isArray = false → (t.ash ax).ops = rest) ∧ (o.isArray = true → ∀ e ∈ (t.ash ax).ops.head?, e.isArray = true → e.prevDone = true) ∧
        ((o.kind ≠ .tld ∧ o.kind ≠ .tst ∧ o.kind ≠ .adrain) ∨ shBar o.image = none → t.mem = s.mem)) ∧
      (o.todo ≠ [] ∨ s.clk < o.till → (∀ e ∈ rest, s.opOver c e = false) → exec (.ashlarOpComplete ax) s = .next s)) ∧
    (∀ key w pd, s.warp key = some w → swf none s.warps = true → swf {} w.v = true → s.ashOf (key / 128) w.team = some ax → o.kind = .aread →
      o.started = true → o.warp = w.warpId → w.pend = [pd] → pd.del = .aread o.id → isS pd.dst = false →
      (o.got.map (·.1)).Nodup → (∀ v ∈ o.got, v.1 < 96) →
      (s.clk < o.till → exec (.areadDelivery key pd.nid) s = .next s) ∧
      (o.till ≤ s.clk → Answers (.areadDelivery key pd.nid) s fun t => t = { s with warps := t.warps, ashs := t.ashs } ∧
        (t.ash ax).ops = rest ∧ ∃ v, t.warp key = some { w with pend := [], v := v } ∧ (∀ x ∈ o.got, sget {} v ((pd.wb + pd.dst) * 128 + x.1) = x.2) ∧
          ∀ pos l, l < 96 → (pos ≠ pd.wb + pd.dst ∨ l ∉ o.got.map (·.1)) → sget {} v (pos * 128 + l) = w.vAt pos l))

/-- 12 R321, R322: the first paired operation ready in a pair takes the latch with its B operand; the partner's joins it where the
two agree and gives both up where not; an operation held for 2^20 clk is dropped, and so is an arrival unmatched for 2^20 clk, that arrival alone,
and the team parks for RENDEZVOUS_TIMEOUT. Until its last warp exits, a team's held operation stays. -/
def Obligations.LatchEvents : Prop :=
  ∀ (s : State) (core ax pr tk : Nat) (tm : Team), swf .empty s.latches = true → swf {} s.ashs = true → swf none s.teams = true →
    let out (t : State) (cause : Nat) : Prop := ∃ tm', t.team tk = some tm' ∧ tm'.gangPark = some cause
    (∀ o, s.latch core = .empty → s.pairedReady (2 * core) = some o →
      (∀ k y, (s.ash (2 * core)).team = some k → s.team k = some y → s.allExited y = false) → Answers (.latchHold core) s fun t =>
      t = { s with latches := t.latches } ∧ t.latch core = .held (2 * core) o.id ((s.ash (2 * core)).image o) 0) ∧
    (s.latch core ≠ .empty → exec (.latchHold core) s = .next s) ∧
    (s.team tk = some tm → tm.gangPark = none → (s.ash ax).team = some tk →
      (∀ bx id n img o p, pr < 96 → s.latch (pairCore pr) = .held ax id img n → (s.ash ax).ops.find? (fun o => o.id == id) = some o →
        [2 * partner (ax / 2), 2 * partner (ax / 2) + 1].find? (fun x => (s.ash x).team == some tk) = some bx →
        s.pairedReady bx = some p → bx ≠ ax →
        (latchMatch o p = true → Answers (.latchJoin pr) s fun t => t = { s with latches := t.latches } ∧ t.latch (pairCore pr) =
          if (s.ash ax).half = 0 then .joined ax id bx p.id img ((s.ash bx).image p) false false
          else .joined bx p.id ax id ((s.ash bx).image p) img false false) ∧
        (latchMatch o p = false → Answers (.latchJoin pr) s fun t => t.latch (pairCore pr) = .empty ∧ out t 1 ∧
          (∀ e ∈ (t.ash ax).ops, e.id ≠ id) ∧ (∀ e ∈ (t.ash bx).ops, e.id ≠ p.id))) ∧
      (∀ id n img, pr < 96 → s.latch (pairCore pr) = .held ax id img n →
        (n < 2 ^ 20 → exec (.rendezvousTimeout pr) s = .next s) ∧
        (2 ^ 20 ≤ n → Answers (.rendezvousTimeout pr) s fun t => t.latch (pairCore pr) = .empty ∧ out t 0 ∧
          ∀ e ∈ (t.ash ax).ops, e.id ≠ id)) ∧
      ((∀ a ∈ (s.ash ax).arrivals, a.held < 2 ^ 20) → exec (.rendezvousTimeout (96 + ax)) s = .next s) ∧
      (∀ a, (s.ash ax).arrivals.find? (fun a => decide (2 ^ 20 ≤ a.held)) = some a →
        Answers (.rendezvousTimeout (96 + ax)) s fun t => (t.ash ax).arrivals = (s.ash ax).arrivals.filter (fun e => e.warp != a.warp) ∧
          (t.ash ax).ops = (s.ash ax).ops ∧ out t 0))

/-! ### The control queue -/

/-- The command `w` with a code stands at the head of the control queue, readable, its unused low bits 0 (18 R460, R461). -/
structure Sys2Proof.Says.AtHead (s : State) (code used w : Nat) : Prop where
  takes : s.takesCommands = true
  inside : s.ptr.cqAddr + 64 ≤ 192 * 2 ^ 24
  sound : Sound s s.ptr.cqAddr 64
  word : w = memRead s.mem.bytes s.ptr.cqAddr 64
  code : w / 2 ^ 504 = code
  low : used = 0 ∨ w % 2 ^ used = 0

/-- A record of `n` bytes at a physical address that a command may use, and its value (18 R460). -/
def Sys2Proof.Says.ImageAt (s : State) (pa n x : Nat) : Prop := s.physOk pa n = true ∧ Sound s pa n ∧ x = memRead s.mem.bytes pa n

/-- A command that ends with a `CSTAT` and changes nothing else but the control queue, the journal, memory and the traffic of the control stop
(18 R461; 02 R56). -/
def Sys2Proof.Says.Refuses (i : Instr) (s : State) (stat : Nat) : Prop :=
  Answers i s fun t => t = { s with mem := t.mem, ptr := t.ptr, traffic := t.traffic } ∧ CommandEnds s t stat 0

/-- What a command that stays in progress leaves of the control queue: the entry at the head has been read, and nothing else differs (18 R460). -/
def Sys2Proof.Says.Begun (s t : State) : Prop := t.ptr = { s.ptr with begun := true }

/-- 18 R461: the command record. A code that R462 does not list, or an operand bit that is not used and is not 0, ends the command with
`CSTAT` MALFORMED: DONE is written as 1, and `CSTAT` and `RET` in the places of the record's layout. Whichever command event comes
finds it so; PSWAP's too while no swap is in progress. -/
def Obligations.CommandRecords : Prop :=
  ∀ (s : State) (w : Nat), s.takesCommands = true → s.ptr.cqAddr + 64 ≤ 192 * 2 ^ 24 → Sound s s.ptr.cqAddr 64 → s.swap = none →
    w = memRead s.mem.bytes s.ptr.cqAddr 64 →
    ∀ e ∈ [(Instr.ctxCreate, 1, 438), (.ctxDestroy, 2, 459), (.segCommit, 3, 433), (.shootdown, 4, 395), (.hwinSet, 5, 427),
        (.exportSet, 6, 430), (.routeSet, 7, 438), (.hodPlace, 8, 425), (.ringSet, 9, 432), (.pipeSet, 10, 431), (.pipeEnable, 11, 462),
        (.pipeDisable, 12, 462), (.resume, 13, 426), (.kill, 14, 427), (.pswap, 15, 246), (.margin, 16, 463), (.lifecycle, 17, 435),
        (.dpTrain, 18, 457), (.auxXfer, 19, 308), (.attest, 20, 438)],
      (w / 2 ^ 504 = 0 ∨ 20 < w / 2 ^ 504 → Refuses e.1 s 1) ∧ (w / 2 ^ 504 = e.2.1 → w % 2 ^ e.2.2 ≠ 0 → Refuses e.1 s 1)

/-- 01 R18, R23, R33-R35; 11 R292; 16 R426; 18 R460-R464, R472: the commands on contexts, tables, windows, exports, routes, Hod queues and
faulted work take effect and end with OK; each that the state does not allow ends with STATE, each with a bad record with
MALFORMED, and neither changes anything but the queue. -/
def Obligations.ContextAndTableCommands : Prop :=
  ∀ (s : State) (w : Nat), swf {} s.ctxs = true → Memory.wf s.mem.bytes = true →
    let c := w / 2 ^ 459 % 32
    let cx := s.ctx c
    (∀ pa x hw, AtHead s 0x01 438 w → pa = w / 2 ^ 438 % 2 ^ 26 * 64 → ImageAt s pa 64 x →
      let k := x / 2 ^ 507 % 32
      let free : Prop := (s.ctx k).live = false ∧ ¬ (k = 0 ∧ s.life.ctx0 = true) ∧ (bitN x 506 = true → s.life.lcs = 3)
      (¬ free → Refuses .ctxCreate s 2) ∧ (free → s.ctxBad x = true → Refuses .ctxCreate s 1) ∧
      (free → s.ctxBad x = false → ImageAt s (x / 2 ^ 436 % 2 ^ 24 * 256) 256 hw → (hwinTable hw).any (fun e => hwinBad e.2) = false →
        Answers .ctxCreate s fun t => t.ctx k = ctxOfRec x hw ∧ (∀ j, j ≠ k → t.ctx j = s.ctx j) ∧ CommandEnds s t 0 0)) ∧
    (AtHead s 0x02 459 w → s.teams = [] → s.launches = [] → s.hods = [] → s.fabs = [] →
      let named := s.pipes.any (fun p => p.2.en && p.2.ctx == c) || s.queues.any (fun q => q.2.en && q.2.ctx == c)
      (cx.live = false ∨ named = true → Refuses .ctxDestroy s 2) ∧
      (cx.live = true → named = false → Answers .ctxDestroy s fun t => t.ctx c = {} ∧ (∀ j, j ≠ c → t.ctx j = s.ctx j) ∧
        CommandEnds s t 0 0 ∧ (∀ b, cx.guards b = true → sget false t.mem.prot b = false) ∧
        ∀ x ∈ t.fab.exports, bitsN x.2 103 99 ≠ c)) ∧
    (∀ img, AtHead s 0x03 433 w → cx.commit = none → ImageAt s (w / 2 ^ 433 % 2 ^ 26 * 64) 1024 img → swf false s.mem.prot = true →
      let es := (List.range 64).map fun i => img / 2 ^ (128 * i) % 2 ^ 128
      (cx.live = false → Refuses .segCommit s 2) ∧
      (∀ i, cx.live = true → s.firstBad es = some i → Answers .segCommit s fun t => t.ctxs = s.ctxs ∧ CommandEnds s t 1 i) ∧
      (cx.live = true → s.firstBad es = none → Answers .segCommit s fun t => Begun s t ∧ (t.ctx c).commit ≠ none ∧
        (∀ i, i < 64 → sget 0 (t.ctx c).seg i = img / 2 ^ (128 * i) % 2 ^ 128) ∧ (∀ b ∈ protBlocks es, sget false t.mem.prot b = true) ∧
        t.mem.bytes = s.mem.bytes)) ∧
    (AtHead s 0x04 395 w → swf {} s.hods = true → cx.shoot = false →
      let first := w / 2 ^ 427 % 2 ^ 32
      let n := w / 2 ^ 395 % 2 ^ 32
      (cx.live = false → Refuses .shootdown s 2) ∧
      (cx.live = true → Answers .shootdown s fun t => (t.ctx c).shoot = true ∧ Begun s t ∧ t.mem.bytes = s.mem.bytes ∧
        ∀ core, ∀ e ∈ (t.hod core).tc, ¬ (e.ctx = c ∧ (n = 0 ∨ first ≤ e.page ∧ e.page < first + n)))) ∧
    (∀ e, AtHead s 0x05 427 w → ImageAt s (w / 2 ^ 427 % 2 ^ 28 * 16) 16 e → swf 0 cx.hwin = true →
      let i := w / 2 ^ 455 % 16
      (cx.live = false → Refuses .hwinSet s 2) ∧ (cx.live = true → hwinBad e = true → Refuses .hwinSet s 1) ∧
      (cx.live = true → hwinBad e = false → Answers .hwinSet s fun t => CommandEnds s t 0 0 ∧
        ∀ j, sget 0 (t.ctx c).hwin j = if j = i then e else sget 0 cx.hwin j)) ∧
    (∀ e, AtHead s 0x06 430 w → ImageAt s (w / 2 ^ 430 % 2 ^ 28 * 16) 16 e → swf 0 s.fab.exports = true →
      (s.exportBad e = true → Refuses .exportSet s 1) ∧
      (s.exportBad e = false → Answers .exportSet s fun t => t = { s with mem := t.mem, ptr := t.ptr, traffic := t.traffic, fab := t.fab } ∧ CommandEnds s t 0 0 ∧
        ∀ j, sget 0 t.fab.exports j = if j = w / 2 ^ 458 % 64 then e else sget 0 s.fab.exports j)) ∧
    (∀ img, AtHead s 0x07 438 w → ImageAt s (w / 2 ^ 438 % 2 ^ 26 * 64) 16448 img →
      let entry (d : Nat) : Nat := img / 2 ^ (512 + 16 * d) % 2 ^ 16
      let good : Prop := img / 2 ^ 13 % 2 ^ 499 = 0 ∧ ∀ d, d < 8192 → entry d / 2 ^ 11 % 16 ≤ 11 ∧ entry d / 2 ^ 7 % 16 ≤ 11 ∧ entry d % 64 = 0
      (¬ good → Refuses .routeSet s 1) ∧
      (good → img % 2 ^ 13 ≠ s.fab.devid → s.fabricBusy = true → Refuses .routeSet s 2) ∧
      (good → img % 2 ^ 13 = s.fab.devid ∨ s.fabricBusy = false → Answers .routeSet s fun t => CommandEnds s t 0 0 ∧
        t.fab.devid = img % 2 ^ 13 ∧ ∀ d, d < 8192 → sget 0 t.fab.routes d = entry d)) ∧
    (AtHead s 0x08 425 w → swf {} s.hods = true →
      let core := w / 2 ^ 456 % 256
      let k := w / 2 ^ 425 % 32
      let pa := w / 2 ^ 430 % 2 ^ 26 * 64
      let q := (s.hod core).queue 16
      swf {} (s.hod core).qs = true → q.nseq < 2 ^ 18 →
      (191 < core ∨ s.physOk pa 64 = false → Refuses .hodPlace s 1) ∧
      (core ≤ 191 → s.physOk pa 64 = true → (s.ctx k).live = false ∨ s.hodFull core 16 = true → Refuses .hodPlace s 2) ∧
      (core ≤ 191 → s.physOk pa 64 = true → (s.ctx k).live = true → s.hodFull core 16 = false → Answers .hodPlace s fun t =>
        CommandEnds s t 0 (2 ^ 31 + core * 2 ^ 22 + q.nseq) ∧
        ∃ x, ((t.hod core).queue 16).cmds = q.cmds ++ [x] ∧ x.op = 0 ∧ x.ctx = k ∧ x.recAddr = pa ∧ x.recPhys = true ∧ x.seq = q.nseq)) ∧
    (∀ i tk wid, AtHead s 0x0d 426 w → swf {} cx.dir = true → swf none s.warps = true → swf none s.teams = true →
      let h := w / 2 ^ 427 % 2 ^ 32
      (cx.liveWork h = none → Answers .resume s fun t => t = { s with mem := t.mem, ptr := t.ptr, traffic := t.traffic } ∧ CommandEnds s t 0 1) ∧
      (cx.liveWork h = some (.warp tk wid) → s.workSaved (.warp tk wid) = false → s.warpKey tk wid = some i → w / 2 ^ 426 % 2 = 0 →
        ∀ x a b d n m, s.warp i = some x → x.status = .parked → x.park = some (a, b, d, n, m) → (∀ y, s.team tk = some y → y.tcb = none) →
          Answers .resume s fun t => CommandEnds s t 0 0 ∧ (t.ctx c).liveWork h = none ∧ t.belay = s.belay ∧
            t.warp i = some { x with park := none, detail := [], yv := 0, age := s.clk, status := .resident })) ∧
    (∀ tk wid y, AtHead s 0x0e 427 w → swf {} cx.dir = true → swf none s.teams = true → swf none s.launches = true →
      let h := w / 2 ^ 427 % 2 ^ 32
      (cx.liveWork h = none → Answers .kill s fun t => t = { s with mem := t.mem, ptr := t.ptr, traffic := t.traffic } ∧ CommandEnds s t 0 1) ∧
      (cx.liveWork h = some (.warp tk wid) → s.team tk = some y → y.status = .saved → Answers .kill s fun t => CommandEnds s t 0 0 ∧
        (t.ctx c).liveWork h = none ∧ t.team tk = some { y with changes := y.changes ++ [(.warp tk wid, true, 0)] }) ∧
      (∀ l, cx.liveWork h = some (.warp tk wid) → s.team tk = some y → y.status = .started → y.preempt ≠ 1 → y.restoring = false → s.launch y.launch = some l →
        Answers .kill s fun t => CommandEnds s t 0 0 ∧ (t.ctx c).liveWork h = none ∧
          ∃ l', t.launch y.launch = some l' ∧ l'.failed = true))

/-- 14 R366, R379; 16 R446; 17 R454; 18 R462, R466-R468: the commands on rings, pipelines, partitions, margins, the life cycle, the display links and
attestation. -/
def Obligations.PipelineAndPlatformCommands : Prop :=
  ∀ (s : State) (w : Nat), swf {} s.pipes = true → Memory.wf s.mem.bytes = true →
    let pp := w / 2 ^ 462 % 4
    let p := s.pipe pp
    let read := if s.ptr.begun then s else (s.devRead s.ptr.cqAddr 64).2
    (∀ d, AtHead s 0x09 432 w → ImageAt s (w / 2 ^ 432 % 2 ^ 28 * 16) 16 d → swf 0 s.rings = true →
      let r := w / 2 ^ 460 % 16
      (s.ringNamed r = true → Refuses .ringSet s 2) ∧
      (s.ringNamed r = false → Answers .ringSet s fun t => t = { s with mem := t.mem, ptr := t.ptr, traffic := t.traffic, rings := t.rings } ∧ CommandEnds s t 0 0 ∧
        ∀ j, t.ringDesc j = if j = r then d else s.ringDesc j)) ∧
    (∀ x, AtHead s 0x0a 431 w → ImageAt s (w / 2 ^ 436 % 2 ^ 26 * 64) 128 x →
      let c := w / 2 ^ 431 % 32
      (p.en = true ∨ (s.ctx c).live = false → Refuses .pipeSet s 2) ∧
      (p.en = false → (s.ctx c).live = true → Answers .pipeSet s fun t => t = { s with mem := t.mem, ptr := t.ptr, traffic := t.traffic, pipes := t.pipes } ∧
        CommandEnds s t 0 0 ∧ t.pipe pp = { p with image := x, ctx := c, set := true } ∧ ∀ j, j ≠ pp → t.pipe j = s.pipe j)) ∧
    (AtHead s 0x0b 462 w →
      let x := p.image
      let fine : Prop := p.set = true ∧ pipeRecBad x = false ∧ s.pipeRingsBad x = false ∧ pUps x = false
      (p.en = true → Refuses .pipeEnable s 2) ∧ (p.en = false → p.set = false → Refuses .pipeEnable s 1) ∧
      (p.en = false → pipeRecBad x = true ∨ s.pipeRingsBad x = true → Refuses .pipeEnable s 1) ∧
      (∀ nodes r, p.en = false → fine → templateFrom p.ctx (pChain x) 8 0 [] read = (some nodes, r) → s.teams = [] →
        let rsv := nodes.foldl (fun m y => m ||| nRsv y) 0
        let budget := nodes.foldl (fun a y => a + nBudget y) 0
        (pWin x < (17 * budget + 15) / 16 ∨ s.rsvUnion &&& rsv ≠ 0 → Refuses .pipeEnable s 3) ∧
        ((17 * budget + 15) / 16 ≤ pWin x → s.rsvUnion &&& rsv = 0 → Answers .pipeEnable s fun t => t = { s with mem := t.mem, ptr := t.ptr, traffic := t.traffic, pipes := t.pipes } ∧
          CommandEnds s t 0 0 ∧ (t.pipe pp).en = true ∧ (t.pipe pp).image = x ∧ (t.pipe pp).nodes = nodes ∧ (t.pipe pp).rsv = rsv ∧
          (t.pipe pp).cur = none ∧ (t.pipe pp).ctr = {}))) ∧
    (AtHead s 0x0c 462 w → (p.en = false → Refuses .pipeDisable s 2) ∧
      (p.en = true → p.held = [] → p.bins = [] → Answers .pipeDisable s fun t => CommandEnds s t 0 0 ∧
        t.pipe pp = { image := p.image, ctx := p.ctx, set := true, ctr := p.ctr })) ∧
    (∀ n, AtHead s 0x0f 246 w → s.swap = none → (∀ k, k < 192 → bitN (w / 2 ^ 272 % 2 ^ 192) k = bitN (w / 2 ^ 272 % 2 ^ 192) (partner k)) →
      ImageAt s (w / 2 ^ 246 % 2 ^ 26 * 64) 4 n → n = 0 → (∀ x ∈ s.teams, ∀ y, x.2 = some y → (s.ctx y.ctx).sv = true ∧ (y.ash = true → (s.ctx y.ctx).av = true)) →
      swf none s.teams = true → Answers .pswap s fun t => Begun s t ∧ t.mem.bytes = s.mem.bytes ∧ t.swap = some (w / 2 ^ 272 % 2 ^ 192, []) ∧
        ∀ tk y, s.team tk = some y → y.status = .started → (y.coresAt y.core).any (bitN (w / 2 ^ 272 % 2 ^ 192)) = true →
          t.team tk = some { y with preempt := 1 }) ∧
    (∀ mask ks, s.swap = some (mask, ks) → (s.swapOver mask ks = false → exec .pswap s = .next s) ∧
      (s.swapOver mask ks = true → Answers .pswap s fun t => t.swap = none ∧ CommandEnds s t 0 0)) ∧
    (AtHead s 0x10 463 w → swf none s.margins = true →
      let rail := w / 2 ^ 463 % 2
      ((∀ m, sget none s.margins rail = some m → m.pos ≠ s.ptr.cqhead) → Answers .margin s fun t => Begun s t ∧ t.mem.bytes = s.mem.bytes ∧
        ∃ m, sget none t.margins rail = some m ∧ m.rail = rail ∧ m.pos = s.ptr.cqhead ∧ m.since = s.clk) ∧
      (∀ m, sget none s.margins rail = some m → m.pos = s.ptr.cqhead → m.isOver = true → Answers .margin s fun t => CommandEnds s t 0 m.safe)) ∧
    (AtHead s 0x11 435 w →
      let to_ := w / 2 ^ 461 % 8
      (to_ = 0 ∨ to_ = 2 ∧ s.life.lcs = 3 → Answers .lifecycle s fun t => t.life.wiping = true ∧ t.life.token = if to_ = 0 then 0 else s.life.token) ∧
      (∀ x, to_ = 3 → s.life.lcs = 2 → let pa := w / 2 ^ 435 % 2 ^ 26 * 64
        pa / 2 ^ 24 = (pa + 195) / 2 ^ 24 → ImageAt s pa 196 x → (s.tokenOk x 3 = false → Refuses .lifecycle s 5) ∧
        (s.tokenOk x 3 = true → Answers .lifecycle s fun t => t.life.wiping = true ∧ t.life.lcs = 3 ∧ t.life.token = x / 2 ^ 160 % 2 ^ 32)) ∧
      (to_ = 1 ∨ 3 < to_ ∨ to_ = 2 ∧ s.life.lcs = 2 ∨ to_ = 3 ∧ s.life.lcs = 3 → Refuses .lifecycle s 2)) ∧
    (AtHead s 0x12 457 w → swf {} s.dps = true →
      let po := w / 2 ^ 462 % 4
      let lanes := w / 2 ^ 460 % 4
      let rate := w / 2 ^ 457 % 8
      (2 < lanes ∨ 4 < rate → Refuses .dpTrain s 1) ∧
      (lanes ≤ 2 → rate ≤ 4 → Answers .dpTrain s fun t => t = { s with mem := t.mem, ptr := t.ptr, traffic := t.traffic, dps := t.dps, fresh := t.fresh } ∧
        let o : DpOut := sget {} t.dps po
        (o.trained = false ∧ CommandEnds s t 4 0) ∨
          (o.trained = true ∧ o.rate ≤ rate ∧ o.lanes ≤ lanes ∧ CommandEnds s t 0 (o.rate + o.lanes * 8)))) ∧
    (AtHead s 0x13 308 w → Answers .auxXfer s fun t => t = { s with mem := t.mem, ptr := t.ptr, traffic := t.traffic, fresh := t.fresh } ∧
      ∃ done reply, done ≤ w / 2 ^ 436 % 16 + 1 ∧ reply < 4 ∧ CommandEnds s t 0 (done + reply * 256)) ∧
    (∀ nonce, AtHead s 0x14 438 w → s.physOk (w / 2 ^ 438 % 2 ^ 26 * 64) 340 = true → s.life.digest < 2 ^ 512 → s.life.lcs < 2 ^ 64 →
      ImageAt s (w / 2 ^ 438 % 2 ^ 26 * 64) 64 nonce → Answers .attest s fun t =>
        t = { s with mem := t.mem, ptr := t.ptr, traffic := t.traffic, fresh := t.fresh } ∧ CommandEnds s t 0 0 ∧
        (s.ptr.cqAddr + 64 ≤ w / 2 ^ 438 % 2 ^ 26 * 64 ∨ w / 2 ^ 438 % 2 ^ 26 * 64 + 340 ≤ s.ptr.cqAddr →
          let at_ (i n : Nat) : Nat := memRead t.mem.bytes (w / 2 ^ 438 % 2 ^ 26 * 64 + i) n
          at_ 64 64 = nonce ∧ at_ 128 64 = s.life.digest ∧ at_ 192 8 = s.life.lcs ∧ at_ 200 8 = Config.serial.toNat ∧
          ∃ k, 0 < k ∧ k < n521 ∧ at_ 208 132 = leOf (signature identityKey k (bytesOf (at_ 64 144) 144))))

/-! ### Lane faults -/

/-- 16 R420, R421; 06 R165: where some active lanes of a load name misaligned addresses, those lanes part from the path as one fragment
with the warp's next identity, and the others complete and go on; where all do, the path itself becomes the fragment and no
register changes. No byte of memory changes. -/
def Obligations.LaneFaultsMakeAFragment : Prop :=
  ∀ (s : State) (key nid : Nat) (lit : Word) (w : Warp) (d a z sc : Nat) (pa : Nat → Nat), Issues s key nid lit w →
    let c := seen true s key nid lit w
    let bad := (lanesOf c.act).filter fun l => laneVa c a 0 z l % 2 ^ z != 0
    let fid := nextFrag w.fseq
    let parked (n : Node) (m : LaneMask) : Prop := n.kind = .frag ∧ n.pc = c.p.pc ∧ n.mask = m ∧ n.fcode = 3 ∧ n.fragId = fid ∧ n.fmask = maskOf bad
    z ≤ 4 → addrOk a = true → d ≤ 95 → regSpan d z = true → isS d = false → c.p.kind = .path → bad ≠ [] →
    (∀ l ∈ lanesOf c.act, (c.addr a l).2 = false) →
    (∀ l ∈ lanesOf c.act, l ∉ bad → s.translate key (laneVa c a 0 z l) (2 ^ z) needR = .ok (pa l)) →
    ∀ i ∈ [Instr.ld d a 0 z, .ldaq d a 0 z sc],
      (bad = lanesOf c.act → Answers i s fun t => parked (t.node key nid) c.p.mask ∧ t.mem.bytes = s.mem.bytes ∧
        ∃ w', t.warp key = some w' ∧ w'.fseq = fid ∧ w'.v = w.v ∧ w'.s = w.s ∧ w'.p = w.p ∧ w'.status = w.status) ∧
      (∀ e f, bad ≠ lanesOf c.act → s.mayTake key 2 = true → s.freeEntries key 2 = [e, f] → e ≠ nid → f ≠ nid → Answers i s fun t =>
        (t.node key nid).kind = .split ∧ parked (t.node key f) (maskOf bad) ∧ (t.node key f).parent = nid ∧
        (t.node key e).kind = .path ∧ (t.node key e).mask = c.p.mask &&& ~~~(maskOf bad) ∧ (t.node key e).pc = c.npc [a] ∧
        (t.node key e).parent = nid ∧ t.mem.bytes = s.mem.bytes ∧
        ∃ w', t.warp key = some w' ∧ w'.fseq = fid ∧ w'.status = w.status ∧ ∀ l ∈ bad, ∀ pos, w'.vAt pos l = w.vAt pos l)

/-! ### The machine as a whole -/

/-- 07 R179, R194; 01 R37; 02 R51-R53; 15 R414, R417; 17 R452; logs 1, 125: a step whose agent is a warp that may issue fetches its path's word
and literal, decodes and runs exactly that instruction, with the issue noted, and what it leaves stands where the reservations succeed;
where they fail, nothing of it stands and the attempt is counted; one that would reserve after its sub-core's attempt of the clk makes none;
where its engine's queue is full, it runs as one that does not issue; one that is held back is counted as held, and one that is no
candidate changes nothing but what its fetch leaves. A step whose agent is an event runs that event,
and one that passes time advances the clk; where nothing is in flight, no host write and no record of a log waits, memory is then as
before. -/
def Obligations.StepRunsTheDecodedInstruction : Prop :=
  ∀ (s : State) (rest : List Act), let s0 : State := { s with agenda := rest }
    (∀ key nid pa word i lit, s.agenda = .issue key :: rest → s0.issuable key = true → s0.boundary key = none → s0.choosePath key = some nid →
      let pc := (s0.node key nid).pc.toNat
      let f := s0.noteFetch key pc
      f.translate key pc 4 needX = .ok pa → f.mem.poisoned (granOf pa) = false → sget false f.mem.ueLat (granOf pa) = false →
      word = memRead s.mem.bytes pa 4 → decode word = .ok i →
      (i.literal = false ∧ lit = 0#32 ∨ i.literal = true ∧ ∃ pb, f.translate key ((pc + 4) % 2 ^ 32) 4 needX = .ok pb ∧
        f.mem.poisoned (granOf pb) = false ∧ sget false f.mem.ueLat (granOf pb) = false ∧ lit = BitVec.ofNat 32 (memRead s.mem.bytes pb 4)) →
      f.mem.bytes = s.mem.bytes ∧
      (f.mayIssue key nid i = false → step s = .next f) ∧
      (f.mayIssue key nid i = true → f.heldBack key nid i = true → step s = .next ((f.noteHeld key).choose key nid)) ∧
      (f.mayIssue key nid i = true → f.heldBack key nid i = false → f.queueWait key nid i = true →
        step s = clearCur (exec i ((f.choose key nid).withCur key nid lit))) ∧
      (∀ t, f.mayIssue key nid i = true → f.heldBack key nid i = false → f.queueWait key nid i = false →
        exec i (f.issueState key nid i lit) = .next t →
        let late : Prop := t.cal ≠ f.cal ∧ s.clk < sget 0 f.tried (key / 8)
        (late → step s = .next f) ∧
        (¬ late → f.fits t key = true → step s = .next { f.noteResult t key nid i with cur := none }) ∧
        (¬ late → f.fits t key = false → step s = .next (f.attemptFails key nid t)))) ∧
    (∀ i, s.agenda = .event i :: rest → i.isEvent = true → step s = exec i { s with agenda := rest, cur := none }) ∧
    (∀ n, s.agenda = .tick n :: rest → ∃ t, step s = .next t ∧ t.agenda = rest ∧ (s.ctlQ = [] → t.clk = s.clk + n) ∧
      (s.flights = [] → s.slotsHeld = [] → s.hostQ = [] → s.ctlQ = [] → s.ptr.jq = [] → s.ptr.fq = [] → t.mem = s.mem))

/-- 07 R192 and the entries' encodings: words of several families, written out in the spec, decode to the instructions they stand for. -/
def Obligations.WordsOfTheSpecDecode : Prop :=
  decodeTableWord 32 0x4c07280d = some (.mov 0 1 101) ∧ decodeTableWord 32 0x40040820 = some (.addW 0 1 1 2) ∧
    decodeTableWord 32 0x00486004 = some (.srd 67 4) ∧ decodeTableWord 32 0x48142ffd = some (.addiW 0 5 5 0x7fd) ∧
    decodeTableWord 32 0x087ffffd = some (.bra 0 1 0x3ffffd) ∧ decodeTableWord 32 0x00100000 = some .exit ∧
    decodeTableWord 32 0x201b0042 = some (.mul 0 6 96 4) ∧
    decodeTableWord 32 0x70080e84 = some (.shflUp 0 2 1 104) ∧ decodeTableWord 32 0xffffffff = none

/-- 07 R189-R194: encoding and decoding agree. Every well-formed instruction that has a word is what its word decodes to; every word
that decodes gives a well-formed instruction with that very word. -/
def Obligations.EncodeAndDecodeAgree : Prop :=
  (∀ i w, i.wellFormed = true → encode i = some w → w < 2 ^ 32 ∧ decode w = .ok i) ∧
    ∀ w i, w < 2 ^ 32 → decode w = .ok i → i.wellFormed = true ∧ encode i = some w

/-- Every step keeps the memory in its one canonical form: addresses rising, no byte listed that reads as an unlisted one. -/
def Obligations.EveryStepKeepsTheMemoryForm : Prop :=
  ∀ s t : State, Memory.wf s.mem.bytes = true → step s = .next t → Memory.wf t.mem.bytes = true

/-- Every table that the statements of this file read is in canonical form: keys rising, and no entry that reads as an unlisted key
does. -/
structure Sys2Proof.Says.TablesInForm (s : State) : Prop where
  marks : swf false s.mem.psn = true ∧ swf false s.mem.ueLat = true ∧ swf false s.mem.ceLat = true ∧ swf false s.mem.prot = true
  counters : swf {} s.mem.ctr = true ∧ swf {} s.mem.mon = true
  monitors : swf [] s.mem.cairn = true
  traffic : swf [] s.traffic = true ∧ swf 0 s.hostSlot = true
  bursts : swf false s.lp.ceLat = true ∧ swf false s.lp.ueLat = true
  warps : swf none s.warps = true ∧ swf {} s.belay = true
  teams : swf none s.teams = true ∧ swf none s.launches = true ∧ swf {} s.queues = true ∧ swf none s.walkers = true
  contexts : swf {} s.ctxs = true
  strips : swf {} s.pipes = true ∧ swf 0 s.rings = true ∧ swf {} s.slots = true ∧ swf {} s.dps = true ∧ swf 0 s.encAt = true
  engines : swf {} s.hods = true ∧ swf {} s.fabs = true ∧ swf {} s.ashs = true ∧ swf .empty s.latches = true ∧ swf {} s.lp.sub = true
  platform : swf {} s.clusters = true ∧ swf none s.margins = true ∧ swf 0 s.fab.routes = true ∧ swf 0 s.fab.exports = true ∧
    swf false s.fab.down = true
  inWarps : ∀ k w, s.warp k = some w → swf {} w.v = true ∧ swf {} w.s = true ∧ swf 0#96 w.p = true ∧ swf {} w.y = true ∧
    swf noHit w.hits = true ∧ swf 0 w.colour = true ∧ swf false w.emitted = true
  inTeams : ∀ k tm, s.team k = some tm → swf 0 tm.mesh.verts = true ∧ swf 0 tm.mesh.prims = true
  inContexts : ∀ k, swf {} (s.ctx k).dir = true ∧ swf 0 (s.ctx k).hwin = true
  inHods : ∀ k, swf {} (s.hod k).qs = true ∧ swf none (s.hod k).slots = true
  inChannels : ∀ q, swf 0 (s.lp.subOf q).busy = true ∧ swf [] (s.lp.subOf q).accq = true
  inAshlars : ∀ k, swf 0#8 (s.ash k).tiles = true ∧ swf 127 (s.ash k).scales = true ∧ swf {} (s.ash k).acc = true ∧
    swf false (s.ash k).epsn = true
  inPipes : ∀ k, swf 0 (s.pipe k).lev = true
  inWalkers : ∀ k w, s.walker k = some w → swf {} w.nodes = true
  inClusters : ∀ k, swf {} (s.cluster k).sensors = true

/-- Every step keeps every table of the state in its one canonical form: the premises of that kind in the statements above hold in every
state that the machine reaches from one where they hold. -/
def Obligations.EveryStepKeepsTheTables : Prop :=
  ∀ s t : State, TablesInForm s → step s = .next t → TablesInForm t

/-- 16 R418: no fault of the hardware stops the machine: every step, from every state, answers a next state. -/
def Obligations.EveryStepAnswersANextState : Prop := ∀ s : State, ∃ t, step s = .next t

/-- 02 R45, R66; 14 R363; 18 R466: what the spec says of the machine after reset: the clk and the timebase are zero with the increment's reset
value, the life cycle is in BOOT with the wipe in progress, every byte of SRAM reads zero and none is poisoned, and there are no
contexts, warps, teams or launches; every table is in canonical form. The timebase's 64-bit form of the increment is as its table gives it. -/
def Obligations.ResetValues : Prop :=
  State.reset.clk = 0 ∧ State.reset.tbase.now = 0 ∧ State.reset.tbase.inc = 0x00f3cf3cf4 ∧ State.reset.life.lcs = 0 ∧
    State.reset.life.wiping = true ∧ Memory.wf State.reset.mem.bytes = true ∧
    (∀ a, memByte State.reset.mem.bytes a = 0#8 ∧ State.reset.mem.poisoned (granOf a) = false ∧ sget false State.reset.mem.prot (a / 65536) = false) ∧
    (∀ k, (State.reset.ctx k).live = false ∧ State.reset.warp k = none ∧ State.reset.team k = none ∧ State.reset.launch k = none) ∧
    TablesInForm State.reset
end

