-- ==== Sys2Proof/Laws/State.lean ====
section
/-! SUPPORT. What each named update of State leaves as it was, field by field (one lemma per field per update), and what the
updated field reads as. -/
namespace Sys2Proof.Machine

/-! ### `State.setMem` -/

@[simp] theorem State.setMem_agenda (s : State) (m : Sram) : (s.setMem m).agenda = s.agenda := rfl
@[simp] theorem State.setMem_cur (s : State) (m : Sram) : (s.setMem m).cur = s.cur := rfl
@[simp] theorem State.setMem_fresh (s : State) (m : Sram) : (s.setMem m).fresh = s.fresh := rfl
@[simp] theorem State.setMem_clk (s : State) (m : Sram) : (s.setMem m).clk = s.clk := rfl
@[simp] theorem State.setMem_tbase (s : State) (m : Sram) : (s.setMem m).tbase = s.tbase := rfl
@[simp] theorem State.setMem_mem (s : State) (m : Sram) : (s.setMem m).mem = m := rfl
@[simp] theorem State.setMem_ctxs (s : State) (m : Sram) : (s.setMem m).ctxs = s.ctxs := rfl
@[simp] theorem State.setMem_warps (s : State) (m : Sram) : (s.setMem m).warps = s.warps := rfl
@[simp] theorem State.setMem_belay (s : State) (m : Sram) : (s.setMem m).belay = s.belay := rfl
@[simp] theorem State.setMem_heavy (s : State) (m : Sram) : (s.setMem m).heavy = s.heavy := rfl
@[simp] theorem State.setMem_teams (s : State) (m : Sram) : (s.setMem m).teams = s.teams := rfl
@[simp] theorem State.setMem_launches (s : State) (m : Sram) : (s.setMem m).launches = s.launches := rfl
@[simp] theorem State.setMem_teamSeq (s : State) (m : Sram) : (s.setMem m).teamSeq = s.teamSeq := rfl
@[simp] theorem State.setMem_launchCtr (s : State) (m : Sram) : (s.setMem m).launchCtr = s.launchCtr := rfl
@[simp] theorem State.setMem_queues (s : State) (m : Sram) : (s.setMem m).queues = s.queues := rfl
@[simp] theorem State.setMem_arb (s : State) (m : Sram) : (s.setMem m).arb = s.arb := rfl
@[simp] theorem State.setMem_taskQ (s : State) (m : Sram) : (s.setMem m).taskQ = s.taskQ := rfl
@[simp] theorem State.setMem_waitTasks (s : State) (m : Sram) : (s.setMem m).waitTasks = s.waitTasks := rfl
@[simp] theorem State.setMem_chainQ (s : State) (m : Sram) : (s.setMem m).chainQ = s.chainQ := rfl
@[simp] theorem State.setMem_binQ (s : State) (m : Sram) : (s.setMem m).binQ = s.binQ := rfl
@[simp] theorem State.setMem_savedQ (s : State) (m : Sram) : (s.setMem m).savedQ = s.savedQ := rfl
@[simp] theorem State.setMem_swap (s : State) (m : Sram) : (s.setMem m).swap = s.swap := rfl
@[simp] theorem State.setMem_walkers (s : State) (m : Sram) : (s.setMem m).walkers = s.walkers := rfl
@[simp] theorem State.setMem_pipes (s : State) (m : Sram) : (s.setMem m).pipes = s.pipes := rfl
@[simp] theorem State.setMem_rings (s : State) (m : Sram) : (s.setMem m).rings = s.rings := rfl
@[simp] theorem State.setMem_slots (s : State) (m : Sram) : (s.setMem m).slots = s.slots := rfl
@[simp] theorem State.setMem_dps (s : State) (m : Sram) : (s.setMem m).dps = s.dps := rfl
@[simp] theorem State.setMem_hostData (s : State) (m : Sram) : (s.setMem m).hostData = s.hostData := rfl
@[simp] theorem State.setMem_flights (s : State) (m : Sram) : (s.setMem m).flights = s.flights := rfl
@[simp] theorem State.setMem_slotsHeld (s : State) (m : Sram) : (s.setMem m).slotsHeld = s.slotsHeld := rfl
@[simp] theorem State.setMem_cal (s : State) (m : Sram) : (s.setMem m).cal = s.cal := rfl
@[simp] theorem State.setMem_hostQ (s : State) (m : Sram) : (s.setMem m).hostQ = s.hostQ := rfl
@[simp] theorem State.setMem_hostGap (s : State) (m : Sram) : (s.setMem m).hostGap = s.hostGap := rfl
@[simp] theorem State.setMem_ctlQ (s : State) (m : Sram) : (s.setMem m).ctlQ = s.ctlQ := rfl
@[simp] theorem State.setMem_slotTill (s : State) (m : Sram) : (s.setMem m).slotTill = s.slotTill := rfl
@[simp] theorem State.setMem_traffic (s : State) (m : Sram) : (s.setMem m).traffic = s.traffic := rfl
@[simp] theorem State.setMem_hostRds (s : State) (m : Sram) : (s.setMem m).hostRds = s.hostRds := rfl
@[simp] theorem State.setMem_hostSeq (s : State) (m : Sram) : (s.setMem m).hostSeq = s.hostSeq := rfl
@[simp] theorem State.setMem_hostSlot (s : State) (m : Sram) : (s.setMem m).hostSlot = s.hostSlot := rfl
@[simp] theorem State.setMem_tried (s : State) (m : Sram) : (s.setMem m).tried = s.tried := rfl
@[simp] theorem State.setMem_throtTill (s : State) (m : Sram) : (s.setMem m).throtTill = s.throtTill := rfl
@[simp] theorem State.setMem_stageWait (s : State) (m : Sram) : (s.setMem m).stageWait = s.stageWait := rfl
@[simp] theorem State.setMem_portNext (s : State) (m : Sram) : (s.setMem m).portNext = s.portNext := rfl
@[simp] theorem State.setMem_encAt (s : State) (m : Sram) : (s.setMem m).encAt = s.encAt := rfl
@[simp] theorem State.setMem_hostErr (s : State) (m : Sram) : (s.setMem m).hostErr = s.hostErr := rfl
@[simp] theorem State.setMem_peerStat (s : State) (m : Sram) : (s.setMem m).peerStat = s.peerStat := rfl
@[simp] theorem State.setMem_peerData (s : State) (m : Sram) : (s.setMem m).peerData = s.peerData := rfl
@[simp] theorem State.setMem_peerPsn (s : State) (m : Sram) : (s.setMem m).peerPsn = s.peerPsn := rfl
@[simp] theorem State.setMem_hostPsn (s : State) (m : Sram) : (s.setMem m).hostPsn = s.hostPsn := rfl
@[simp] theorem State.setMem_hods (s : State) (m : Sram) : (s.setMem m).hods = s.hods := rfl
@[simp] theorem State.setMem_autoFrags (s : State) (m : Sram) : (s.setMem m).autoFrags = s.autoFrags := rfl
@[simp] theorem State.setMem_copyDone (s : State) (m : Sram) : (s.setMem m).copyDone = s.copyDone := rfl
@[simp] theorem State.setMem_lp (s : State) (m : Sram) : (s.setMem m).lp = s.lp := rfl
@[simp] theorem State.setMem_dirCaches (s : State) (m : Sram) : (s.setMem m).dirCaches = s.dirCaches := rfl
@[simp] theorem State.setMem_fabs (s : State) (m : Sram) : (s.setMem m).fabs = s.fabs := rfl
@[simp] theorem State.setMem_ashs (s : State) (m : Sram) : (s.setMem m).ashs = s.ashs := rfl
@[simp] theorem State.setMem_ashTurn (s : State) (m : Sram) : (s.setMem m).ashTurn = s.ashTurn := rfl
@[simp] theorem State.setMem_latches (s : State) (m : Sram) : (s.setMem m).latches = s.latches := rfl
@[simp] theorem State.setMem_ptr (s : State) (m : Sram) : (s.setMem m).ptr = s.ptr := rfl
@[simp] theorem State.setMem_life (s : State) (m : Sram) : (s.setMem m).life = s.life := rfl
@[simp] theorem State.setMem_fab (s : State) (m : Sram) : (s.setMem m).fab = s.fab := rfl
@[simp] theorem State.setMem_clusters (s : State) (m : Sram) : (s.setMem m).clusters = s.clusters := rfl
@[simp] theorem State.setMem_margins (s : State) (m : Sram) : (s.setMem m).margins = s.margins := rfl

/-! ### `State.setWarp` -/

@[simp] theorem State.setWarp_agenda (s : State) (key : Nat) (w : Option Warp) : (s.setWarp key w).agenda = s.agenda := rfl
@[simp] theorem State.setWarp_cur (s : State) (key : Nat) (w : Option Warp) : (s.setWarp key w).cur = s.cur := rfl
@[simp] theorem State.setWarp_fresh (s : State) (key : Nat) (w : Option Warp) : (s.setWarp key w).fresh = s.fresh := rfl
@[simp] theorem State.setWarp_clk (s : State) (key : Nat) (w : Option Warp) : (s.setWarp key w).clk = s.clk := rfl
@[simp] theorem State.setWarp_tbase (s : State) (key : Nat) (w : Option Warp) : (s.setWarp key w).tbase = s.tbase := rfl
@[simp] theorem State.setWarp_mem (s : State) (key : Nat) (w : Option Warp) : (s.setWarp key w).mem = s.mem := rfl
@[simp] theorem State.setWarp_ctxs (s : State) (key : Nat) (w : Option Warp) : (s.setWarp key w).ctxs = s.ctxs := rfl
@[simp] theorem State.setWarp_warps (s : State) (key : Nat) (w : Option Warp) : (s.setWarp key w).warps = sput none s.warps key w := rfl
@[simp] theorem State.setWarp_belay (s : State) (key : Nat) (w : Option Warp) : (s.setWarp key w).belay = s.belay := rfl
@[simp] theorem State.setWarp_heavy (s : State) (key : Nat) (w : Option Warp) : (s.setWarp key w).heavy = s.heavy := rfl
@[simp] theorem State.setWarp_teams (s : State) (key : Nat) (w : Option Warp) : (s.setWarp key w).teams = s.teams := rfl
@[simp] theorem State.setWarp_launches (s : State) (key : Nat) (w : Option Warp) : (s.setWarp key w).launches = s.launches := rfl
@[simp] theorem State.setWarp_teamSeq (s : State) (key : Nat) (w : Option Warp) : (s.setWarp key w).teamSeq = s.teamSeq := rfl
@[simp] theorem State.setWarp_launchCtr (s : State) (key : Nat) (w : Option Warp) : (s.setWarp key w).launchCtr = s.launchCtr := rfl
@[simp] theorem State.setWarp_queues (s : State) (key : Nat) (w : Option Warp) : (s.setWarp key w).queues = s.queues := rfl
@[simp] theorem State.setWarp_arb (s : State) (key : Nat) (w : Option Warp) : (s.setWarp key w).arb = s.arb := rfl
@[simp] theorem State.setWarp_taskQ (s : State) (key : Nat) (w : Option Warp) : (s.setWarp key w).taskQ = s.taskQ := rfl
@[simp] theorem State.setWarp_waitTasks (s : State) (key : Nat) (w : Option Warp) : (s.setWarp key w).waitTasks = s.waitTasks := rfl
@[simp] theorem State.setWarp_chainQ (s : State) (key : Nat) (w : Option Warp) : (s.setWarp key w).chainQ = s.chainQ := rfl
@[simp] theorem State.setWarp_binQ (s : State) (key : Nat) (w : Option Warp) : (s.setWarp key w).binQ = s.binQ := rfl
@[simp] theorem State.setWarp_savedQ (s : State) (key : Nat) (w : Option Warp) : (s.setWarp key w).savedQ = s.savedQ := rfl
@[simp] theorem State.setWarp_swap (s : State) (key : Nat) (w : Option Warp) : (s.setWarp key w).swap = s.swap := rfl
@[simp] theorem State.setWarp_walkers (s : State) (key : Nat) (w : Option Warp) : (s.setWarp key w).walkers = s.walkers := rfl
@[simp] theorem State.setWarp_pipes (s : State) (key : Nat) (w : Option Warp) : (s.setWarp key w).pipes = s.pipes := rfl
@[simp] theorem State.setWarp_rings (s : State) (key : Nat) (w : Option Warp) : (s.setWarp key w).rings = s.rings := rfl
@[simp] theorem State.setWarp_slots (s : State) (key : Nat) (w : Option Warp) : (s.setWarp key w).slots = s.slots := rfl
@[simp] theorem State.setWarp_dps (s : State) (key : Nat) (w : Option Warp) : (s.setWarp key w).dps = s.dps := rfl
@[simp] theorem State.setWarp_hostData (s : State) (key : Nat) (w : Option Warp) : (s.setWarp key w).hostData = s.hostData := rfl
@[simp] theorem State.setWarp_flights (s : State) (key : Nat) (w : Option Warp) : (s.setWarp key w).flights = s.flights := rfl
@[simp] theorem State.setWarp_slotsHeld (s : State) (key : Nat) (w : Option Warp) : (s.setWarp key w).slotsHeld = s.slotsHeld := rfl
@[simp] theorem State.setWarp_cal (s : State) (key : Nat) (w : Option Warp) : (s.setWarp key w).cal = s.cal := rfl
@[simp] theorem State.setWarp_hostQ (s : State) (key : Nat) (w : Option Warp) : (s.setWarp key w).hostQ = s.hostQ := rfl
@[simp] theorem State.setWarp_hostGap (s : State) (key : Nat) (w : Option Warp) : (s.setWarp key w).hostGap = s.hostGap := rfl
@[simp] theorem State.setWarp_ctlQ (s : State) (key : Nat) (w : Option Warp) : (s.setWarp key w).ctlQ = s.ctlQ := rfl
@[simp] theorem State.setWarp_slotTill (s : State) (key : Nat) (w : Option Warp) : (s.setWarp key w).slotTill = s.slotTill := rfl
@[simp] theorem State.setWarp_traffic (s : State) (key : Nat) (w : Option Warp) : (s.setWarp key w).traffic = s.traffic := rfl
@[simp] theorem State.setWarp_hostRds (s : State) (key : Nat) (w : Option Warp) : (s.setWarp key w).hostRds = s.hostRds := rfl
@[simp] theorem State.setWarp_hostSeq (s : State) (key : Nat) (w : Option Warp) : (s.setWarp key w).hostSeq = s.hostSeq := rfl
@[simp] theorem State.setWarp_hostSlot (s : State) (key : Nat) (w : Option Warp) : (s.setWarp key w).hostSlot = s.hostSlot := rfl
@[simp] theorem State.setWarp_tried (s : State) (key : Nat) (w : Option Warp) : (s.setWarp key w).tried = s.tried := rfl
@[simp] theorem State.setWarp_throtTill (s : State) (key : Nat) (w : Option Warp) : (s.setWarp key w).throtTill = s.throtTill := rfl
@[simp] theorem State.setWarp_stageWait (s : State) (key : Nat) (w : Option Warp) : (s.setWarp key w).stageWait = s.stageWait := rfl
@[simp] theorem State.setWarp_portNext (s : State) (key : Nat) (w : Option Warp) : (s.setWarp key w).portNext = s.portNext := rfl
@[simp] theorem State.setWarp_encAt (s : State) (key : Nat) (w : Option Warp) : (s.setWarp key w).encAt = s.encAt := rfl
@[simp] theorem State.setWarp_hostErr (s : State) (key : Nat) (w : Option Warp) : (s.setWarp key w).hostErr = s.hostErr := rfl
@[simp] theorem State.setWarp_peerStat (s : State) (key : Nat) (w : Option Warp) : (s.setWarp key w).peerStat = s.peerStat := rfl
@[simp] theorem State.setWarp_peerData (s : State) (key : Nat) (w : Option Warp) : (s.setWarp key w).peerData = s.peerData := rfl
@[simp] theorem State.setWarp_peerPsn (s : State) (key : Nat) (w : Option Warp) : (s.setWarp key w).peerPsn = s.peerPsn := rfl
@[simp] theorem State.setWarp_hostPsn (s : State) (key : Nat) (w : Option Warp) : (s.setWarp key w).hostPsn = s.hostPsn := rfl
@[simp] theorem State.setWarp_hods (s : State) (key : Nat) (w : Option Warp) : (s.setWarp key w).hods = s.hods := rfl
@[simp] theorem State.setWarp_autoFrags (s : State) (key : Nat) (w : Option Warp) : (s.setWarp key w).autoFrags = s.autoFrags := rfl
@[simp] theorem State.setWarp_copyDone (s : State) (key : Nat) (w : Option Warp) : (s.setWarp key w).copyDone = s.copyDone := rfl
@[simp] theorem State.setWarp_lp (s : State) (key : Nat) (w : Option Warp) : (s.setWarp key w).lp = s.lp := rfl
@[simp] theorem State.setWarp_dirCaches (s : State) (key : Nat) (w : Option Warp) : (s.setWarp key w).dirCaches = s.dirCaches := rfl
@[simp] theorem State.setWarp_fabs (s : State) (key : Nat) (w : Option Warp) : (s.setWarp key w).fabs = s.fabs := rfl
@[simp] theorem State.setWarp_ashs (s : State) (key : Nat) (w : Option Warp) : (s.setWarp key w).ashs = s.ashs := rfl
@[simp] theorem State.setWarp_ashTurn (s : State) (key : Nat) (w : Option Warp) : (s.setWarp key w).ashTurn = s.ashTurn := rfl
@[simp] theorem State.setWarp_latches (s : State) (key : Nat) (w : Option Warp) : (s.setWarp key w).latches = s.latches := rfl
@[simp] theorem State.setWarp_ptr (s : State) (key : Nat) (w : Option Warp) : (s.setWarp key w).ptr = s.ptr := rfl
@[simp] theorem State.setWarp_life (s : State) (key : Nat) (w : Option Warp) : (s.setWarp key w).life = s.life := rfl
@[simp] theorem State.setWarp_fab (s : State) (key : Nat) (w : Option Warp) : (s.setWarp key w).fab = s.fab := rfl
@[simp] theorem State.setWarp_clusters (s : State) (key : Nat) (w : Option Warp) : (s.setWarp key w).clusters = s.clusters := rfl
@[simp] theorem State.setWarp_margins (s : State) (key : Nat) (w : Option Warp) : (s.setWarp key w).margins = s.margins := rfl

/-! ### `State.setTeam` -/

@[simp] theorem State.setTeam_agenda (s : State) (k : Nat) (x : Option Team) : (s.setTeam k x).agenda = s.agenda := rfl
@[simp] theorem State.setTeam_cur (s : State) (k : Nat) (x : Option Team) : (s.setTeam k x).cur = s.cur := rfl
@[simp] theorem State.setTeam_fresh (s : State) (k : Nat) (x : Option Team) : (s.setTeam k x).fresh = s.fresh := rfl
@[simp] theorem State.setTeam_clk (s : State) (k : Nat) (x : Option Team) : (s.setTeam k x).clk = s.clk := rfl
@[simp] theorem State.setTeam_tbase (s : State) (k : Nat) (x : Option Team) : (s.setTeam k x).tbase = s.tbase := rfl
@[simp] theorem State.setTeam_mem (s : State) (k : Nat) (x : Option Team) : (s.setTeam k x).mem = s.mem := rfl
@[simp] theorem State.setTeam_ctxs (s : State) (k : Nat) (x : Option Team) : (s.setTeam k x).ctxs = s.ctxs := rfl
@[simp] theorem State.setTeam_warps (s : State) (k : Nat) (x : Option Team) : (s.setTeam k x).warps = s.warps := rfl
@[simp] theorem State.setTeam_belay (s : State) (k : Nat) (x : Option Team) : (s.setTeam k x).belay = s.belay := rfl
@[simp] theorem State.setTeam_heavy (s : State) (k : Nat) (x : Option Team) : (s.setTeam k x).heavy = s.heavy := rfl
@[simp] theorem State.setTeam_teams (s : State) (k : Nat) (x : Option Team) : (s.setTeam k x).teams = sput none s.teams k x := rfl
@[simp] theorem State.setTeam_launches (s : State) (k : Nat) (x : Option Team) : (s.setTeam k x).launches = s.launches := rfl
@[simp] theorem State.setTeam_teamSeq (s : State) (k : Nat) (x : Option Team) : (s.setTeam k x).teamSeq = s.teamSeq := rfl
@[simp] theorem State.setTeam_launchCtr (s : State) (k : Nat) (x : Option Team) : (s.setTeam k x).launchCtr = s.launchCtr := rfl
@[simp] theorem State.setTeam_queues (s : State) (k : Nat) (x : Option Team) : (s.setTeam k x).queues = s.queues := rfl
@[simp] theorem State.setTeam_arb (s : State) (k : Nat) (x : Option Team) : (s.setTeam k x).arb = s.arb := rfl
@[simp] theorem State.setTeam_taskQ (s : State) (k : Nat) (x : Option Team) : (s.setTeam k x).taskQ = s.taskQ := rfl
@[simp] theorem State.setTeam_waitTasks (s : State) (k : Nat) (x : Option Team) : (s.setTeam k x).waitTasks = s.waitTasks := rfl
@[simp] theorem State.setTeam_chainQ (s : State) (k : Nat) (x : Option Team) : (s.setTeam k x).chainQ = s.chainQ := rfl
@[simp] theorem State.setTeam_binQ (s : State) (k : Nat) (x : Option Team) : (s.setTeam k x).binQ = s.binQ := rfl
@[simp] theorem State.setTeam_savedQ (s : State) (k : Nat) (x : Option Team) : (s.setTeam k x).savedQ = s.savedQ := rfl
@[simp] theorem State.setTeam_swap (s : State) (k : Nat) (x : Option Team) : (s.setTeam k x).swap = s.swap := rfl
@[simp] theorem State.setTeam_walkers (s : State) (k : Nat) (x : Option Team) : (s.setTeam k x).walkers = s.walkers := rfl
@[simp] theorem State.setTeam_pipes (s : State) (k : Nat) (x : Option Team) : (s.setTeam k x).pipes = s.pipes := rfl
@[simp] theorem State.setTeam_rings (s : State) (k : Nat) (x : Option Team) : (s.setTeam k x).rings = s.rings := rfl
@[simp] theorem State.setTeam_slots (s : State) (k : Nat) (x : Option Team) : (s.setTeam k x).slots = s.slots := rfl
@[simp] theorem State.setTeam_dps (s : State) (k : Nat) (x : Option Team) : (s.setTeam k x).dps = s.dps := rfl
@[simp] theorem State.setTeam_hostData (s : State) (k : Nat) (x : Option Team) : (s.setTeam k x).hostData = s.hostData := rfl
@[simp] theorem State.setTeam_flights (s : State) (k : Nat) (x : Option Team) : (s.setTeam k x).flights = s.flights := rfl
@[simp] theorem State.setTeam_slotsHeld (s : State) (k : Nat) (x : Option Team) : (s.setTeam k x).slotsHeld = s.slotsHeld := rfl
@[simp] theorem State.setTeam_cal (s : State) (k : Nat) (x : Option Team) : (s.setTeam k x).cal = s.cal := rfl
@[simp] theorem State.setTeam_hostQ (s : State) (k : Nat) (x : Option Team) : (s.setTeam k x).hostQ = s.hostQ := rfl
@[simp] theorem State.setTeam_hostGap (s : State) (k : Nat) (x : Option Team) : (s.setTeam k x).hostGap = s.hostGap := rfl
@[simp] theorem State.setTeam_ctlQ (s : State) (k : Nat) (x : Option Team) : (s.setTeam k x).ctlQ = s.ctlQ := rfl
@[simp] theorem State.setTeam_slotTill (s : State) (k : Nat) (x : Option Team) : (s.setTeam k x).slotTill = s.slotTill := rfl
@[simp] theorem State.setTeam_traffic (s : State) (k : Nat) (x : Option Team) : (s.setTeam k x).traffic = s.traffic := rfl
@[simp] theorem State.setTeam_hostRds (s : State) (k : Nat) (x : Option Team) : (s.setTeam k x).hostRds = s.hostRds := rfl
@[simp] theorem State.setTeam_hostSeq (s : State) (k : Nat) (x : Option Team) : (s.setTeam k x).hostSeq = s.hostSeq := rfl
@[simp] theorem State.setTeam_hostSlot (s : State) (k : Nat) (x : Option Team) : (s.setTeam k x).hostSlot = s.hostSlot := rfl
@[simp] theorem State.setTeam_tried (s : State) (k : Nat) (x : Option Team) : (s.setTeam k x).tried = s.tried := rfl
@[simp] theorem State.setTeam_throtTill (s : State) (k : Nat) (x : Option Team) : (s.setTeam k x).throtTill = s.throtTill := rfl
@[simp] theorem State.setTeam_stageWait (s : State) (k : Nat) (x : Option Team) : (s.setTeam k x).stageWait = s.stageWait := rfl
@[simp] theorem State.setTeam_portNext (s : State) (k : Nat) (x : Option Team) : (s.setTeam k x).portNext = s.portNext := rfl
@[simp] theorem State.setTeam_encAt (s : State) (k : Nat) (x : Option Team) : (s.setTeam k x).encAt = s.encAt := rfl
@[simp] theorem State.setTeam_hostErr (s : State) (k : Nat) (x : Option Team) : (s.setTeam k x).hostErr = s.hostErr := rfl
@[simp] theorem State.setTeam_peerStat (s : State) (k : Nat) (x : Option Team) : (s.setTeam k x).peerStat = s.peerStat := rfl
@[simp] theorem State.setTeam_peerData (s : State) (k : Nat) (x : Option Team) : (s.setTeam k x).peerData = s.peerData := rfl
@[simp] theorem State.setTeam_peerPsn (s : State) (k : Nat) (x : Option Team) : (s.setTeam k x).peerPsn = s.peerPsn := rfl
@[simp] theorem State.setTeam_hostPsn (s : State) (k : Nat) (x : Option Team) : (s.setTeam k x).hostPsn = s.hostPsn := rfl
@[simp] theorem State.setTeam_hods (s : State) (k : Nat) (x : Option Team) : (s.setTeam k x).hods = s.hods := rfl
@[simp] theorem State.setTeam_autoFrags (s : State) (k : Nat) (x : Option Team) : (s.setTeam k x).autoFrags = s.autoFrags := rfl
@[simp] theorem State.setTeam_copyDone (s : State) (k : Nat) (x : Option Team) : (s.setTeam k x).copyDone = s.copyDone := rfl
@[simp] theorem State.setTeam_lp (s : State) (k : Nat) (x : Option Team) : (s.setTeam k x).lp = s.lp := rfl
@[simp] theorem State.setTeam_dirCaches (s : State) (k : Nat) (x : Option Team) : (s.setTeam k x).dirCaches = s.dirCaches := rfl
@[simp] theorem State.setTeam_fabs (s : State) (k : Nat) (x : Option Team) : (s.setTeam k x).fabs = s.fabs := rfl
@[simp] theorem State.setTeam_ashs (s : State) (k : Nat) (x : Option Team) : (s.setTeam k x).ashs = s.ashs := rfl
@[simp] theorem State.setTeam_ashTurn (s : State) (k : Nat) (x : Option Team) : (s.setTeam k x).ashTurn = s.ashTurn := rfl
@[simp] theorem State.setTeam_latches (s : State) (k : Nat) (x : Option Team) : (s.setTeam k x).latches = s.latches := rfl
@[simp] theorem State.setTeam_ptr (s : State) (k : Nat) (x : Option Team) : (s.setTeam k x).ptr = s.ptr := rfl
@[simp] theorem State.setTeam_life (s : State) (k : Nat) (x : Option Team) : (s.setTeam k x).life = s.life := rfl
@[simp] theorem State.setTeam_fab (s : State) (k : Nat) (x : Option Team) : (s.setTeam k x).fab = s.fab := rfl
@[simp] theorem State.setTeam_clusters (s : State) (k : Nat) (x : Option Team) : (s.setTeam k x).clusters = s.clusters := rfl
@[simp] theorem State.setTeam_margins (s : State) (k : Nat) (x : Option Team) : (s.setTeam k x).margins = s.margins := rfl

/-! ### `State.setCtx` -/

@[simp] theorem State.setCtx_agenda (s : State) (k : Nat) (x : Context) : (s.setCtx k x).agenda = s.agenda := rfl
@[simp] theorem State.setCtx_cur (s : State) (k : Nat) (x : Context) : (s.setCtx k x).cur = s.cur := rfl
@[simp] theorem State.setCtx_fresh (s : State) (k : Nat) (x : Context) : (s.setCtx k x).fresh = s.fresh := rfl
@[simp] theorem State.setCtx_clk (s : State) (k : Nat) (x : Context) : (s.setCtx k x).clk = s.clk := rfl
@[simp] theorem State.setCtx_tbase (s : State) (k : Nat) (x : Context) : (s.setCtx k x).tbase = s.tbase := rfl
@[simp] theorem State.setCtx_mem (s : State) (k : Nat) (x : Context) : (s.setCtx k x).mem = s.mem := rfl
@[simp] theorem State.setCtx_ctxs (s : State) (k : Nat) (x : Context) : (s.setCtx k x).ctxs = sput {} s.ctxs k x := rfl
@[simp] theorem State.setCtx_warps (s : State) (k : Nat) (x : Context) : (s.setCtx k x).warps = s.warps := rfl
@[simp] theorem State.setCtx_belay (s : State) (k : Nat) (x : Context) : (s.setCtx k x).belay = s.belay := rfl
@[simp] theorem State.setCtx_heavy (s : State) (k : Nat) (x : Context) : (s.setCtx k x).heavy = s.heavy := rfl
@[simp] theorem State.setCtx_teams (s : State) (k : Nat) (x : Context) : (s.setCtx k x).teams = s.teams := rfl
@[simp] theorem State.setCtx_launches (s : State) (k : Nat) (x : Context) : (s.setCtx k x).launches = s.launches := rfl
@[simp] theorem State.setCtx_teamSeq (s : State) (k : Nat) (x : Context) : (s.setCtx k x).teamSeq = s.teamSeq := rfl
@[simp] theorem State.setCtx_launchCtr (s : State) (k : Nat) (x : Context) : (s.setCtx k x).launchCtr = s.launchCtr := rfl
@[simp] theorem State.setCtx_queues (s : State) (k : Nat) (x : Context) : (s.setCtx k x).queues = s.queues := rfl
@[simp] theorem State.setCtx_arb (s : State) (k : Nat) (x : Context) : (s.setCtx k x).arb = s.arb := rfl
@[simp] theorem State.setCtx_taskQ (s : State) (k : Nat) (x : Context) : (s.setCtx k x).taskQ = s.taskQ := rfl
@[simp] theorem State.setCtx_waitTasks (s : State) (k : Nat) (x : Context) : (s.setCtx k x).waitTasks = s.waitTasks := rfl
@[simp] theorem State.setCtx_chainQ (s : State) (k : Nat) (x : Context) : (s.setCtx k x).chainQ = s.chainQ := rfl
@[simp] theorem State.setCtx_binQ (s : State) (k : Nat) (x : Context) : (s.setCtx k x).binQ = s.binQ := rfl
@[simp] theorem State.setCtx_savedQ (s : State) (k : Nat) (x : Context) : (s.setCtx k x).savedQ = s.savedQ := rfl
@[simp] theorem State.setCtx_swap (s : State) (k : Nat) (x : Context) : (s.setCtx k x).swap = s.swap := rfl
@[simp] theorem State.setCtx_walkers (s : State) (k : Nat) (x : Context) : (s.setCtx k x).walkers = s.walkers := rfl
@[simp] theorem State.setCtx_pipes (s : State) (k : Nat) (x : Context) : (s.setCtx k x).pipes = s.pipes := rfl
@[simp] theorem State.setCtx_rings (s : State) (k : Nat) (x : Context) : (s.setCtx k x).rings = s.rings := rfl
@[simp] theorem State.setCtx_slots (s : State) (k : Nat) (x : Context) : (s.setCtx k x).slots = s.slots := rfl
@[simp] theorem State.setCtx_dps (s : State) (k : Nat) (x : Context) : (s.setCtx k x).dps = s.dps := rfl
@[simp] theorem State.setCtx_hostData (s : State) (k : Nat) (x : Context) : (s.setCtx k x).hostData = s.hostData := rfl
@[simp] theorem State.setCtx_flights (s : State) (k : Nat) (x : Context) : (s.setCtx k x).flights = s.flights := rfl
@[simp] theorem State.setCtx_slotsHeld (s : State) (k : Nat) (x : Context) : (s.setCtx k x).slotsHeld = s.slotsHeld := rfl
@[simp] theorem State.setCtx_cal (s : State) (k : Nat) (x : Context) : (s.setCtx k x).cal = s.cal := rfl
@[simp] theorem State.setCtx_hostQ (s : State) (k : Nat) (x : Context) : (s.setCtx k x).hostQ = s.hostQ := rfl
@[simp] theorem State.setCtx_hostGap (s : State) (k : Nat) (x : Context) : (s.setCtx k x).hostGap = s.hostGap := rfl
@[simp] theorem State.setCtx_ctlQ (s : State) (k : Nat) (x : Context) : (s.setCtx k x).ctlQ = s.ctlQ := rfl
@[simp] theorem State.setCtx_slotTill (s : State) (k : Nat) (x : Context) : (s.setCtx k x).slotTill = s.slotTill := rfl
@[simp] theorem State.setCtx_traffic (s : State) (k : Nat) (x : Context) : (s.setCtx k x).traffic = s.traffic := rfl
@[simp] theorem State.setCtx_hostRds (s : State) (k : Nat) (x : Context) : (s.setCtx k x).hostRds = s.hostRds := rfl
@[simp] theorem State.setCtx_hostSeq (s : State) (k : Nat) (x : Context) : (s.setCtx k x).hostSeq = s.hostSeq := rfl
@[simp] theorem State.setCtx_hostSlot (s : State) (k : Nat) (x : Context) : (s.setCtx k x).hostSlot = s.hostSlot := rfl
@[simp] theorem State.setCtx_tried (s : State) (k : Nat) (x : Context) : (s.setCtx k x).tried = s.tried := rfl
@[simp] theorem State.setCtx_throtTill (s : State) (k : Nat) (x : Context) : (s.setCtx k x).throtTill = s.throtTill := rfl
@[simp] theorem State.setCtx_stageWait (s : State) (k : Nat) (x : Context) : (s.setCtx k x).stageWait = s.stageWait := rfl
@[simp] theorem State.setCtx_portNext (s : State) (k : Nat) (x : Context) : (s.setCtx k x).portNext = s.portNext := rfl
@[simp] theorem State.setCtx_encAt (s : State) (k : Nat) (x : Context) : (s.setCtx k x).encAt = s.encAt := rfl
@[simp] theorem State.setCtx_hostErr (s : State) (k : Nat) (x : Context) : (s.setCtx k x).hostErr = s.hostErr := rfl
@[simp] theorem State.setCtx_peerStat (s : State) (k : Nat) (x : Context) : (s.setCtx k x).peerStat = s.peerStat := rfl
@[simp] theorem State.setCtx_peerData (s : State) (k : Nat) (x : Context) : (s.setCtx k x).peerData = s.peerData := rfl
@[simp] theorem State.setCtx_peerPsn (s : State) (k : Nat) (x : Context) : (s.setCtx k x).peerPsn = s.peerPsn := rfl
@[simp] theorem State.setCtx_hostPsn (s : State) (k : Nat) (x : Context) : (s.setCtx k x).hostPsn = s.hostPsn := rfl
@[simp] theorem State.setCtx_hods (s : State) (k : Nat) (x : Context) : (s.setCtx k x).hods = s.hods := rfl
@[simp] theorem State.setCtx_autoFrags (s : State) (k : Nat) (x : Context) : (s.setCtx k x).autoFrags = s.autoFrags := rfl
@[simp] theorem State.setCtx_copyDone (s : State) (k : Nat) (x : Context) : (s.setCtx k x).copyDone = s.copyDone := rfl
@[simp] theorem State.setCtx_lp (s : State) (k : Nat) (x : Context) : (s.setCtx k x).lp = s.lp := rfl
@[simp] theorem State.setCtx_dirCaches (s : State) (k : Nat) (x : Context) : (s.setCtx k x).dirCaches = s.dirCaches := rfl
@[simp] theorem State.setCtx_fabs (s : State) (k : Nat) (x : Context) : (s.setCtx k x).fabs = s.fabs := rfl
@[simp] theorem State.setCtx_ashs (s : State) (k : Nat) (x : Context) : (s.setCtx k x).ashs = s.ashs := rfl
@[simp] theorem State.setCtx_ashTurn (s : State) (k : Nat) (x : Context) : (s.setCtx k x).ashTurn = s.ashTurn := rfl
@[simp] theorem State.setCtx_latches (s : State) (k : Nat) (x : Context) : (s.setCtx k x).latches = s.latches := rfl
@[simp] theorem State.setCtx_ptr (s : State) (k : Nat) (x : Context) : (s.setCtx k x).ptr = s.ptr := rfl
@[simp] theorem State.setCtx_life (s : State) (k : Nat) (x : Context) : (s.setCtx k x).life = s.life := rfl
@[simp] theorem State.setCtx_fab (s : State) (k : Nat) (x : Context) : (s.setCtx k x).fab = s.fab := rfl
@[simp] theorem State.setCtx_clusters (s : State) (k : Nat) (x : Context) : (s.setCtx k x).clusters = s.clusters := rfl
@[simp] theorem State.setCtx_margins (s : State) (k : Nat) (x : Context) : (s.setCtx k x).margins = s.margins := rfl

/-! ### `State.setLaunch` -/

@[simp] theorem State.setLaunch_agenda (s : State) (k : Nat) (x : Option Launch) : (s.setLaunch k x).agenda = s.agenda := rfl
@[simp] theorem State.setLaunch_cur (s : State) (k : Nat) (x : Option Launch) : (s.setLaunch k x).cur = s.cur := rfl
@[simp] theorem State.setLaunch_fresh (s : State) (k : Nat) (x : Option Launch) : (s.setLaunch k x).fresh = s.fresh := rfl
@[simp] theorem State.setLaunch_clk (s : State) (k : Nat) (x : Option Launch) : (s.setLaunch k x).clk = s.clk := rfl
@[simp] theorem State.setLaunch_tbase (s : State) (k : Nat) (x : Option Launch) : (s.setLaunch k x).tbase = s.tbase := rfl
@[simp] theorem State.setLaunch_mem (s : State) (k : Nat) (x : Option Launch) : (s.setLaunch k x).mem = s.mem := rfl
@[simp] theorem State.setLaunch_ctxs (s : State) (k : Nat) (x : Option Launch) : (s.setLaunch k x).ctxs = s.ctxs := rfl
@[simp] theorem State.setLaunch_warps (s : State) (k : Nat) (x : Option Launch) : (s.setLaunch k x).warps = s.warps := rfl
@[simp] theorem State.setLaunch_belay (s : State) (k : Nat) (x : Option Launch) : (s.setLaunch k x).belay = s.belay := rfl
@[simp] theorem State.setLaunch_heavy (s : State) (k : Nat) (x : Option Launch) : (s.setLaunch k x).heavy = s.heavy := rfl
@[simp] theorem State.setLaunch_teams (s : State) (k : Nat) (x : Option Launch) : (s.setLaunch k x).teams = s.teams := rfl
@[simp] theorem State.setLaunch_launches (s : State) (k : Nat) (x : Option Launch) : (s.setLaunch k x).launches = sput none s.launches k x := rfl
@[simp] theorem State.setLaunch_teamSeq (s : State) (k : Nat) (x : Option Launch) : (s.setLaunch k x).teamSeq = s.teamSeq := rfl
@[simp] theorem State.setLaunch_launchCtr (s : State) (k : Nat) (x : Option Launch) : (s.setLaunch k x).launchCtr = s.launchCtr := rfl
@[simp] theorem State.setLaunch_queues (s : State) (k : Nat) (x : Option Launch) : (s.setLaunch k x).queues = s.queues := rfl
@[simp] theorem State.setLaunch_arb (s : State) (k : Nat) (x : Option Launch) : (s.setLaunch k x).arb = s.arb := rfl
@[simp] theorem State.setLaunch_taskQ (s : State) (k : Nat) (x : Option Launch) : (s.setLaunch k x).taskQ = s.taskQ := rfl
@[simp] theorem State.setLaunch_waitTasks (s : State) (k : Nat) (x : Option Launch) : (s.setLaunch k x).waitTasks = s.waitTasks := rfl
@[simp] theorem State.setLaunch_chainQ (s : State) (k : Nat) (x : Option Launch) : (s.setLaunch k x).chainQ = s.chainQ := rfl
@[simp] theorem State.setLaunch_binQ (s : State) (k : Nat) (x : Option Launch) : (s.setLaunch k x).binQ = s.binQ := rfl
@[simp] theorem State.setLaunch_savedQ (s : State) (k : Nat) (x : Option Launch) : (s.setLaunch k x).savedQ = s.savedQ := rfl
@[simp] theorem State.setLaunch_swap (s : State) (k : Nat) (x : Option Launch) : (s.setLaunch k x).swap = s.swap := rfl
@[simp] theorem State.setLaunch_walkers (s : State) (k : Nat) (x : Option Launch) : (s.setLaunch k x).walkers = s.walkers := rfl
@[simp] theorem State.setLaunch_pipes (s : State) (k : Nat) (x : Option Launch) : (s.setLaunch k x).pipes = s.pipes := rfl
@[simp] theorem State.setLaunch_rings (s : State) (k : Nat) (x : Option Launch) : (s.setLaunch k x).rings = s.rings := rfl
@[simp] theorem State.setLaunch_slots (s : State) (k : Nat) (x : Option Launch) : (s.setLaunch k x).slots = s.slots := rfl
@[simp] theorem State.setLaunch_dps (s : State) (k : Nat) (x : Option Launch) : (s.setLaunch k x).dps = s.dps := rfl
@[simp] theorem State.setLaunch_hostData (s : State) (k : Nat) (x : Option Launch) : (s.setLaunch k x).hostData = s.hostData := rfl
@[simp] theorem State.setLaunch_flights (s : State) (k : Nat) (x : Option Launch) : (s.setLaunch k x).flights = s.flights := rfl
@[simp] theorem State.setLaunch_slotsHeld (s : State) (k : Nat) (x : Option Launch) : (s.setLaunch k x).slotsHeld = s.slotsHeld := rfl
@[simp] theorem State.setLaunch_cal (s : State) (k : Nat) (x : Option Launch) : (s.setLaunch k x).cal = s.cal := rfl
@[simp] theorem State.setLaunch_hostQ (s : State) (k : Nat) (x : Option Launch) : (s.setLaunch k x).hostQ = s.hostQ := rfl
@[simp] theorem State.setLaunch_hostGap (s : State) (k : Nat) (x : Option Launch) : (s.setLaunch k x).hostGap = s.hostGap := rfl
@[simp] theorem State.setLaunch_ctlQ (s : State) (k : Nat) (x : Option Launch) : (s.setLaunch k x).ctlQ = s.ctlQ := rfl
@[simp] theorem State.setLaunch_slotTill (s : State) (k : Nat) (x : Option Launch) : (s.setLaunch k x).slotTill = s.slotTill := rfl
@[simp] theorem State.setLaunch_traffic (s : State) (k : Nat) (x : Option Launch) : (s.setLaunch k x).traffic = s.traffic := rfl
@[simp] theorem State.setLaunch_hostRds (s : State) (k : Nat) (x : Option Launch) : (s.setLaunch k x).hostRds = s.hostRds := rfl
@[simp] theorem State.setLaunch_hostSeq (s : State) (k : Nat) (x : Option Launch) : (s.setLaunch k x).hostSeq = s.hostSeq := rfl
@[simp] theorem State.setLaunch_hostSlot (s : State) (k : Nat) (x : Option Launch) : (s.setLaunch k x).hostSlot = s.hostSlot := rfl
@[simp] theorem State.setLaunch_tried (s : State) (k : Nat) (x : Option Launch) : (s.setLaunch k x).tried = s.tried := rfl
@[simp] theorem State.setLaunch_throtTill (s : State) (k : Nat) (x : Option Launch) : (s.setLaunch k x).throtTill = s.throtTill := rfl
@[simp] theorem State.setLaunch_stageWait (s : State) (k : Nat) (x : Option Launch) : (s.setLaunch k x).stageWait = s.stageWait := rfl
@[simp] theorem State.setLaunch_portNext (s : State) (k : Nat) (x : Option Launch) : (s.setLaunch k x).portNext = s.portNext := rfl
@[simp] theorem State.setLaunch_encAt (s : State) (k : Nat) (x : Option Launch) : (s.setLaunch k x).encAt = s.encAt := rfl
@[simp] theorem State.setLaunch_hostErr (s : State) (k : Nat) (x : Option Launch) : (s.setLaunch k x).hostErr = s.hostErr := rfl
@[simp] theorem State.setLaunch_peerStat (s : State) (k : Nat) (x : Option Launch) : (s.setLaunch k x).peerStat = s.peerStat := rfl
@[simp] theorem State.setLaunch_peerData (s : State) (k : Nat) (x : Option Launch) : (s.setLaunch k x).peerData = s.peerData := rfl
@[simp] theorem State.setLaunch_peerPsn (s : State) (k : Nat) (x : Option Launch) : (s.setLaunch k x).peerPsn = s.peerPsn := rfl
@[simp] theorem State.setLaunch_hostPsn (s : State) (k : Nat) (x : Option Launch) : (s.setLaunch k x).hostPsn = s.hostPsn := rfl
@[simp] theorem State.setLaunch_hods (s : State) (k : Nat) (x : Option Launch) : (s.setLaunch k x).hods = s.hods := rfl
@[simp] theorem State.setLaunch_autoFrags (s : State) (k : Nat) (x : Option Launch) : (s.setLaunch k x).autoFrags = s.autoFrags := rfl
@[simp] theorem State.setLaunch_copyDone (s : State) (k : Nat) (x : Option Launch) : (s.setLaunch k x).copyDone = s.copyDone := rfl
@[simp] theorem State.setLaunch_lp (s : State) (k : Nat) (x : Option Launch) : (s.setLaunch k x).lp = s.lp := rfl
@[simp] theorem State.setLaunch_dirCaches (s : State) (k : Nat) (x : Option Launch) : (s.setLaunch k x).dirCaches = s.dirCaches := rfl
@[simp] theorem State.setLaunch_fabs (s : State) (k : Nat) (x : Option Launch) : (s.setLaunch k x).fabs = s.fabs := rfl
@[simp] theorem State.setLaunch_ashs (s : State) (k : Nat) (x : Option Launch) : (s.setLaunch k x).ashs = s.ashs := rfl
@[simp] theorem State.setLaunch_ashTurn (s : State) (k : Nat) (x : Option Launch) : (s.setLaunch k x).ashTurn = s.ashTurn := rfl
@[simp] theorem State.setLaunch_latches (s : State) (k : Nat) (x : Option Launch) : (s.setLaunch k x).latches = s.latches := rfl
@[simp] theorem State.setLaunch_ptr (s : State) (k : Nat) (x : Option Launch) : (s.setLaunch k x).ptr = s.ptr := rfl
@[simp] theorem State.setLaunch_life (s : State) (k : Nat) (x : Option Launch) : (s.setLaunch k x).life = s.life := rfl
@[simp] theorem State.setLaunch_fab (s : State) (k : Nat) (x : Option Launch) : (s.setLaunch k x).fab = s.fab := rfl
@[simp] theorem State.setLaunch_clusters (s : State) (k : Nat) (x : Option Launch) : (s.setLaunch k x).clusters = s.clusters := rfl
@[simp] theorem State.setLaunch_margins (s : State) (k : Nat) (x : Option Launch) : (s.setLaunch k x).margins = s.margins := rfl

/-! ### `State.setHod` -/

@[simp] theorem State.setHod_agenda (s : State) (k : Nat) (x : Hod) : (s.setHod k x).agenda = s.agenda := rfl
@[simp] theorem State.setHod_cur (s : State) (k : Nat) (x : Hod) : (s.setHod k x).cur = s.cur := rfl
@[simp] theorem State.setHod_fresh (s : State) (k : Nat) (x : Hod) : (s.setHod k x).fresh = s.fresh := rfl
@[simp] theorem State.setHod_clk (s : State) (k : Nat) (x : Hod) : (s.setHod k x).clk = s.clk := rfl
@[simp] theorem State.setHod_tbase (s : State) (k : Nat) (x : Hod) : (s.setHod k x).tbase = s.tbase := rfl
@[simp] theorem State.setHod_mem (s : State) (k : Nat) (x : Hod) : (s.setHod k x).mem = s.mem := rfl
@[simp] theorem State.setHod_ctxs (s : State) (k : Nat) (x : Hod) : (s.setHod k x).ctxs = s.ctxs := rfl
@[simp] theorem State.setHod_warps (s : State) (k : Nat) (x : Hod) : (s.setHod k x).warps = s.warps := rfl
@[simp] theorem State.setHod_belay (s : State) (k : Nat) (x : Hod) : (s.setHod k x).belay = s.belay := rfl
@[simp] theorem State.setHod_heavy (s : State) (k : Nat) (x : Hod) : (s.setHod k x).heavy = s.heavy := rfl
@[simp] theorem State.setHod_teams (s : State) (k : Nat) (x : Hod) : (s.setHod k x).teams = s.teams := rfl
@[simp] theorem State.setHod_launches (s : State) (k : Nat) (x : Hod) : (s.setHod k x).launches = s.launches := rfl
@[simp] theorem State.setHod_teamSeq (s : State) (k : Nat) (x : Hod) : (s.setHod k x).teamSeq = s.teamSeq := rfl
@[simp] theorem State.setHod_launchCtr (s : State) (k : Nat) (x : Hod) : (s.setHod k x).launchCtr = s.launchCtr := rfl
@[simp] theorem State.setHod_queues (s : State) (k : Nat) (x : Hod) : (s.setHod k x).queues = s.queues := rfl
@[simp] theorem State.setHod_arb (s : State) (k : Nat) (x : Hod) : (s.setHod k x).arb = s.arb := rfl
@[simp] theorem State.setHod_taskQ (s : State) (k : Nat) (x : Hod) : (s.setHod k x).taskQ = s.taskQ := rfl
@[simp] theorem State.setHod_waitTasks (s : State) (k : Nat) (x : Hod) : (s.setHod k x).waitTasks = s.waitTasks := rfl
@[simp] theorem State.setHod_chainQ (s : State) (k : Nat) (x : Hod) : (s.setHod k x).chainQ = s.chainQ := rfl
@[simp] theorem State.setHod_binQ (s : State) (k : Nat) (x : Hod) : (s.setHod k x).binQ = s.binQ := rfl
@[simp] theorem State.setHod_savedQ (s : State) (k : Nat) (x : Hod) : (s.setHod k x).savedQ = s.savedQ := rfl
@[simp] theorem State.setHod_swap (s : State) (k : Nat) (x : Hod) : (s.setHod k x).swap = s.swap := rfl
@[simp] theorem State.setHod_walkers (s : State) (k : Nat) (x : Hod) : (s.setHod k x).walkers = s.walkers := rfl
@[simp] theorem State.setHod_pipes (s : State) (k : Nat) (x : Hod) : (s.setHod k x).pipes = s.pipes := rfl
@[simp] theorem State.setHod_rings (s : State) (k : Nat) (x : Hod) : (s.setHod k x).rings = s.rings := rfl
@[simp] theorem State.setHod_slots (s : State) (k : Nat) (x : Hod) : (s.setHod k x).slots = s.slots := rfl
@[simp] theorem State.setHod_dps (s : State) (k : Nat) (x : Hod) : (s.setHod k x).dps = s.dps := rfl
@[simp] theorem State.setHod_hostData (s : State) (k : Nat) (x : Hod) : (s.setHod k x).hostData = s.hostData := rfl
@[simp] theorem State.setHod_flights (s : State) (k : Nat) (x : Hod) : (s.setHod k x).flights = s.flights := rfl
@[simp] theorem State.setHod_slotsHeld (s : State) (k : Nat) (x : Hod) : (s.setHod k x).slotsHeld = s.slotsHeld := rfl
@[simp] theorem State.setHod_cal (s : State) (k : Nat) (x : Hod) : (s.setHod k x).cal = s.cal := rfl
@[simp] theorem State.setHod_hostQ (s : State) (k : Nat) (x : Hod) : (s.setHod k x).hostQ = s.hostQ := rfl
@[simp] theorem State.setHod_hostGap (s : State) (k : Nat) (x : Hod) : (s.setHod k x).hostGap = s.hostGap := rfl
@[simp] theorem State.setHod_ctlQ (s : State) (k : Nat) (x : Hod) : (s.setHod k x).ctlQ = s.ctlQ := rfl
@[simp] theorem State.setHod_slotTill (s : State) (k : Nat) (x : Hod) : (s.setHod k x).slotTill = s.slotTill := rfl
@[simp] theorem State.setHod_traffic (s : State) (k : Nat) (x : Hod) : (s.setHod k x).traffic = s.traffic := rfl
@[simp] theorem State.setHod_hostRds (s : State) (k : Nat) (x : Hod) : (s.setHod k x).hostRds = s.hostRds := rfl
@[simp] theorem State.setHod_hostSeq (s : State) (k : Nat) (x : Hod) : (s.setHod k x).hostSeq = s.hostSeq := rfl
@[simp] theorem State.setHod_hostSlot (s : State) (k : Nat) (x : Hod) : (s.setHod k x).hostSlot = s.hostSlot := rfl
@[simp] theorem State.setHod_tried (s : State) (k : Nat) (x : Hod) : (s.setHod k x).tried = s.tried := rfl
@[simp] theorem State.setHod_throtTill (s : State) (k : Nat) (x : Hod) : (s.setHod k x).throtTill = s.throtTill := rfl
@[simp] theorem State.setHod_stageWait (s : State) (k : Nat) (x : Hod) : (s.setHod k x).stageWait = s.stageWait := rfl
@[simp] theorem State.setHod_portNext (s : State) (k : Nat) (x : Hod) : (s.setHod k x).portNext = s.portNext := rfl
@[simp] theorem State.setHod_encAt (s : State) (k : Nat) (x : Hod) : (s.setHod k x).encAt = s.encAt := rfl
@[simp] theorem State.setHod_hostErr (s : State) (k : Nat) (x : Hod) : (s.setHod k x).hostErr = s.hostErr := rfl
@[simp] theorem State.setHod_peerStat (s : State) (k : Nat) (x : Hod) : (s.setHod k x).peerStat = s.peerStat := rfl
@[simp] theorem State.setHod_peerData (s : State) (k : Nat) (x : Hod) : (s.setHod k x).peerData = s.peerData := rfl
@[simp] theorem State.setHod_peerPsn (s : State) (k : Nat) (x : Hod) : (s.setHod k x).peerPsn = s.peerPsn := rfl
@[simp] theorem State.setHod_hostPsn (s : State) (k : Nat) (x : Hod) : (s.setHod k x).hostPsn = s.hostPsn := rfl
@[simp] theorem State.setHod_hods (s : State) (k : Nat) (x : Hod) : (s.setHod k x).hods = sput {} s.hods k x := rfl
@[simp] theorem State.setHod_autoFrags (s : State) (k : Nat) (x : Hod) : (s.setHod k x).autoFrags = s.autoFrags := rfl
@[simp] theorem State.setHod_copyDone (s : State) (k : Nat) (x : Hod) : (s.setHod k x).copyDone = s.copyDone := rfl
@[simp] theorem State.setHod_lp (s : State) (k : Nat) (x : Hod) : (s.setHod k x).lp = s.lp := rfl
@[simp] theorem State.setHod_dirCaches (s : State) (k : Nat) (x : Hod) : (s.setHod k x).dirCaches = s.dirCaches := rfl
@[simp] theorem State.setHod_fabs (s : State) (k : Nat) (x : Hod) : (s.setHod k x).fabs = s.fabs := rfl
@[simp] theorem State.setHod_ashs (s : State) (k : Nat) (x : Hod) : (s.setHod k x).ashs = s.ashs := rfl
@[simp] theorem State.setHod_ashTurn (s : State) (k : Nat) (x : Hod) : (s.setHod k x).ashTurn = s.ashTurn := rfl
@[simp] theorem State.setHod_latches (s : State) (k : Nat) (x : Hod) : (s.setHod k x).latches = s.latches := rfl
@[simp] theorem State.setHod_ptr (s : State) (k : Nat) (x : Hod) : (s.setHod k x).ptr = s.ptr := rfl
@[simp] theorem State.setHod_life (s : State) (k : Nat) (x : Hod) : (s.setHod k x).life = s.life := rfl
@[simp] theorem State.setHod_fab (s : State) (k : Nat) (x : Hod) : (s.setHod k x).fab = s.fab := rfl
@[simp] theorem State.setHod_clusters (s : State) (k : Nat) (x : Hod) : (s.setHod k x).clusters = s.clusters := rfl
@[simp] theorem State.setHod_margins (s : State) (k : Nat) (x : Hod) : (s.setHod k x).margins = s.margins := rfl

/-! ### `State.withCur` -/

@[simp] theorem State.withCur_agenda (s : State) (key nid : Nat) (lit : Word) : (s.withCur key nid lit).agenda = s.agenda := rfl
@[simp] theorem State.withCur_cur (s : State) (key nid : Nat) (lit : Word) : (s.withCur key nid lit).cur = some ⟨key, nid, lit⟩ := rfl
@[simp] theorem State.withCur_fresh (s : State) (key nid : Nat) (lit : Word) : (s.withCur key nid lit).fresh = s.fresh := rfl
@[simp] theorem State.withCur_clk (s : State) (key nid : Nat) (lit : Word) : (s.withCur key nid lit).clk = s.clk := rfl
@[simp] theorem State.withCur_tbase (s : State) (key nid : Nat) (lit : Word) : (s.withCur key nid lit).tbase = s.tbase := rfl
@[simp] theorem State.withCur_mem (s : State) (key nid : Nat) (lit : Word) : (s.withCur key nid lit).mem = s.mem := rfl
@[simp] theorem State.withCur_ctxs (s : State) (key nid : Nat) (lit : Word) : (s.withCur key nid lit).ctxs = s.ctxs := rfl
@[simp] theorem State.withCur_warps (s : State) (key nid : Nat) (lit : Word) : (s.withCur key nid lit).warps = s.warps := rfl
@[simp] theorem State.withCur_belay (s : State) (key nid : Nat) (lit : Word) : (s.withCur key nid lit).belay = s.belay := rfl
@[simp] theorem State.withCur_heavy (s : State) (key nid : Nat) (lit : Word) : (s.withCur key nid lit).heavy = s.heavy := rfl
@[simp] theorem State.withCur_teams (s : State) (key nid : Nat) (lit : Word) : (s.withCur key nid lit).teams = s.teams := rfl
@[simp] theorem State.withCur_launches (s : State) (key nid : Nat) (lit : Word) : (s.withCur key nid lit).launches = s.launches := rfl
@[simp] theorem State.withCur_teamSeq (s : State) (key nid : Nat) (lit : Word) : (s.withCur key nid lit).teamSeq = s.teamSeq := rfl
@[simp] theorem State.withCur_launchCtr (s : State) (key nid : Nat) (lit : Word) : (s.withCur key nid lit).launchCtr = s.launchCtr := rfl
@[simp] theorem State.withCur_queues (s : State) (key nid : Nat) (lit : Word) : (s.withCur key nid lit).queues = s.queues := rfl
@[simp] theorem State.withCur_arb (s : State) (key nid : Nat) (lit : Word) : (s.withCur key nid lit).arb = s.arb := rfl
@[simp] theorem State.withCur_taskQ (s : State) (key nid : Nat) (lit : Word) : (s.withCur key nid lit).taskQ = s.taskQ := rfl
@[simp] theorem State.withCur_waitTasks (s : State) (key nid : Nat) (lit : Word) : (s.withCur key nid lit).waitTasks = s.waitTasks := rfl
@[simp] theorem State.withCur_chainQ (s : State) (key nid : Nat) (lit : Word) : (s.withCur key nid lit).chainQ = s.chainQ := rfl
@[simp] theorem State.withCur_binQ (s : State) (key nid : Nat) (lit : Word) : (s.withCur key nid lit).binQ = s.binQ := rfl
@[simp] theorem State.withCur_savedQ (s : State) (key nid : Nat) (lit : Word) : (s.withCur key nid lit).savedQ = s.savedQ := rfl
@[simp] theorem State.withCur_swap (s : State) (key nid : Nat) (lit : Word) : (s.withCur key nid lit).swap = s.swap := rfl
@[simp] theorem State.withCur_walkers (s : State) (key nid : Nat) (lit : Word) : (s.withCur key nid lit).walkers = s.walkers := rfl
@[simp] theorem State.withCur_pipes (s : State) (key nid : Nat) (lit : Word) : (s.withCur key nid lit).pipes = s.pipes := rfl
@[simp] theorem State.withCur_rings (s : State) (key nid : Nat) (lit : Word) : (s.withCur key nid lit).rings = s.rings := rfl
@[simp] theorem State.withCur_slots (s : State) (key nid : Nat) (lit : Word) : (s.withCur key nid lit).slots = s.slots := rfl
@[simp] theorem State.withCur_dps (s : State) (key nid : Nat) (lit : Word) : (s.withCur key nid lit).dps = s.dps := rfl
@[simp] theorem State.withCur_hostData (s : State) (key nid : Nat) (lit : Word) : (s.withCur key nid lit).hostData = s.hostData := rfl
@[simp] theorem State.withCur_flights (s : State) (key nid : Nat) (lit : Word) : (s.withCur key nid lit).flights = s.flights := rfl
@[simp] theorem State.withCur_slotsHeld (s : State) (key nid : Nat) (lit : Word) : (s.withCur key nid lit).slotsHeld = s.slotsHeld := rfl
@[simp] theorem State.withCur_cal (s : State) (key nid : Nat) (lit : Word) : (s.withCur key nid lit).cal = s.cal := rfl
@[simp] theorem State.withCur_hostQ (s : State) (key nid : Nat) (lit : Word) : (s.withCur key nid lit).hostQ = s.hostQ := rfl
@[simp] theorem State.withCur_hostGap (s : State) (key nid : Nat) (lit : Word) : (s.withCur key nid lit).hostGap = s.hostGap := rfl
@[simp] theorem State.withCur_ctlQ (s : State) (key nid : Nat) (lit : Word) : (s.withCur key nid lit).ctlQ = s.ctlQ := rfl
@[simp] theorem State.withCur_slotTill (s : State) (key nid : Nat) (lit : Word) : (s.withCur key nid lit).slotTill = s.slotTill := rfl
@[simp] theorem State.withCur_traffic (s : State) (key nid : Nat) (lit : Word) : (s.withCur key nid lit).traffic = s.traffic := rfl
@[simp] theorem State.withCur_hostRds (s : State) (key nid : Nat) (lit : Word) : (s.withCur key nid lit).hostRds = s.hostRds := rfl
@[simp] theorem State.withCur_hostSeq (s : State) (key nid : Nat) (lit : Word) : (s.withCur key nid lit).hostSeq = s.hostSeq := rfl
@[simp] theorem State.withCur_hostSlot (s : State) (key nid : Nat) (lit : Word) : (s.withCur key nid lit).hostSlot = s.hostSlot := rfl
@[simp] theorem State.withCur_tried (s : State) (key nid : Nat) (lit : Word) : (s.withCur key nid lit).tried = s.tried := rfl
@[simp] theorem State.withCur_throtTill (s : State) (key nid : Nat) (lit : Word) : (s.withCur key nid lit).throtTill = s.throtTill := rfl
@[simp] theorem State.withCur_stageWait (s : State) (key nid : Nat) (lit : Word) : (s.withCur key nid lit).stageWait = s.stageWait := rfl
@[simp] theorem State.withCur_portNext (s : State) (key nid : Nat) (lit : Word) : (s.withCur key nid lit).portNext = s.portNext := rfl
@[simp] theorem State.withCur_encAt (s : State) (key nid : Nat) (lit : Word) : (s.withCur key nid lit).encAt = s.encAt := rfl
@[simp] theorem State.withCur_hostErr (s : State) (key nid : Nat) (lit : Word) : (s.withCur key nid lit).hostErr = s.hostErr := rfl
@[simp] theorem State.withCur_peerStat (s : State) (key nid : Nat) (lit : Word) : (s.withCur key nid lit).peerStat = s.peerStat := rfl
@[simp] theorem State.withCur_peerData (s : State) (key nid : Nat) (lit : Word) : (s.withCur key nid lit).peerData = s.peerData := rfl
@[simp] theorem State.withCur_peerPsn (s : State) (key nid : Nat) (lit : Word) : (s.withCur key nid lit).peerPsn = s.peerPsn := rfl
@[simp] theorem State.withCur_hostPsn (s : State) (key nid : Nat) (lit : Word) : (s.withCur key nid lit).hostPsn = s.hostPsn := rfl
@[simp] theorem State.withCur_hods (s : State) (key nid : Nat) (lit : Word) : (s.withCur key nid lit).hods = s.hods := rfl
@[simp] theorem State.withCur_autoFrags (s : State) (key nid : Nat) (lit : Word) : (s.withCur key nid lit).autoFrags = s.autoFrags := rfl
@[simp] theorem State.withCur_copyDone (s : State) (key nid : Nat) (lit : Word) : (s.withCur key nid lit).copyDone = s.copyDone := rfl
@[simp] theorem State.withCur_lp (s : State) (key nid : Nat) (lit : Word) : (s.withCur key nid lit).lp = s.lp := rfl
@[simp] theorem State.withCur_dirCaches (s : State) (key nid : Nat) (lit : Word) : (s.withCur key nid lit).dirCaches = s.dirCaches := rfl
@[simp] theorem State.withCur_fabs (s : State) (key nid : Nat) (lit : Word) : (s.withCur key nid lit).fabs = s.fabs := rfl
@[simp] theorem State.withCur_ashs (s : State) (key nid : Nat) (lit : Word) : (s.withCur key nid lit).ashs = s.ashs := rfl
@[simp] theorem State.withCur_ashTurn (s : State) (key nid : Nat) (lit : Word) : (s.withCur key nid lit).ashTurn = s.ashTurn := rfl
@[simp] theorem State.withCur_latches (s : State) (key nid : Nat) (lit : Word) : (s.withCur key nid lit).latches = s.latches := rfl
@[simp] theorem State.withCur_ptr (s : State) (key nid : Nat) (lit : Word) : (s.withCur key nid lit).ptr = s.ptr := rfl
@[simp] theorem State.withCur_life (s : State) (key nid : Nat) (lit : Word) : (s.withCur key nid lit).life = s.life := rfl
@[simp] theorem State.withCur_fab (s : State) (key nid : Nat) (lit : Word) : (s.withCur key nid lit).fab = s.fab := rfl
@[simp] theorem State.withCur_clusters (s : State) (key nid : Nat) (lit : Word) : (s.withCur key nid lit).clusters = s.clusters := rfl
@[simp] theorem State.withCur_margins (s : State) (key nid : Nat) (lit : Word) : (s.withCur key nid lit).margins = s.margins := rfl

/-! ### `State.setNode`: a root record stands in its warp, another node in the belay table -/

@[simp] theorem State.setNode_agenda (s : State) (key nid : Nat) (n : Node) : (s.setNode key nid n).agenda = s.agenda := by
  unfold State.setNode; (repeat' split) <;> rfl
@[simp] theorem State.setNode_cur (s : State) (key nid : Nat) (n : Node) : (s.setNode key nid n).cur = s.cur := by
  unfold State.setNode; (repeat' split) <;> rfl
@[simp] theorem State.setNode_fresh (s : State) (key nid : Nat) (n : Node) : (s.setNode key nid n).fresh = s.fresh := by
  unfold State.setNode; (repeat' split) <;> rfl
@[simp] theorem State.setNode_clk (s : State) (key nid : Nat) (n : Node) : (s.setNode key nid n).clk = s.clk := by
  unfold State.setNode; (repeat' split) <;> rfl
@[simp] theorem State.setNode_tbase (s : State) (key nid : Nat) (n : Node) : (s.setNode key nid n).tbase = s.tbase := by
  unfold State.setNode; (repeat' split) <;> rfl
@[simp] theorem State.setNode_mem (s : State) (key nid : Nat) (n : Node) : (s.setNode key nid n).mem = s.mem := by
  unfold State.setNode; (repeat' split) <;> rfl
@[simp] theorem State.setNode_ctxs (s : State) (key nid : Nat) (n : Node) : (s.setNode key nid n).ctxs = s.ctxs := by
  unfold State.setNode; (repeat' split) <;> rfl
@[simp] theorem State.setNode_heavy (s : State) (key nid : Nat) (n : Node) : (s.setNode key nid n).heavy = s.heavy := by
  unfold State.setNode; (repeat' split) <;> rfl
@[simp] theorem State.setNode_teams (s : State) (key nid : Nat) (n : Node) : (s.setNode key nid n).teams = s.teams := by
  unfold State.setNode; (repeat' split) <;> rfl
@[simp] theorem State.setNode_launches (s : State) (key nid : Nat) (n : Node) : (s.setNode key nid n).launches = s.launches := by
  unfold State.setNode; (repeat' split) <;> rfl
@[simp] theorem State.setNode_teamSeq (s : State) (key nid : Nat) (n : Node) : (s.setNode key nid n).teamSeq = s.teamSeq := by
  unfold State.setNode; (repeat' split) <;> rfl
@[simp] theorem State.setNode_launchCtr (s : State) (key nid : Nat) (n : Node) : (s.setNode key nid n).launchCtr = s.launchCtr := by
  unfold State.setNode; (repeat' split) <;> rfl
@[simp] theorem State.setNode_queues (s : State) (key nid : Nat) (n : Node) : (s.setNode key nid n).queues = s.queues := by
  unfold State.setNode; (repeat' split) <;> rfl
@[simp] theorem State.setNode_arb (s : State) (key nid : Nat) (n : Node) : (s.setNode key nid n).arb = s.arb := by
  unfold State.setNode; (repeat' split) <;> rfl
@[simp] theorem State.setNode_taskQ (s : State) (key nid : Nat) (n : Node) : (s.setNode key nid n).taskQ = s.taskQ := by
  unfold State.setNode; (repeat' split) <;> rfl
@[simp] theorem State.setNode_waitTasks (s : State) (key nid : Nat) (n : Node) : (s.setNode key nid n).waitTasks = s.waitTasks := by
  unfold State.setNode; (repeat' split) <;> rfl
@[simp] theorem State.setNode_chainQ (s : State) (key nid : Nat) (n : Node) : (s.setNode key nid n).chainQ = s.chainQ := by
  unfold State.setNode; (repeat' split) <;> rfl
@[simp] theorem State.setNode_binQ (s : State) (key nid : Nat) (n : Node) : (s.setNode key nid n).binQ = s.binQ := by
  unfold State.setNode; (repeat' split) <;> rfl
@[simp] theorem State.setNode_savedQ (s : State) (key nid : Nat) (n : Node) : (s.setNode key nid n).savedQ = s.savedQ := by
  unfold State.setNode; (repeat' split) <;> rfl
@[simp] theorem State.setNode_swap (s : State) (key nid : Nat) (n : Node) : (s.setNode key nid n).swap = s.swap := by
  unfold State.setNode; (repeat' split) <;> rfl
@[simp] theorem State.setNode_walkers (s : State) (key nid : Nat) (n : Node) : (s.setNode key nid n).walkers = s.walkers := by
  unfold State.setNode; (repeat' split) <;> rfl
@[simp] theorem State.setNode_pipes (s : State) (key nid : Nat) (n : Node) : (s.setNode key nid n).pipes = s.pipes := by
  unfold State.setNode; (repeat' split) <;> rfl
@[simp] theorem State.setNode_rings (s : State) (key nid : Nat) (n : Node) : (s.setNode key nid n).rings = s.rings := by
  unfold State.setNode; (repeat' split) <;> rfl
@[simp] theorem State.setNode_slots (s : State) (key nid : Nat) (n : Node) : (s.setNode key nid n).slots = s.slots := by
  unfold State.setNode; (repeat' split) <;> rfl
@[simp] theorem State.setNode_dps (s : State) (key nid : Nat) (n : Node) : (s.setNode key nid n).dps = s.dps := by
  unfold State.setNode; (repeat' split) <;> rfl
@[simp] theorem State.setNode_hostData (s : State) (key nid : Nat) (n : Node) : (s.setNode key nid n).hostData = s.hostData := by
  unfold State.setNode; (repeat' split) <;> rfl
@[simp] theorem State.setNode_flights (s : State) (key nid : Nat) (n : Node) : (s.setNode key nid n).flights = s.flights := by
  unfold State.setNode; (repeat' split) <;> rfl
@[simp] theorem State.setNode_slotsHeld (s : State) (key nid : Nat) (n : Node) : (s.setNode key nid n).slotsHeld = s.slotsHeld := by
  unfold State.setNode; (repeat' split) <;> rfl
@[simp] theorem State.setNode_cal (s : State) (key nid : Nat) (n : Node) : (s.setNode key nid n).cal = s.cal := by
  unfold State.setNode; (repeat' split) <;> rfl
@[simp] theorem State.setNode_hostQ (s : State) (key nid : Nat) (n : Node) : (s.setNode key nid n).hostQ = s.hostQ := by
  unfold State.setNode; (repeat' split) <;> rfl
@[simp] theorem State.setNode_hostGap (s : State) (key nid : Nat) (n : Node) : (s.setNode key nid n).hostGap = s.hostGap := by
  unfold State.setNode; (repeat' split) <;> rfl
@[simp] theorem State.setNode_ctlQ (s : State) (key nid : Nat) (n : Node) : (s.setNode key nid n).ctlQ = s.ctlQ := by
  unfold State.setNode; (repeat' split) <;> rfl
@[simp] theorem State.setNode_slotTill (s : State) (key nid : Nat) (n : Node) : (s.setNode key nid n).slotTill = s.slotTill := by
  unfold State.setNode; (repeat' split) <;> rfl
@[simp] theorem State.setNode_traffic (s : State) (key nid : Nat) (n : Node) : (s.setNode key nid n).traffic = s.traffic := by
  unfold State.setNode; (repeat' split) <;> rfl
@[simp] theorem State.setNode_hostRds (s : State) (key nid : Nat) (n : Node) : (s.setNode key nid n).hostRds = s.hostRds := by
  unfold State.setNode; (repeat' split) <;> rfl
@[simp] theorem State.setNode_hostSeq (s : State) (key nid : Nat) (n : Node) : (s.setNode key nid n).hostSeq = s.hostSeq := by
  unfold State.setNode; (repeat' split) <;> rfl
@[simp] theorem State.setNode_hostSlot (s : State) (key nid : Nat) (n : Node) : (s.setNode key nid n).hostSlot = s.hostSlot := by
  unfold State.setNode; (repeat' split) <;> rfl
@[simp] theorem State.setNode_tried (s : State) (key nid : Nat) (n : Node) : (s.setNode key nid n).tried = s.tried := by
  unfold State.setNode; (repeat' split) <;> rfl
@[simp] theorem State.setNode_throtTill (s : State) (key nid : Nat) (n : Node) : (s.setNode key nid n).throtTill = s.throtTill := by
  unfold State.setNode; (repeat' split) <;> rfl
@[simp] theorem State.setNode_stageWait (s : State) (key nid : Nat) (n : Node) : (s.setNode key nid n).stageWait = s.stageWait := by
  unfold State.setNode; (repeat' split) <;> rfl
@[simp] theorem State.setNode_portNext (s : State) (key nid : Nat) (n : Node) : (s.setNode key nid n).portNext = s.portNext := by
  unfold State.setNode; (repeat' split) <;> rfl
@[simp] theorem State.setNode_encAt (s : State) (key nid : Nat) (n : Node) : (s.setNode key nid n).encAt = s.encAt := by
  unfold State.setNode; (repeat' split) <;> rfl
@[simp] theorem State.setNode_hostErr (s : State) (key nid : Nat) (n : Node) : (s.setNode key nid n).hostErr = s.hostErr := by
  unfold State.setNode; (repeat' split) <;> rfl
@[simp] theorem State.setNode_peerStat (s : State) (key nid : Nat) (n : Node) : (s.setNode key nid n).peerStat = s.peerStat := by
  unfold State.setNode; (repeat' split) <;> rfl
@[simp] theorem State.setNode_peerData (s : State) (key nid : Nat) (n : Node) : (s.setNode key nid n).peerData = s.peerData := by
  unfold State.setNode; (repeat' split) <;> rfl
@[simp] theorem State.setNode_peerPsn (s : State) (key nid : Nat) (n : Node) : (s.setNode key nid n).peerPsn = s.peerPsn := by
  unfold State.setNode; (repeat' split) <;> rfl
@[simp] theorem State.setNode_hostPsn (s : State) (key nid : Nat) (n : Node) : (s.setNode key nid n).hostPsn = s.hostPsn := by
  unfold State.setNode; (repeat' split) <;> rfl
@[simp] theorem State.setNode_hods (s : State) (key nid : Nat) (n : Node) : (s.setNode key nid n).hods = s.hods := by
  unfold State.setNode; (repeat' split) <;> rfl
@[simp] theorem State.setNode_autoFrags (s : State) (key nid : Nat) (n : Node) : (s.setNode key nid n).autoFrags = s.autoFrags := by
  unfold State.setNode; (repeat' split) <;> rfl
@[simp] theorem State.setNode_copyDone (s : State) (key nid : Nat) (n : Node) : (s.setNode key nid n).copyDone = s.copyDone := by
  unfold State.setNode; (repeat' split) <;> rfl
@[simp] theorem State.setNode_lp (s : State) (key nid : Nat) (n : Node) : (s.setNode key nid n).lp = s.lp := by
  unfold State.setNode; (repeat' split) <;> rfl
@[simp] theorem State.setNode_dirCaches (s : State) (key nid : Nat) (n : Node) : (s.setNode key nid n).dirCaches = s.dirCaches := by
  unfold State.setNode; (repeat' split) <;> rfl
@[simp] theorem State.setNode_fabs (s : State) (key nid : Nat) (n : Node) : (s.setNode key nid n).fabs = s.fabs := by
  unfold State.setNode; (repeat' split) <;> rfl
@[simp] theorem State.setNode_ashs (s : State) (key nid : Nat) (n : Node) : (s.setNode key nid n).ashs = s.ashs := by
  unfold State.setNode; (repeat' split) <;> rfl
@[simp] theorem State.setNode_ashTurn (s : State) (key nid : Nat) (n : Node) : (s.setNode key nid n).ashTurn = s.ashTurn := by
  unfold State.setNode; (repeat' split) <;> rfl
@[simp] theorem State.setNode_latches (s : State) (key nid : Nat) (n : Node) : (s.setNode key nid n).latches = s.latches := by
  unfold State.setNode; (repeat' split) <;> rfl
@[simp] theorem State.setNode_ptr (s : State) (key nid : Nat) (n : Node) : (s.setNode key nid n).ptr = s.ptr := by
  unfold State.setNode; (repeat' split) <;> rfl
@[simp] theorem State.setNode_life (s : State) (key nid : Nat) (n : Node) : (s.setNode key nid n).life = s.life := by
  unfold State.setNode; (repeat' split) <;> rfl
@[simp] theorem State.setNode_fab (s : State) (key nid : Nat) (n : Node) : (s.setNode key nid n).fab = s.fab := by
  unfold State.setNode; (repeat' split) <;> rfl
@[simp] theorem State.setNode_clusters (s : State) (key nid : Nat) (n : Node) : (s.setNode key nid n).clusters = s.clusters := by
  unfold State.setNode; (repeat' split) <;> rfl
@[simp] theorem State.setNode_margins (s : State) (key nid : Nat) (n : Node) : (s.setNode key nid n).margins = s.margins := by
  unfold State.setNode; (repeat' split) <;> rfl

/-! ### `State.updWarp` -/

@[simp] theorem State.updWarp_agenda (s : State) (key : Nat) (g : Warp → Warp) : (s.updWarp key g).agenda = s.agenda := by
  unfold State.updWarp; split <;> rfl
@[simp] theorem State.updWarp_cur (s : State) (key : Nat) (g : Warp → Warp) : (s.updWarp key g).cur = s.cur := by
  unfold State.updWarp; split <;> rfl
@[simp] theorem State.updWarp_fresh (s : State) (key : Nat) (g : Warp → Warp) : (s.updWarp key g).fresh = s.fresh := by
  unfold State.updWarp; split <;> rfl
@[simp] theorem State.updWarp_clk (s : State) (key : Nat) (g : Warp → Warp) : (s.updWarp key g).clk = s.clk := by
  unfold State.updWarp; split <;> rfl
@[simp] theorem State.updWarp_tbase (s : State) (key : Nat) (g : Warp → Warp) : (s.updWarp key g).tbase = s.tbase := by
  unfold State.updWarp; split <;> rfl
@[simp] theorem State.updWarp_mem (s : State) (key : Nat) (g : Warp → Warp) : (s.updWarp key g).mem = s.mem := by
  unfold State.updWarp; split <;> rfl
@[simp] theorem State.updWarp_ctxs (s : State) (key : Nat) (g : Warp → Warp) : (s.updWarp key g).ctxs = s.ctxs := by
  unfold State.updWarp; split <;> rfl
@[simp] theorem State.updWarp_belay (s : State) (key : Nat) (g : Warp → Warp) : (s.updWarp key g).belay = s.belay := by
  unfold State.updWarp; split <;> rfl
@[simp] theorem State.updWarp_heavy (s : State) (key : Nat) (g : Warp → Warp) : (s.updWarp key g).heavy = s.heavy := by
  unfold State.updWarp; split <;> rfl
@[simp] theorem State.updWarp_teams (s : State) (key : Nat) (g : Warp → Warp) : (s.updWarp key g).teams = s.teams := by
  unfold State.updWarp; split <;> rfl
@[simp] theorem State.updWarp_launches (s : State) (key : Nat) (g : Warp → Warp) : (s.updWarp key g).launches = s.launches := by
  unfold State.updWarp; split <;> rfl
@[simp] theorem State.updWarp_teamSeq (s : State) (key : Nat) (g : Warp → Warp) : (s.updWarp key g).teamSeq = s.teamSeq := by
  unfold State.updWarp; split <;> rfl
@[simp] theorem State.updWarp_launchCtr (s : State) (key : Nat) (g : Warp → Warp) : (s.updWarp key g).launchCtr = s.launchCtr := by
  unfold State.updWarp; split <;> rfl
@[simp] theorem State.updWarp_queues (s : State) (key : Nat) (g : Warp → Warp) : (s.updWarp key g).queues = s.queues := by
  unfold State.updWarp; split <;> rfl
@[simp] theorem State.updWarp_arb (s : State) (key : Nat) (g : Warp → Warp) : (s.updWarp key g).arb = s.arb := by
  unfold State.updWarp; split <;> rfl
@[simp] theorem State.updWarp_taskQ (s : State) (key : Nat) (g : Warp → Warp) : (s.updWarp key g).taskQ = s.taskQ := by
  unfold State.updWarp; split <;> rfl
@[simp] theorem State.updWarp_waitTasks (s : State) (key : Nat) (g : Warp → Warp) : (s.updWarp key g).waitTasks = s.waitTasks := by
  unfold State.updWarp; split <;> rfl
@[simp] theorem State.updWarp_chainQ (s : State) (key : Nat) (g : Warp → Warp) : (s.updWarp key g).chainQ = s.chainQ := by
  unfold State.updWarp; split <;> rfl
@[simp] theorem State.updWarp_binQ (s : State) (key : Nat) (g : Warp → Warp) : (s.updWarp key g).binQ = s.binQ := by
  unfold State.updWarp; split <;> rfl
@[simp] theorem State.updWarp_savedQ (s : State) (key : Nat) (g : Warp → Warp) : (s.updWarp key g).savedQ = s.savedQ := by
  unfold State.updWarp; split <;> rfl
@[simp] theorem State.updWarp_swap (s : State) (key : Nat) (g : Warp → Warp) : (s.updWarp key g).swap = s.swap := by
  unfold State.updWarp; split <;> rfl
@[simp] theorem State.updWarp_walkers (s : State) (key : Nat) (g : Warp → Warp) : (s.updWarp key g).walkers = s.walkers := by
  unfold State.updWarp; split <;> rfl
@[simp] theorem State.updWarp_pipes (s : State) (key : Nat) (g : Warp → Warp) : (s.updWarp key g).pipes = s.pipes := by
  unfold State.updWarp; split <;> rfl
@[simp] theorem State.updWarp_rings (s : State) (key : Nat) (g : Warp → Warp) : (s.updWarp key g).rings = s.rings := by
  unfold State.updWarp; split <;> rfl
@[simp] theorem State.updWarp_slots (s : State) (key : Nat) (g : Warp → Warp) : (s.updWarp key g).slots = s.slots := by
  unfold State.updWarp; split <;> rfl
@[simp] theorem State.updWarp_dps (s : State) (key : Nat) (g : Warp → Warp) : (s.updWarp key g).dps = s.dps := by
  unfold State.updWarp; split <;> rfl
@[simp] theorem State.updWarp_hostData (s : State) (key : Nat) (g : Warp → Warp) : (s.updWarp key g).hostData = s.hostData := by
  unfold State.updWarp; split <;> rfl
@[simp] theorem State.updWarp_flights (s : State) (key : Nat) (g : Warp → Warp) : (s.updWarp key g).flights = s.flights := by
  unfold State.updWarp; split <;> rfl
@[simp] theorem State.updWarp_slotsHeld (s : State) (key : Nat) (g : Warp → Warp) : (s.updWarp key g).slotsHeld = s.slotsHeld := by
  unfold State.updWarp; split <;> rfl
@[simp] theorem State.updWarp_cal (s : State) (key : Nat) (g : Warp → Warp) : (s.updWarp key g).cal = s.cal := by
  unfold State.updWarp; split <;> rfl
@[simp] theorem State.updWarp_hostQ (s : State) (key : Nat) (g : Warp → Warp) : (s.updWarp key g).hostQ = s.hostQ := by
  unfold State.updWarp; split <;> rfl
@[simp] theorem State.updWarp_hostGap (s : State) (key : Nat) (g : Warp → Warp) : (s.updWarp key g).hostGap = s.hostGap := by
  unfold State.updWarp; split <;> rfl
@[simp] theorem State.updWarp_ctlQ (s : State) (key : Nat) (g : Warp → Warp) : (s.updWarp key g).ctlQ = s.ctlQ := by
  unfold State.updWarp; split <;> rfl
@[simp] theorem State.updWarp_slotTill (s : State) (key : Nat) (g : Warp → Warp) : (s.updWarp key g).slotTill = s.slotTill := by
  unfold State.updWarp; split <;> rfl
@[simp] theorem State.updWarp_traffic (s : State) (key : Nat) (g : Warp → Warp) : (s.updWarp key g).traffic = s.traffic := by
  unfold State.updWarp; split <;> rfl
@[simp] theorem State.updWarp_hostRds (s : State) (key : Nat) (g : Warp → Warp) : (s.updWarp key g).hostRds = s.hostRds := by
  unfold State.updWarp; split <;> rfl
@[simp] theorem State.updWarp_hostSeq (s : State) (key : Nat) (g : Warp → Warp) : (s.updWarp key g).hostSeq = s.hostSeq := by
  unfold State.updWarp; split <;> rfl
@[simp] theorem State.updWarp_hostSlot (s : State) (key : Nat) (g : Warp → Warp) : (s.updWarp key g).hostSlot = s.hostSlot := by
  unfold State.updWarp; split <;> rfl
@[simp] theorem State.updWarp_tried (s : State) (key : Nat) (g : Warp → Warp) : (s.updWarp key g).tried = s.tried := by
  unfold State.updWarp; split <;> rfl
@[simp] theorem State.updWarp_throtTill (s : State) (key : Nat) (g : Warp → Warp) : (s.updWarp key g).throtTill = s.throtTill := by
  unfold State.updWarp; split <;> rfl
@[simp] theorem State.updWarp_stageWait (s : State) (key : Nat) (g : Warp → Warp) : (s.updWarp key g).stageWait = s.stageWait := by
  unfold State.updWarp; split <;> rfl
@[simp] theorem State.updWarp_portNext (s : State) (key : Nat) (g : Warp → Warp) : (s.updWarp key g).portNext = s.portNext := by
  unfold State.updWarp; split <;> rfl
@[simp] theorem State.updWarp_encAt (s : State) (key : Nat) (g : Warp → Warp) : (s.updWarp key g).encAt = s.encAt := by
  unfold State.updWarp; split <;> rfl
@[simp] theorem State.updWarp_hostErr (s : State) (key : Nat) (g : Warp → Warp) : (s.updWarp key g).hostErr = s.hostErr := by
  unfold State.updWarp; split <;> rfl
@[simp] theorem State.updWarp_peerStat (s : State) (key : Nat) (g : Warp → Warp) : (s.updWarp key g).peerStat = s.peerStat := by
  unfold State.updWarp; split <;> rfl
@[simp] theorem State.updWarp_peerData (s : State) (key : Nat) (g : Warp → Warp) : (s.updWarp key g).peerData = s.peerData := by
  unfold State.updWarp; split <;> rfl
@[simp] theorem State.updWarp_peerPsn (s : State) (key : Nat) (g : Warp → Warp) : (s.updWarp key g).peerPsn = s.peerPsn := by
  unfold State.updWarp; split <;> rfl
@[simp] theorem State.updWarp_hostPsn (s : State) (key : Nat) (g : Warp → Warp) : (s.updWarp key g).hostPsn = s.hostPsn := by
  unfold State.updWarp; split <;> rfl
@[simp] theorem State.updWarp_hods (s : State) (key : Nat) (g : Warp → Warp) : (s.updWarp key g).hods = s.hods := by
  unfold State.updWarp; split <;> rfl
@[simp] theorem State.updWarp_autoFrags (s : State) (key : Nat) (g : Warp → Warp) : (s.updWarp key g).autoFrags = s.autoFrags := by
  unfold State.updWarp; split <;> rfl
@[simp] theorem State.updWarp_copyDone (s : State) (key : Nat) (g : Warp → Warp) : (s.updWarp key g).copyDone = s.copyDone := by
  unfold State.updWarp; split <;> rfl
@[simp] theorem State.updWarp_lp (s : State) (key : Nat) (g : Warp → Warp) : (s.updWarp key g).lp = s.lp := by
  unfold State.updWarp; split <;> rfl
@[simp] theorem State.updWarp_dirCaches (s : State) (key : Nat) (g : Warp → Warp) : (s.updWarp key g).dirCaches = s.dirCaches := by
  unfold State.updWarp; split <;> rfl
@[simp] theorem State.updWarp_fabs (s : State) (key : Nat) (g : Warp → Warp) : (s.updWarp key g).fabs = s.fabs := by
  unfold State.updWarp; split <;> rfl
@[simp] theorem State.updWarp_ashs (s : State) (key : Nat) (g : Warp → Warp) : (s.updWarp key g).ashs = s.ashs := by
  unfold State.updWarp; split <;> rfl
@[simp] theorem State.updWarp_ashTurn (s : State) (key : Nat) (g : Warp → Warp) : (s.updWarp key g).ashTurn = s.ashTurn := by
  unfold State.updWarp; split <;> rfl
@[simp] theorem State.updWarp_latches (s : State) (key : Nat) (g : Warp → Warp) : (s.updWarp key g).latches = s.latches := by
  unfold State.updWarp; split <;> rfl
@[simp] theorem State.updWarp_ptr (s : State) (key : Nat) (g : Warp → Warp) : (s.updWarp key g).ptr = s.ptr := by
  unfold State.updWarp; split <;> rfl
@[simp] theorem State.updWarp_life (s : State) (key : Nat) (g : Warp → Warp) : (s.updWarp key g).life = s.life := by
  unfold State.updWarp; split <;> rfl
@[simp] theorem State.updWarp_fab (s : State) (key : Nat) (g : Warp → Warp) : (s.updWarp key g).fab = s.fab := by
  unfold State.updWarp; split <;> rfl
@[simp] theorem State.updWarp_clusters (s : State) (key : Nat) (g : Warp → Warp) : (s.updWarp key g).clusters = s.clusters := by
  unfold State.updWarp; split <;> rfl
@[simp] theorem State.updWarp_margins (s : State) (key : Nat) (g : Warp → Warp) : (s.updWarp key g).margins = s.margins := by
  unfold State.updWarp; split <;> rfl

/-! ### `State.updNode` -/

@[simp] theorem State.updNode_agenda (s : State) (key nid : Nat) (g : Node → Node) : (s.updNode key nid g).agenda = s.agenda :=
  s.setNode_agenda key nid _
@[simp] theorem State.updNode_cur (s : State) (key nid : Nat) (g : Node → Node) : (s.updNode key nid g).cur = s.cur :=
  s.setNode_cur key nid _
@[simp] theorem State.updNode_fresh (s : State) (key nid : Nat) (g : Node → Node) : (s.updNode key nid g).fresh = s.fresh :=
  s.setNode_fresh key nid _
@[simp] theorem State.updNode_clk (s : State) (key nid : Nat) (g : Node → Node) : (s.updNode key nid g).clk = s.clk :=
  s.setNode_clk key nid _
@[simp] theorem State.updNode_tbase (s : State) (key nid : Nat) (g : Node → Node) : (s.updNode key nid g).tbase = s.tbase :=
  s.setNode_tbase key nid _
@[simp] theorem State.updNode_mem (s : State) (key nid : Nat) (g : Node → Node) : (s.updNode key nid g).mem = s.mem :=
  s.setNode_mem key nid _
@[simp] theorem State.updNode_ctxs (s : State) (key nid : Nat) (g : Node → Node) : (s.updNode key nid g).ctxs = s.ctxs :=
  s.setNode_ctxs key nid _
@[simp] theorem State.updNode_heavy (s : State) (key nid : Nat) (g : Node → Node) : (s.updNode key nid g).heavy = s.heavy :=
  s.setNode_heavy key nid _
@[simp] theorem State.updNode_teams (s : State) (key nid : Nat) (g : Node → Node) : (s.updNode key nid g).teams = s.teams :=
  s.setNode_teams key nid _
@[simp] theorem State.updNode_launches (s : State) (key nid : Nat) (g : Node → Node) : (s.updNode key nid g).launches = s.launches :=
  s.setNode_launches key nid _
@[simp] theorem State.updNode_teamSeq (s : State) (key nid : Nat) (g : Node → Node) : (s.updNode key nid g).teamSeq = s.teamSeq :=
  s.setNode_teamSeq key nid _
@[simp] theorem State.updNode_launchCtr (s : State) (key nid : Nat) (g : Node → Node) : (s.updNode key nid g).launchCtr = s.launchCtr :=
  s.setNode_launchCtr key nid _
@[simp] theorem State.updNode_queues (s : State) (key nid : Nat) (g : Node → Node) : (s.updNode key nid g).queues = s.queues :=
  s.setNode_queues key nid _
@[simp] theorem State.updNode_arb (s : State) (key nid : Nat) (g : Node → Node) : (s.updNode key nid g).arb = s.arb :=
  s.setNode_arb key nid _
@[simp] theorem State.updNode_taskQ (s : State) (key nid : Nat) (g : Node → Node) : (s.updNode key nid g).taskQ = s.taskQ :=
  s.setNode_taskQ key nid _
@[simp] theorem State.updNode_waitTasks (s : State) (key nid : Nat) (g : Node → Node) : (s.updNode key nid g).waitTasks = s.waitTasks :=
  s.setNode_waitTasks key nid _
@[simp] theorem State.updNode_chainQ (s : State) (key nid : Nat) (g : Node → Node) : (s.updNode key nid g).chainQ = s.chainQ :=
  s.setNode_chainQ key nid _
@[simp] theorem State.updNode_binQ (s : State) (key nid : Nat) (g : Node → Node) : (s.updNode key nid g).binQ = s.binQ :=
  s.setNode_binQ key nid _
@[simp] theorem State.updNode_savedQ (s : State) (key nid : Nat) (g : Node → Node) : (s.updNode key nid g).savedQ = s.savedQ :=
  s.setNode_savedQ key nid _
@[simp] theorem State.updNode_swap (s : State) (key nid : Nat) (g : Node → Node) : (s.updNode key nid g).swap = s.swap :=
  s.setNode_swap key nid _
@[simp] theorem State.updNode_walkers (s : State) (key nid : Nat) (g : Node → Node) : (s.updNode key nid g).walkers = s.walkers :=
  s.setNode_walkers key nid _
@[simp] theorem State.updNode_pipes (s : State) (key nid : Nat) (g : Node → Node) : (s.updNode key nid g).pipes = s.pipes :=
  s.setNode_pipes key nid _
@[simp] theorem State.updNode_rings (s : State) (key nid : Nat) (g : Node → Node) : (s.updNode key nid g).rings = s.rings :=
  s.setNode_rings key nid _
@[simp] theorem State.updNode_slots (s : State) (key nid : Nat) (g : Node → Node) : (s.updNode key nid g).slots = s.slots :=
  s.setNode_slots key nid _
@[simp] theorem State.updNode_dps (s : State) (key nid : Nat) (g : Node → Node) : (s.updNode key nid g).dps = s.dps :=
  s.setNode_dps key nid _
@[simp] theorem State.updNode_hostData (s : State) (key nid : Nat) (g : Node → Node) : (s.updNode key nid g).hostData = s.hostData :=
  s.setNode_hostData key nid _
@[simp] theorem State.updNode_flights (s : State) (key nid : Nat) (g : Node → Node) : (s.updNode key nid g).flights = s.flights :=
  s.setNode_flights key nid _
@[simp] theorem State.updNode_slotsHeld (s : State) (key nid : Nat) (g : Node → Node) : (s.updNode key nid g).slotsHeld = s.slotsHeld :=
  s.setNode_slotsHeld key nid _
@[simp] theorem State.updNode_cal (s : State) (key nid : Nat) (g : Node → Node) : (s.updNode key nid g).cal = s.cal :=
  s.setNode_cal key nid _
@[simp] theorem State.updNode_hostQ (s : State) (key nid : Nat) (g : Node → Node) : (s.updNode key nid g).hostQ = s.hostQ :=
  s.setNode_hostQ key nid _
@[simp] theorem State.updNode_hostGap (s : State) (key nid : Nat) (g : Node → Node) : (s.updNode key nid g).hostGap = s.hostGap :=
  s.setNode_hostGap key nid _
@[simp] theorem State.updNode_ctlQ (s : State) (key nid : Nat) (g : Node → Node) : (s.updNode key nid g).ctlQ = s.ctlQ :=
  s.setNode_ctlQ key nid _
@[simp] theorem State.updNode_slotTill (s : State) (key nid : Nat) (g : Node → Node) : (s.updNode key nid g).slotTill = s.slotTill :=
  s.setNode_slotTill key nid _
@[simp] theorem State.updNode_traffic (s : State) (key nid : Nat) (g : Node → Node) : (s.updNode key nid g).traffic = s.traffic :=
  s.setNode_traffic key nid _
@[simp] theorem State.updNode_hostRds (s : State) (key nid : Nat) (g : Node → Node) : (s.updNode key nid g).hostRds = s.hostRds :=
  s.setNode_hostRds key nid _
@[simp] theorem State.updNode_hostSeq (s : State) (key nid : Nat) (g : Node → Node) : (s.updNode key nid g).hostSeq = s.hostSeq :=
  s.setNode_hostSeq key nid _
@[simp] theorem State.updNode_hostSlot (s : State) (key nid : Nat) (g : Node → Node) : (s.updNode key nid g).hostSlot = s.hostSlot :=
  s.setNode_hostSlot key nid _
@[simp] theorem State.updNode_tried (s : State) (key nid : Nat) (g : Node → Node) : (s.updNode key nid g).tried = s.tried :=
  s.setNode_tried key nid _
@[simp] theorem State.updNode_throtTill (s : State) (key nid : Nat) (g : Node → Node) : (s.updNode key nid g).throtTill = s.throtTill :=
  s.setNode_throtTill key nid _
@[simp] theorem State.updNode_stageWait (s : State) (key nid : Nat) (g : Node → Node) : (s.updNode key nid g).stageWait = s.stageWait :=
  s.setNode_stageWait key nid _
@[simp] theorem State.updNode_portNext (s : State) (key nid : Nat) (g : Node → Node) : (s.updNode key nid g).portNext = s.portNext :=
  s.setNode_portNext key nid _
@[simp] theorem State.updNode_encAt (s : State) (key nid : Nat) (g : Node → Node) : (s.updNode key nid g).encAt = s.encAt :=
  s.setNode_encAt key nid _
@[simp] theorem State.updNode_hostErr (s : State) (key nid : Nat) (g : Node → Node) : (s.updNode key nid g).hostErr = s.hostErr :=
  s.setNode_hostErr key nid _
@[simp] theorem State.updNode_peerStat (s : State) (key nid : Nat) (g : Node → Node) : (s.updNode key nid g).peerStat = s.peerStat :=
  s.setNode_peerStat key nid _
@[simp] theorem State.updNode_peerData (s : State) (key nid : Nat) (g : Node → Node) : (s.updNode key nid g).peerData = s.peerData :=
  s.setNode_peerData key nid _
@[simp] theorem State.updNode_peerPsn (s : State) (key nid : Nat) (g : Node → Node) : (s.updNode key nid g).peerPsn = s.peerPsn :=
  s.setNode_peerPsn key nid _
@[simp] theorem State.updNode_hostPsn (s : State) (key nid : Nat) (g : Node → Node) : (s.updNode key nid g).hostPsn = s.hostPsn :=
  s.setNode_hostPsn key nid _
@[simp] theorem State.updNode_hods (s : State) (key nid : Nat) (g : Node → Node) : (s.updNode key nid g).hods = s.hods :=
  s.setNode_hods key nid _
@[simp] theorem State.updNode_autoFrags (s : State) (key nid : Nat) (g : Node → Node) : (s.updNode key nid g).autoFrags = s.autoFrags :=
  s.setNode_autoFrags key nid _
@[simp] theorem State.updNode_copyDone (s : State) (key nid : Nat) (g : Node → Node) : (s.updNode key nid g).copyDone = s.copyDone :=
  s.setNode_copyDone key nid _
@[simp] theorem State.updNode_lp (s : State) (key nid : Nat) (g : Node → Node) : (s.updNode key nid g).lp = s.lp :=
  s.setNode_lp key nid _
@[simp] theorem State.updNode_dirCaches (s : State) (key nid : Nat) (g : Node → Node) : (s.updNode key nid g).dirCaches = s.dirCaches :=
  s.setNode_dirCaches key nid _
@[simp] theorem State.updNode_fabs (s : State) (key nid : Nat) (g : Node → Node) : (s.updNode key nid g).fabs = s.fabs :=
  s.setNode_fabs key nid _
@[simp] theorem State.updNode_ashs (s : State) (key nid : Nat) (g : Node → Node) : (s.updNode key nid g).ashs = s.ashs :=
  s.setNode_ashs key nid _
@[simp] theorem State.updNode_ashTurn (s : State) (key nid : Nat) (g : Node → Node) : (s.updNode key nid g).ashTurn = s.ashTurn :=
  s.setNode_ashTurn key nid _
@[simp] theorem State.updNode_latches (s : State) (key nid : Nat) (g : Node → Node) : (s.updNode key nid g).latches = s.latches :=
  s.setNode_latches key nid _
@[simp] theorem State.updNode_ptr (s : State) (key nid : Nat) (g : Node → Node) : (s.updNode key nid g).ptr = s.ptr :=
  s.setNode_ptr key nid _
@[simp] theorem State.updNode_life (s : State) (key nid : Nat) (g : Node → Node) : (s.updNode key nid g).life = s.life :=
  s.setNode_life key nid _
@[simp] theorem State.updNode_fab (s : State) (key nid : Nat) (g : Node → Node) : (s.updNode key nid g).fab = s.fab :=
  s.setNode_fab key nid _
@[simp] theorem State.updNode_clusters (s : State) (key nid : Nat) (g : Node → Node) : (s.updNode key nid g).clusters = s.clusters :=
  s.setNode_clusters key nid _
@[simp] theorem State.updNode_margins (s : State) (key nid : Nat) (g : Node → Node) : (s.updNode key nid g).margins = s.margins :=
  s.setNode_margins key nid _

end Sys2Proof.Machine
end

