-- ==== Sys2Proof/Laws/Memory.lean ====
section
/-! SUPPORT. The sparse maps and the memory: read after write, other places unchanged, and the canonical form kept by every
operation. -/
namespace Sys2Proof.Machine

variable {α : Type} [DecidableEq α] {d v : α} {m : Sparse α} {k j lo : Nat}

/-- A canonical map above a bound is canonical without it. -/
theorem swf_of_swfFrom (h : swfFrom d (some lo) m = true) : swf d m = true := by
  cases m with
  | nil => rfl
  | cons x t => obtain ⟨a, b⟩ := x; simp_all [swf, swfFrom]

/-- A canonical map's keys lie above the bound it starts from. -/
theorem sget_below (h : swfFrom d (some lo) m = true) (hk : k ≤ lo) : sget d m k = d := by
  cases m with
  | nil => rfl
  | cons x t =>
    obtain ⟨a, b⟩ := x
    have : lo < a := by simp [swfFrom] at h; omega
    simp only [sget]
    rw [if_neg (by omega), if_pos (by omega)]

/-- A lower bound may be lowered. -/
theorem swfFrom_mono {lo' : Nat} (h : swfFrom d (some lo) m = true) (hl : lo' ≤ lo) : swfFrom d (some lo') m = true := by
  cases m with
  | nil => rfl
  | cons x t => obtain ⟨a, b⟩ := x; simp [swfFrom] at h ⊢; exact ⟨⟨by omega, h.1.2⟩, h.2⟩

/-- `sput` keeps the canonical form above a bound below its key. -/
theorem swfFrom_sput (h : swfFrom d (some lo) m = true) (hk : lo < k) : swfFrom d (some lo) (sput d m k v) = true := by
  induction m generalizing lo with
  | nil => simp only [sput]; split <;> simp_all [swfFrom]
  | cons x t ih =>
    obtain ⟨a, b⟩ := x
    simp only [swfFrom, Bool.and_eq_true, decide_eq_true_eq] at h
    obtain ⟨⟨ha, hb⟩, ht⟩ := h
    simp only [sput]
    split
    · split
      · simp [swfFrom, ha, hb, ht]
      · rename_i h1 h2; simp [swfFrom, hk, h2, h1, hb, ht]
    · split
      · rename_i h1 h2
        split
        · exact swfFrom_mono ht (by omega)
        · rename_i h3; subst h2; simp [swfFrom, ha, h3, ht]
      · rename_i h1 h2
        have := ih ht (by omega)
        simp [swfFrom, ha, hb, this]

/-- `sput` keeps the canonical form. -/
theorem swf_sput (h : swf d m = true) : swf d (sput d m k v) = true := by
  cases m with
  | nil => simp only [sput]; split <;> simp_all [swf, swfFrom]
  | cons x t =>
    obtain ⟨a, b⟩ := x
    simp only [swf, swfFrom, Bool.true_and, Bool.and_eq_true, decide_eq_true_eq] at h
    simp only [sput]
    split
    · split
      · simp [swf, swfFrom, h]
      · rename_i h1 h2; simp [swf, swfFrom, h, h1, h2]
    · split
      · rename_i h1 h2
        split
        · exact swf_of_swfFrom h.2
        · rename_i h3; subst h2; simp [swf, swfFrom, h3, h.2]
      · rename_i h1 h2
        have hlt : a < k := by omega
        simp [swf, swfFrom, h.1, swfFrom_sput h.2 hlt]

/-- Reading the key just written, above a bound. -/
theorem sget_sput_same_from (h : swfFrom d (some lo) m = true) : sget d (sput d m k v) k = v := by
  induction m generalizing lo with
  | nil => simp only [sput]; split <;> simp_all [sget]
  | cons x t ih =>
    obtain ⟨a, b⟩ := x
    simp only [swfFrom, Bool.and_eq_true, decide_eq_true_eq] at h
    simp only [sput]
    split
    · split
      · rename_i h1 h2; simp [sget, h1, h2, Nat.ne_of_lt h1]
      · simp [sget]
    · split
      · rename_i h1 h2
        split
        · rename_i h3; rw [h3]; exact sget_below h.2 (by omega)
        · simp [sget, h2]
      · rename_i h1 h2; simp [sget, h1, h2, ih h.2]

/-- Reading the key just written. -/
theorem sget_sput_same (h : swf d m = true) : sget d (sput d m k v) k = v := by
  cases m with
  | nil => simp only [sput]; split <;> simp_all [sget]
  | cons x t =>
    obtain ⟨a, b⟩ := x
    simp only [swf, swfFrom, Bool.true_and, Bool.and_eq_true, decide_eq_true_eq] at h
    simp only [sput]
    split
    · split
      · rename_i h1 h2; simp [sget, h1, h2, Nat.ne_of_lt h1]
      · simp [sget]
    · split
      · rename_i h1 h2
        split
        · rename_i h3; rw [h3]; exact sget_below h.2 (by omega)
        · simp [sget, h2]
      · rename_i h1 h2; simp [sget, h1, h2, sget_sput_same_from h.2]

/-- A write above a bound leaves every other key as it was. -/
theorem sget_sput_other_from (h : swfFrom d (some lo) m = true) (hj : j ≠ k) : sget d (sput d m k v) j = sget d m j := by
  induction m generalizing lo with
  | nil => simp only [sput]; split <;> simp_all [sget]
  | cons x t ih =>
    obtain ⟨a, b⟩ := x
    simp only [swfFrom, Bool.and_eq_true, decide_eq_true_eq] at h
    simp only [sput]
    split
    · split
      · rfl
      · rename_i h1 h2
        simp only [sget, if_neg hj]
        by_cases hlt : j < k
        · rw [if_pos hlt, if_neg (by omega), if_pos (by omega)]
        · rw [if_neg hlt]
    · split
      · rename_i h1 h2
        split
        · rename_i h3
          subst h2
          simp only [sget, if_neg hj]
          by_cases hlt : j < k
          · rw [if_pos hlt]; exact sget_below h.2 (by omega)
          · rw [if_neg hlt]
        · rename_i h3; subst h2; simp [sget, hj]
      · rename_i h1 h2; simp only [sget, ih h.2]

/-- A write leaves every other key as it was. -/
theorem sget_sput_other (h : swf d m = true) (hj : j ≠ k) : sget d (sput d m k v) j = sget d m j := by
  cases m with
  | nil => simp only [sput]; split <;> simp_all [sget]
  | cons x t =>
    obtain ⟨a, b⟩ := x
    have h' := h
    simp only [swf, swfFrom, Bool.true_and, Bool.and_eq_true, decide_eq_true_eq] at h
    cases a with
    | zero =>
      simp only [sput, Nat.not_lt_zero, if_false]
      split
      · rename_i h1
        split
        · subst h1
          simp only [sget, if_neg hj, Nat.not_lt_zero, if_false]
        · subst h1; simp [sget, hj]
      · simp only [sget, sget_sput_other_from h.2 hj]
    | succ n =>
      have : swfFrom d (some n) ((n + 1, b) :: t) = true := by simp [swfFrom, h.1, h.2]
      exact sget_sput_other_from this hj

/-- The canonical form after a change at one key. -/
theorem swf_supd {f : α → α} (h : swf d m = true) : swf d (supd d m k f) = true := swf_sput h

/-- Putting a key below every key of a map. -/
theorem sput_below (h : swfFrom d (some k) m = true) : sput d m k v = if v = d then m else (k, v) :: m := by
  cases m with
  | nil => rfl
  | cons x t =>
    obtain ⟨a, b⟩ := x
    have : k < a := by simp [swfFrom] at h; omega
    simp only [sput, if_pos this]

/-- A second write of a key replaces the first. -/
theorem sput_sput {u : α} (h : swf d m = true) : sput d (sput d m k u) k v = sput d m k v := by
  have from_ : ∀ (m : Sparse α) (lo : Nat), swfFrom d (some lo) m = true → sput d (sput d m k u) k v = sput d m k v := by
    intro m
    induction m with
    | nil => intro lo _; simp only [sput]; split <;> simp [sput]
    | cons x t ih =>
      intro lo hm
      obtain ⟨a, b⟩ := x
      simp only [swfFrom, Bool.and_eq_true, decide_eq_true_eq] at hm
      rcases Nat.lt_trichotomy k a with hk | hk | hk
      · simp only [sput, if_pos hk]
        split
        · simp only [sput, if_pos hk]
        · simp [sput]
      · subst hk
        simp only [sput, Nat.lt_irrefl, if_false, if_true]
        split
        · exact sput_below hm.2
        · simp [sput]
      · have h1 : ¬ k < a := by omega
        have h2 : ¬ k = a := by omega
        simp only [sput, if_neg h1, if_neg h2, ih a hm.2]
  cases m with
  | nil => exact from_ [] 0 rfl
  | cons x t =>
    obtain ⟨a, b⟩ := x
    simp only [swf, swfFrom, Bool.true_and, Bool.and_eq_true, decide_eq_true_eq] at h
    rcases Nat.lt_trichotomy k a with hk | hk | hk
    · simp only [sput, if_pos hk]
      split
      · simp only [sput, if_pos hk]
      · simp [sput]
    · subst hk
      simp only [sput, Nat.lt_irrefl, if_false, if_true]
      split
      · exact sput_below h.2
      · simp [sput]
    · have h1 : ¬ k < a := by omega
      have h2 : ¬ k = a := by omega
      simp only [sput, if_neg h1, if_neg h2, from_ t a h.2]

/-! ### Bytes of memory -/

/-- Writing a byte keeps the memory's canonical form. -/
theorem memSet_wf {b : Memory} {a : Nat} {x : Byte} (h : Memory.wf b = true) : Memory.wf (memSet b a x) = true := swf_sput h

/-- The byte just written. -/
theorem memByte_memSet_same {b : Memory} {a : Nat} {x : Byte} (h : Memory.wf b = true) : memByte (memSet b a x) a = x :=
  sget_sput_same h

/-- Another byte. -/
theorem memByte_memSet_other {b : Memory} {a c : Nat} {x : Byte} (h : Memory.wf b = true) (hc : c ≠ a) :
    memByte (memSet b a x) c = memByte b c := sget_sput_other h hc

/-- A write of any width keeps the memory's canonical form. -/
theorem memWrite_wf {b : Memory} {a n x : Nat} (h : Memory.wf b = true) : Memory.wf (memWrite b a n x) = true := by
  induction n generalizing b a x with
  | zero => exact h
  | succ n ih => exact ih (memSet_wf h)

/-- A write leaves every byte outside it as it was. -/
theorem memByte_memWrite_outside {b : Memory} {a n x c : Nat} (h : Memory.wf b = true) (hc : c < a ∨ a + n ≤ c) :
    memByte (memWrite b a n x) c = memByte b c := by
  induction n generalizing b a x with
  | zero => rfl
  | succ n ih =>
    simp only [memWrite]
    rw [ih (memSet_wf h) (by omega), memByte_memSet_other h (by omega)]

/-- The memory right after reset has the canonical form. -/
theorem reset_mem_wf : Memory.wf State.reset.mem.bytes = true := rfl

end Sys2Proof.Machine
end

