-- ==== Sys2Proof/Laws/Sram.lean ====
section
/-! SUPPORT. What the operations of the slices do to the bytes they hold: reads and checks change none, writes change the bytes
they name and keep the canonical form. -/
namespace Sys2Proof.Machine

@[simp] theorem Sram.updCtr_bytes (m : Sram) (sl : Nat) (f : SliceCtr → SliceCtr) : (m.updCtr sl f).bytes = m.bytes := rfl
@[simp] theorem Sram.setPsn_bytes (m : Sram) (g : Nat) (b : Bool) : (m.setPsn g b).bytes = m.bytes := rfl
@[simp] theorem Sram.notePlain_bytes (m : Sram) (c g a sl : Nat) : (m.notePlain c g a sl).bytes = m.bytes := rfl
@[simp] theorem Sram.dropWaiter_bytes (m : Sram) (key : Nat) (nid : Option Nat) : (m.dropWaiter key nid).bytes = m.bytes := rfl

/-- The check of a bank read changes no byte (02 R42). -/
@[simp] theorem Sram.check_bytes (m : Sram) (g : Nat) : (m.check g).bytes = m.bytes := by
  unfold Sram.check
  by_cases h : sget false m.ceLat g = true <;> simp only [h, if_true, Bool.false_eq_true, if_false] <;> split <;> rfl

/-- The rewrite of a granule changes no byte. -/
@[simp] theorem Sram.rewritten_bytes (m : Sram) (g : Nat) : (m.rewritten g).bytes = m.bytes := rfl

/-- A bank read changes no byte. -/
@[simp] theorem Sram.readGran_bytes (m : Sram) (g : Nat) : (m.readGran g).2.bytes = m.bytes := by
  unfold Sram.readGran
  simp only
  split
  · split
    · simp
    · simp
  · simp

/-- Waking waiters changes no byte. -/
@[simp] theorem Sram.wakeWord_bytes (m : Sram) (g : Nat) : (m.wakeWord g).bytes = m.bytes := by
  unfold Sram.wakeWord; simp only; split <;> rfl

/-- A write inside one granule writes the bytes it names. -/
@[simp] theorem Sram.write_bytes (m : Sram) (pa n x : Nat) (psn : Bool) : (m.write pa n x psn).bytes = memWrite m.bytes pa n x := by
  unfold Sram.write
  simp only [Sram.wakeWord_bytes]
  split
  · simp
  · split <;> simp

/-- A write keeps the canonical form. -/
theorem Sram.write_wf {m : Sram} {pa n x : Nat} {psn : Bool} (h : Memory.wf m.bytes = true) :
    Memory.wf (m.write pa n x psn).bytes = true := by
  rw [Sram.write_bytes]; exact memWrite_wf h

/-- A read of a span changes no byte. -/
@[simp] theorem Sram.readSpan_bytes (m : Sram) (pa n : Nat) : (m.readSpan pa n).2.2.bytes = m.bytes := by
  have key : ∀ (l : List Nat) (b : Bool) (m : Sram),
      (l.foldl (fun (acc : Bool × Sram) g => (acc.1 || (acc.2.readGran g).1, (acc.2.readGran g).2)) (b, m)).2.bytes = m.bytes := by
    intro l
    induction l with
    | nil => intro b m; rfl
    | cons g t ih => intro b m; simp only [List.foldl_cons]; rw [ih]; simp
  exact key _ _ _

/-- What a read of a span delivers. -/
@[simp] theorem Sram.readSpan_value (m : Sram) (pa n : Nat) : (m.readSpan pa n).1 = memRead m.bytes pa n := rfl

/-- A write of a span keeps the canonical form. -/
theorem Sram.writeSpan_wf {fuel : Nat} {m : Sram} {pa n x : Nat} {psn : Bool} (h : Memory.wf m.bytes = true) :
    Memory.wf (m.writeSpan pa fuel n x psn).bytes = true := by
  induction fuel generalizing m pa n x with
  | zero => exact h
  | succ f ih =>
    unfold Sram.writeSpan
    split
    · exact h
    · exact ih (Sram.write_wf h)

/-- A write of a span leaves every byte outside it as it was. -/
theorem Sram.writeSpan_outside {fuel : Nat} {m : Sram} {pa n x c : Nat} {psn : Bool} (h : Memory.wf m.bytes = true)
    (hc : c < pa ∨ pa + n ≤ c) : memByte (m.writeSpan pa fuel n x psn).bytes c = memByte m.bytes c := by
  induction fuel generalizing m pa n x with
  | zero => rfl
  | succ f ih =>
    unfold Sram.writeSpan
    split
    · rfl
    · rw [ih (Sram.write_wf h) (by omega), Sram.write_bytes, memByte_memWrite_outside h (by omega)]

/-- An atomic step's store keeps the canonical form. -/
theorem Sram.storeAtomic_wf {m : Sram} {pa n old new : Nat} (h : Memory.wf m.bytes = true) :
    Memory.wf (m.storeAtomic pa n old new).bytes = true := by
  unfold Sram.storeAtomic; split
  · exact h
  · exact Sram.write_wf h

/-- A barrier step keeps the canonical form. -/
theorem Sram.barStep_wf {m m' : Sram} {pa : Nat} {k : BarStep} {o : Bar} (h : Memory.wf m.bytes = true)
    (e : m.barStep pa k = some (o, m')) : Memory.wf m'.bytes = true := by
  unfold Sram.barStep at e
  simp only at e
  split at e
  · cases e
  · simp only [Option.some.injEq, Prod.mk.injEq] at e
    rw [← e.2]; exact Sram.storeAtomic_wf (by simpa using h)

end Sys2Proof.Machine
end

