-- ==== Sys2Proof/Laws/Steps.lean ====
section
/-! SUPPORT. Taking a fault and ending an instruction leave SRAM as it is (16 R418-R424); a step on an object writes that object alone
and keeps the canonical form of memory (05 R126). -/
namespace Sys2Proof.Machine

/-! ### Faults leave SRAM -/

@[simp] theorem State.queueFaultFrom_mem (s : State) (after key : Nat) (w : Warp) (code cause img : Nat) (work : Work) :
    (s.queueFaultFrom after key w code cause img work).mem = s.mem := by
  unfold State.queueFaultFrom; simp only; split <;> simp

@[simp] theorem State.queueFault_mem (s : State) (key : Nat) (w : Warp) (code cause img : Nat) (work : Work) :
    (s.queueFault key w code cause img work).mem = s.mem := State.queueFaultFrom_mem ..

@[simp] theorem State.parkWarp_mem (s : State) (key nid code cause arg : Nat) (lm : LaneMask) (va xf : Nat) :
    (s.parkWarp key nid code cause arg lm va xf).mem = s.mem := by
  unfold State.parkWarp; split <;> simp

@[simp] theorem State.requestStaging_mem (s : State) (core ctx page : Nat) (strip : Bool) : (s.requestStaging core ctx page strip).mem = s.mem := by
  unfold State.requestStaging; simp only; (repeat' split) <;> rfl

/-- A fold whose every step leaves SRAM leaves it. -/
theorem foldl_mem {α : Type} (f : State → α → State) (hf : ∀ s a, (f s a).mem = s.mem) (l : List α) (s : State) :
    (l.foldl f s).mem = s.mem := by
  induction l generalizing s with
  | nil => rfl
  | cons a t ih => rw [List.foldl_cons, ih, hf]

@[simp] theorem State.routeFragment_mem (s : State) (key nid : Nat) (w : Warp) (fs : List LaneFault) (fid : Nat) :
    (s.routeFragment key nid w fs fid).mem = s.mem := by
  have h := fun (l : List Nat) (s : State) => foldl_mem (fun (st : State) p => st.requestStaging (coreOf key) w.ctx p w.strip)
    (fun st p => State.requestStaging_mem ..) l s
  unfold State.routeFragment
  simp only
  split
  · exact h _ _
  · rw [State.queueFault_mem, h]

@[simp] theorem State.takeLaneFaults_mem (s : State) (key nid : Nat) (act : LaneMask) (fs : List LaneFault) (npc : Word) :
    (s.takeLaneFaults key nid act fs npc).mem = s.mem := by
  have h := fun (w : Warp) (l : List Nat) (s : State) => foldl_mem (fun (st : State) p => st.requestStaging (coreOf key) w.ctx p w.strip)
    (fun st p => State.requestStaging_mem ..) l s
  unfold State.takeLaneFaults
  split
  · rfl
  · simp only
    split
    · simp
    · split
      · split <;> simp
      · simp only [State.parkWarp_mem, State.updNode_mem, State.updWarp_mem, h]

/-- A trap leaves SRAM as its body has left it (16 R418). -/
theorem State.takeTrap_mem (s : State) (key nid : Nat) (act : LaneMask) {t : Trap} (h : ∀ s1 u, t ≠ .sunk s1 u) :
    (s.takeTrap key nid act t).mem = s.mem := by
  cases t with
  | warp code cause arg => simp [State.takeTrap]
  | all code va => simp only [State.takeTrap]; split <;> simp
  | sunk s1 u => exact absurd rfl (h s1 u)

/-! ### Ends of instructions leave SRAM -/

@[simp] theorem State.finish_mem (s : State) (c : Ctx) (npc : Word) (lt : LatchFx) (fs : List LaneFault) (axf : Nat) :
    (s.finish c npc lt fs axf).mem = s.mem := by
  unfold State.finish; simp only; split <;> simp

@[simp] theorem State.clearSpin_mem (s : State) (c : Ctx) : (s.clearSpin c).mem = s.mem := State.updNode_mem ..
@[simp] theorem State.acquireHold_mem (s : State) (c : Ctx) (till sc slot : Nat) : (s.acquireHold c till sc slot).mem = s.mem :=
  State.updNode_mem ..
@[simp] theorem State.pastStep_mem (s : State) (c : Ctx) (i : Instr) : (s.pastStep c i).mem = s.mem := by simp [State.pastStep]
@[simp] theorem State.pastAcquire_mem (s : State) (c : Ctx) (i : Instr) (back : Nat) : (s.pastAcquire c i back).mem = s.mem := by
  simp [State.pastAcquire]

/-! ### Steps on objects -/

/-- Waiting on a monitor changes no byte (04 R117). -/
@[simp] theorem Sram.register_bytes (m : Sram) (g : Nat) (wt : Waiter) (kind : Nat) : (m.register g wt kind).1.bytes = m.bytes := by
  unfold Sram.register; simp only; split <;> rfl

@[simp] theorem State.waitOn_bytes (s : State) (c : Ctx) (pa kind : Nat) : (s.waitOn c pa kind).mem.bytes = s.mem.bytes := by
  simp [State.waitOn]

@[simp] theorem State.semCheck_bytes (s : State) (c : Ctx) (i : Instr) (j : StepJob) (img t : Nat) :
    (s.semCheck c i j img t).mem.bytes = s.mem.bytes := by
  unfold State.semCheck; split <;> simp

/-- What follows the write of a step's object changes no byte. -/
@[simp] theorem State.stepAfter_bytes (s : State) (c : Ctx) (i : Instr) (j : StepJob) (o : Nat) :
    (s.stepAfter c i j o).1.mem.bytes = s.mem.bytes := by
  unfold State.stepAfter
  simp only
  (repeat' split) <;> simp

/-- What a step's body leaves has the canonical form, whether it goes on or ends in a fault, which no further one then holds. -/
theorem State.runStep_wf {s : State} {c : Ctx} {i : Instr} {j : StepJob} (h : Memory.wf s.mem.bytes = true) :
    (∀ r, s.runStep c i j = .ok r → Memory.wf r.1.mem.bytes = true) ∧
    ∀ t, s.runStep c i j = .error t → ∃ s1 u, t = .sunk s1 u ∧ Memory.wf s1.mem.bytes = true ∧ ∀ s2 v, u ≠ .sunk s2 v := by
  have hb : Memory.wf (s.setMem (s.mem.readSpan j.pa (stepSize i)).2.2).mem.bytes = true := by simpa using h
  have hbar : ∀ k s2 v, trapBarrier k ≠ .sunk s2 v := by intro k s2 v; simp [trapBarrier]
  have hbad : ∀ t s2 v, stepBad i j.x (s.mem.readSpan j.pa (stepSize i)).1 = some t → t ≠ .sunk s2 v := by
    intro t s2 v ht
    unfold stepBad at ht
    split at ht <;> (try split at ht) <;> (try split at ht) <;>
      simp only [reduceCtorEq, Option.some.injEq] at ht <;> subst ht <;> simp [trapBarrier, trapOpnd]
  have hbar2 := hbar 2
  unfold State.runStep needAt sunkTrap
  simp only [bind, Except.bind, pure, Except.pure]
  cases (s.mem.readSpan j.pa (stepSize i)).2.1 with
  | true => exact ⟨by simp, fun t ht => by cases ht; exact ⟨_, _, rfl, hb, by simp⟩⟩
  | false =>
    simp only [Bool.not_false, if_true]
    split
    · next u hu => exact ⟨by simp, fun t ht => by cases ht; exact ⟨_, _, rfl, hb, fun s2 v => hbad u s2 v hu⟩⟩
    · cases (!stepArrives i || ((s.setMem (s.mem.readSpan j.pa (stepSize i)).2.2).arrival c j.va).2.2) with
      | true =>
        simp only [if_true]
        exact ⟨fun r hr => by cases hr; simpa using Sram.storeAtomic_wf hb, by simp⟩
      | false => exact ⟨by simp, fun t ht => by cases ht; exact ⟨_, _, rfl, hb, hbar2⟩⟩

/-- A step whose path is gone keeps the canonical form. -/
theorem Sram.loneStep_wf {m : Sram} {i : Instr} {j : StepJob} (h : Memory.wf m.bytes = true) : Memory.wf (m.loneStep i j).bytes = true := by
  unfold Sram.loneStep
  simp only
  split
  · simpa using h
  · exact Sram.storeAtomic_wf (by simpa using h)

/-- A step at its bank slot keeps the canonical form of memory (05 R126). -/
theorem State.serveStep_wf {s : State} {key at_ : Nat} {j : StepJob} (h : Memory.wf s.mem.bytes = true) :
    Memory.wf (s.serveStep key at_ j).1.mem.bytes = true := by
  unfold State.serveStep
  simp only
  split
  · split
    · next he => simpa using Sram.barStep_wf h he
    · exact h
  · split
    · simpa using Sram.loneStep_wf h
    · split
      · next hr => simpa using (State.runStep_wf (s := { s with clk := at_ }) h).1 _ hr
      · next ht =>
        obtain ⟨s1, u, rfl, hw, hu⟩ := (State.runStep_wf (s := { s with clk := at_ }) h).2 _ ht
        unfold State.stepFault
        simp only [State.updNode_mem, Trap.base, State.takeTrap]
        split
        · exact hw
        · rw [State.takeTrap_mem _ _ _ _ hu]; exact hw

end Sys2Proof.Machine
end

