-- ==== Sys2Proof/Laws/Engine.lean ====
section
/-! SUPPORT. What the accesses of engines and of instructions in flight do to the bytes of SRAM: reads change none, writes keep the
canonical form, and serving a bank slot changes nothing of the state but SRAM and the flight. -/
namespace Sys2Proof.Machine

/-- A fold whose every step keeps the bytes keeps them. -/
theorem foldl_bytes {α β : Type} (f : α → β → α) (p : α → Sram) (hf : ∀ a b, (p (f a b)).bytes = (p a).bytes) (l : List β) (a : α) :
    (p (l.foldl f a)).bytes = (p a).bytes := by
  induction l generalizing a with
  | nil => rfl
  | cons b t ih => rw [List.foldl_cons, ih, hf]

/-- An engine's read changes no byte (02 R42). -/
@[simp] theorem Sram.engineRead_bytes (m : Sram) (pa n : Nat) : (m.engineRead pa n).2.2.2.bytes = m.bytes := by
  unfold Sram.engineRead
  exact foldl_bytes _ (fun a : Nat × Nat × Nat × Sram => a.2.2.2) (fun a b => by simp) _ _

/-- Traffic that joins a requester changes nothing but the traffic. -/
theorem State.addTraffic_frame (s : State) (req : Nat) (m : Move) : s.addTraffic req m = { s with traffic := (s.addTraffic req m).traffic } := by
  unfold State.addTraffic; split <;> rfl

@[simp] theorem State.addTraffic_mem (s : State) (req : Nat) (m : Move) : (s.addTraffic req m).mem = s.mem := by rw [State.addTraffic_frame]
@[simp] theorem State.stopSpan_mem (s : State) (edge pa n : Nat) : (s.stopSpan edge pa n).mem = s.mem := State.addTraffic_mem ..
@[simp] theorem State.teamSpan_mem (s : State) (core tk pa n : Nat) : (s.teamSpan core tk pa n).mem = s.mem := State.addTraffic_mem ..

/-- A read by an edge stop changes no byte (02 R42, R56). -/
@[simp] theorem State.stopRead_bytes (s : State) (edge pa n : Nat) : (s.stopRead edge pa n).2.2.2.mem.bytes = s.mem.bytes := by
  simp [State.stopRead]

/-- The device's own read of a record changes no byte, and delivers what the bytes hold where none is poisoned. -/
@[simp] theorem State.devRead_bytes (s : State) (pa n : Nat) : (s.devRead pa n).2.mem.bytes = s.mem.bytes := by simp [State.devRead]
theorem State.devRead_value {s : State} {pa n x : Nat} (h : (s.devRead pa n).1 = some x) : x = memRead s.mem.bytes pa n := by
  simp only [State.devRead] at h
  split at h
  · cases h
  · exact (Option.some.inj h).symm

/-- A plain write of a span keeps the canonical form. -/
theorem State.plainSpan_wf {s : State} {edge agent pa n x psn : Nat} (h : Memory.wf s.mem.bytes = true) :
    Memory.wf (s.plainSpan edge agent pa n x psn).mem.bytes = true := by
  unfold State.plainSpan
  rw [State.stopSpan_mem]
  generalize spanPieces 32 (n + 1) pa 0 n = l
  induction l generalizing s with
  | nil => exact h
  | cons p t ih =>
    rw [List.foldl_cons]
    exact ih (by simpa [State.setMem] using memWrite_wf h)

/-- A fold whose every step keeps the canonical form keeps it. -/
theorem foldl_wf {α β : Type} (f : α → β → α) (p : α → Sram)
    (hf : ∀ a b, Memory.wf (p a).bytes = true → Memory.wf (p (f a b)).bytes = true) (l : List β) (a : α)
    (h : Memory.wf (p a).bytes = true) : Memory.wf (p (l.foldl f a)).bytes = true := by
  induction l generalizing a with
  | nil => exact h
  | cons b t ih => exact ih _ (hf a b h)

/-- One store access keeps the canonical form. -/
theorem Sram.storeWord_wf {m : Sram} {g : Nat} {parts : List AccPart} (h : Memory.wf m.bytes = true) :
    Memory.wf (m.storeWord g parts).bytes = true := by
  have key : ∀ (l : List AccPart) (b : Memory), Memory.wf b = true →
      Memory.wf (l.foldl (fun b p => memWrite b p.pa p.n p.x) b) = true := by
    intro l
    induction l with
    | nil => intro b hb; exact hb
    | cons p t ih => intro b hb; exact ih _ (memWrite_wf hb)
  unfold Sram.storeWord
  simp only [Sram.wakeWord_bytes]
  apply key
  split <;> split <;> simpa using h

/-- An atomic lane operation keeps the canonical form. -/
theorem Sram.atomic_wf {m : Sram} {pa op d cmp : Nat} (h : Memory.wf m.bytes = true) :
    Memory.wf (m.atomic pa op d cmp).2.bytes = true := by
  unfold Sram.atomic
  simp only
  split
  · simpa using h
  · simp only [Sram.storeAtomic]
    split
    · simpa using h
    · exact Sram.write_wf (by simpa using h)

/-- An access that takes effect at its bank slot keeps the canonical form (02 R48). -/
theorem Sram.serve_wf {m : Sram} {agent : Nat} {op : AccOp} {a : BankAcc} (h : Memory.wf m.bytes = true) :
    Memory.wf (m.serve agent op a).2.bytes = true := by
  unfold Sram.serve
  cases op with
  | load plain =>
    simp only
    split
    · unfold Sram.plainRead; simp only; split <;> simpa using h
    · simpa using h
  | store => exact Sram.storeWord_wf h
  | atomic k =>
    simp only
    refine foldl_wf _ (fun st : List AccPart × Sram => st.2) (fun st p hs => ?_) _ _ h
    simp only
    split
    · simpa using hs
    · exact Sram.atomic_wf hs
  | step j => exact h
  | addQ =>
    simp only
    refine foldl_wf _ (fun m : Sram => m) (fun m p hm => ?_) _ _ h
    unfold Sram.addQ
    simp only
    split
    · simpa using hm
    · simp only [Sram.storeAtomic]
      split
      · simpa using hm
      · exact Sram.write_wf (by simpa using hm)

/-- A bank slot that is served keeps the canonical form of memory. -/
theorem State.serveAt_wf {s : State} {i j : Nat} (h : Memory.wf s.mem.bytes = true) : Memory.wf (s.serveAt i j).mem.bytes = true := by
  unfold State.serveAt
  split
  · exact h
  · split
    · exact h
    · split
      · exact h
      · split
        · exact State.serveStep_wf h
        · exact Sram.serve_wf h

/-- Serving what is in flight keeps the canonical form of memory. -/
theorem State.serveWhere_wf {s : State} {test : BankAcc → Bool} (h : Memory.wf s.mem.bytes = true) :
    Memory.wf (s.serveWhere test).mem.bytes = true :=
  foldl_wf _ (fun s : State => s.mem) (fun _ _ hs => State.serveAt_wf hs) _ _ h

/-- A bank slot of what is no step on an object changes SRAM and the flight, and nothing else of the state (02 R48). -/
theorem State.serveAt_frame {s : State} {i : Nat} (j : Nat) (h : ∀ f, s.flights[i]? = some f → ∀ job, f.op ≠ .step job) :
    s.serveAt i j = { s with mem := (s.serveAt i j).mem, flights := (s.serveAt i j).flights } := by
  unfold State.serveAt
  split
  · rfl
  · next f hf =>
    split
    · rfl
    · split
      · rfl
      · split
        · next job hj => exact absurd hj (h f hf job)
        · rfl

/-! ### The journal and the fault log -/

/-- Making a journal record changes the pointer block alone (18 R469); time writes it (R470). -/
theorem State.journal_frame (s : State) (src launch pos st ctx info : Nat) :
    s.journal src launch pos st ctx info = { s with ptr := (s.journal src launch pos st ctx info).ptr } := rfl

/-- A record made is counted once. -/
@[simp] theorem State.journal_jmade (s : State) (src launch pos st ctx info : Nat) :
    (s.journal src launch pos st ctx info).ptr.jmade = (s.ptr.jmade + 1) % 2 ^ 64 := by
  simp only [State.journal, PtrBlock.jmade, List.length_append, List.length_singleton]
  omega

/-- Making a record of the fault log changes the pointer block alone (16 R426). -/
theorem State.driverLog_frame (s : State) (img : Nat) : s.driverLog img = { s with ptr := (s.driverLog img).ptr } := rfl

@[simp] theorem State.driverLog_flmade (s : State) (img : Nat) : (s.driverLog img).ptr.flmade = (s.ptr.flmade + 1) % 2 ^ 32 := by
  simp only [State.driverLog, PtrBlock.flmade, List.length_append, List.length_singleton]
  omega

/-! ### Edge stops -/

/-- A read by an edge stop reserves its way and its bank slots and sends one flight; nothing else of the state changes (02 R56). -/
theorem State.edgeBeat_load (s : State) (edge fk agent : Nat) (pl : Bool) (dst : FlightDst) (pa n x psn : Nat) :
    let t := (s.edgeBeat edge fk agent (.load pl) dst pa n x psn).1
    t = { s with cal := t.cal, slotsHeld := t.slotsHeld, flights := t.flights } ∧
      ∃ accs, t.flights = s.flights ++ [⟨fk, agent, .load pl, dst, 0#96, accs, []⟩] := by
  simp [State.edgeBeat]

end Sys2Proof.Machine
end

