-- ==== Sys2Proof/Laws/Operands.lean ====
section
/-! SUPPORT. What the shared operations of issued instructions do: entering a path, ending an instruction, and the results of
lanes, of the uniform unit and of predicates. -/
namespace Sys2Proof.Machine
open Sys2Proof.Says

variable {s : State} {key nid : Nat} {lit : Word} {w : Warp}

/-! ### Warps and nodes by key -/

/-- The warp just put into a slot. -/
theorem State.warp_setWarp_same {x : Option Warp} (h : swf none s.warps = true) : (s.setWarp key x).warp key = x :=
  sget_sput_same h

/-- A warp in another slot. -/
theorem State.warp_setWarp_other {x : Option Warp} {k : Nat} (h : swf none s.warps = true) (hk : k ≠ key) :
    (s.setWarp key x).warp k = s.warp k := sget_sput_other h hk

/-- Changing the warp of a slot that holds one. -/
theorem State.updWarp_of {g : Warp → Warp} {v : Warp} (h : s.warp key = some v) : s.updWarp key g = s.setWarp key (some (g v)) := by
  simp [State.updWarp, h]

/-- The canonical form of the warps is kept. -/
theorem State.setWarp_wf {x : Option Warp} (h : swf none s.warps = true) : swf none (s.setWarp key x).warps = true := swf_sput h

/-- A second warp put into a slot replaces the first. -/
theorem State.setWarp_setWarp {x y : Option Warp} (h : swf none s.warps = true) :
    (s.setWarp key x).setWarp key y = s.setWarp key y := by
  simp only [State.setWarp, sput_sput h]

/-- Changing a warp just put into a slot. -/
theorem State.updWarp_setWarp {v : Warp} {g : Warp → Warp} (h : swf none s.warps = true) :
    (s.setWarp key (some v)).updWarp key g = s.setWarp key (some (g v)) := by
  rw [State.updWarp_of (State.warp_setWarp_same h), State.setWarp_setWarp h]

/-- The path of an entered warp is as it was. -/
theorem entered_root (w : Warp) (nid : Nat) : (entered w nid).root = w.root := by unfold entered; split <;> rfl

/-- The counts of an entered warp are as they were. -/
theorem entered_cnt (w : Warp) (nid : Nat) : (entered w nid).cnt = w.cnt := by unfold entered; split <;> rfl

/-- A node of an entered warp is as it was. -/
theorem node_entered (h : Issues s key nid lit w) : (s.setWarp key (some (entered w nid))).node key nid = s.node key nid := by
  unfold State.node
  split
  · rw [State.warp_setWarp_same h.warps, h.warp]; exact entered_root w nid
  · rfl

/-! ### Entering and ending an instruction -/

/-- An instruction that leaves its warp parked or not as it was ends as its body says (16 R434). -/
theorem State.orExhausted_kept {t : State} {act : LaneMask}
    (h : ∀ v u, s.warp key = some v → t.warp key = some u → u.park = v.park) : s.orExhausted t key nid act = t := by
  unfold State.orExhausted
  split
  · next v u hv hu =>
    rw [h v u hv hu]
    cases v.park <;> simp
  · rfl

/-- A path that issues runs the body of its instruction on what it sees (07 R184, R188). -/
theorem issuing_eq (h : Issues s key nid lit w) (guarded : Bool) (body : Ctx → State → Except Trap State) :
    issuing s guarded body = (match body (seen guarded s key nid lit w) (s.setWarp key (some (entered w nid))) with
      | .ok s2 => .next ((s.setWarp key (some (entered w nid))).orExhausted s2 key nid (seen guarded s key nid lit w).act)
      | .error t => .next ((s.setWarp key (some (entered w nid))).takeTrap key nid (seen guarded s key nid lit w).act t)) := by
  have hp := node_entered h
  unfold issuing
  simp only [h.cur, h.warp]
  rw [show (if w.lastPath = nid then w else { w with lastPath := nid, yv := 0 }) = entered w nid from rfl, hp]
  rfl

/-- What a path that issues does when its body goes on and leaves its warp parked or not as it was. -/
theorem issuing_next (h : Issues s key nid lit w) {guarded : Bool} {body : Ctx → State → Except Trap State} {t : State}
    (hb : body (seen guarded s key nid lit w) (s.setWarp key (some (entered w nid))) = .ok t)
    (hk : ∀ u, t.warp key = some u → u.park = w.park) : issuing s guarded body = .next t := by
  rw [issuing_eq h, hb]
  refine congrArg _ (State.orExhausted_kept fun v u hv hu => ?_)
  rw [State.warp_setWarp_same h.warps, Option.some.injEq] at hv
  rw [hk u hu, ← hv]
  unfold entered; split <;> rfl

/-- What a path that issues does when its body ends an instruction that neither parks nor resumes its warp. -/
theorem issuing_ends (h : Issues s key nid lit w) {guarded : Bool} {body : Ctx → State → Except Trap State} {t : State}
    {npc : Word} {f : Warp → Warp} (hb : body (seen guarded s key nid lit w) (s.setWarp key (some (entered w nid))) = .ok t)
    (he : Ends s t (seen guarded s key nid lit w) npc f) (hf : (f (entered w nid)).park = w.park) :
    issuing s guarded body = .next t := by
  refine issuing_next h hb fun u hu => ?_
  obtain ⟨_, _, r, _, hw⟩ := he
  have e : some u = some ((f (entered w nid)).withCnt (counts (seen guarded s key nid lit w)) |>.withRoot r) := by
    rw [← hu]; exact hw
  rw [Option.some.inj e]; exact hf

/-- Completing, with the counts and the path named last. -/
theorem Warp.completed_eq (w : Warp) (done : LaneMask) (axf : Nat) (lt : LatchFx) :
    w.completed done axf lt = (((w.flagged axf).latched lt).withCnt (countsAfter w.cnt done)).withRoot w.root := by
  cases lt <;> rfl

/-- Replacing the warp and then the path's node, of a slot whose warp keeps its path. -/
theorem setWarp_updNode (h : Issues s key nid lit w) {W : Warp} (hr : W.root = w.root) {f : Node → Node} {s1 : State}
    (h1 : s1 = s.setWarp key (some W)) :
    let t := s1.updNode key nid f
    Elsewhere s t key nid ∧ t.node key nid = f (s.node key nid) ∧
      ∃ r : Node, (nid ≠ 64 → r = w.root) ∧ t.warp key = some (W.withRoot r) := by
  subst h1
  have hs1 := State.setWarp_wf (key := key) (x := some W) h.warps
  have hw1 := State.warp_setWarp_same (key := key) (x := some W) h.warps
  by_cases hn : nid = 64
  · subst hn
    have e : (s.setWarp key (some W)).updNode key 64 f
        = (s.setWarp key (some W)).setWarp key (some (W.withRoot (f w.root))) := by
      simp only [State.updNode, State.setNode, State.node, if_true, hw1, hr]
    have hw2 := State.warp_setWarp_same (key := key) (x := some (W.withRoot (f w.root))) hs1
    simp only [e]
    refine ⟨⟨rfl, fun k hk => ?_, fun _ _ => rfl⟩, ?_, f w.root, fun hh => absurd rfl hh, hw2⟩
    · rw [State.warp_setWarp_other hs1 hk, State.warp_setWarp_other h.warps hk]
    · simp only [State.node, if_true, hw2, h.warp]; rfl
  · have e : (s.setWarp key (some W)).updNode key nid f
        = { s.setWarp key (some W) with belay := sput {} s.belay (belayKey key nid) (f (s.node key nid)) } := by
      simp only [State.updNode, State.setNode, State.node, hn, if_false]; rfl
    simp only [e]
    refine ⟨⟨rfl, fun k hk => State.warp_setWarp_other h.warps hk, fun e he => ?_⟩, ?_, w.root, fun _ => rfl, ?_⟩
    · exact sget_sput_other h.belay (he.resolve_left hn)
    · simp only [State.node, hn, if_false]; exact sget_sput_same h.belay
    · rw [← hr]; exact hw1

/-- Ending an instruction without a lane fault, after a change `g` of its warp that keeps the path and the counts. -/
theorem finish_ends (h : Issues s key nid lit w) (guarded : Bool) (g : Warp → Warp) (npc : Word) (lt : LatchFx) (axf : Nat)
    (hr : (g (entered w nid)).root = w.root) (hc : (g (entered w nid)).cnt = w.cnt) {s2 : State}
    (h2 : s2 = (s.setWarp key (some (entered w nid))).updWarp key g) :
    Ends s (s2.finish (seen guarded s key nid lit w) npc lt [] axf) (seen guarded s key nid lit w) npc
      (fun w => ((g w).flagged axf).latched lt) := by
  subst h2
  unfold State.finish
  simp only [List.isEmpty_nil, if_true]
  rw [State.updWarp_setWarp h.warps]
  show Ends s (State.updNode (State.updWarp _ key _) key nid _) _ _ _
  rw [State.updWarp_setWarp h.warps, Warp.completed_eq, hr, hc]
  have hk : ∀ W : Warp, ((W.flagged axf).latched lt).root = W.root := by intro W; cases lt <;> rfl
  obtain ⟨h1, h2, r, h3, h4⟩ := setWarp_updNode (nid := nid)
    (f := fun n => { n with pc := npc, since := s.clk }) h
    (W := ((((g (entered w nid)).flagged axf).latched lt).withCnt (countsAfter w.cnt (s.node key nid).mask)).withRoot w.root)
    rfl rfl
  refine ⟨h1, h2, r, fun hn => (h3 hn).trans (entered_root w nid).symm, ?_⟩
  refine h4.trans ?_
  simp only [counts, seen, entered_cnt]
  rfl

/-- Ending an instruction that changes nothing else of its warp. -/
theorem finish_plain (h : Issues s key nid lit w) (guarded : Bool) (npc : Word) (lt : LatchFx) (axf : Nat) :
    Ends s ((s.setWarp key (some (entered w nid))).finish (seen guarded s key nid lit w) npc lt [] axf)
      (seen guarded s key nid lit w) npc (fun w => (w.flagged axf).latched lt) :=
  finish_ends h guarded id npc lt axf (entered_root w nid) (entered_cnt w nid)
    (by rw [State.updWarp_setWarp h.warps]; rfl)

/-- No flag added. -/
theorem flagged_zero (w : Warp) : w.flagged 0 = w := by
  unfold Warp.flagged; rw [Nat.or_zero]

/-- The change an instruction makes to its warp counts only at that warp. -/
theorem ends_congr {s t : State} {c : Ctx} {npc : Word} {f g : Warp → Warp} (h : Ends s t c npc f) (e : f c.w = g c.w) :
    Ends s t c npc g := by
  unfold Ends Leaves at *; rw [← e]; exact h

/-! ### Results -/

theorem getLsbD_laneBit {l i : Nat} (hi : i < 96) : (laneBit l).getLsbD i = decide (l = i) := by
  rw [laneBit, BitVec.getLsbD_ofNat, Nat.testBit_two_pow]; simp [hi]

theorem getLsbD_foldl_or (ls : List Nat) (m : LaneMask) {i : Nat} (hi : i < 96) :
    (ls.foldl (fun m l => m ||| laneBit l) m).getLsbD i = (m.getLsbD i || decide (i ∈ ls)) := by
  induction ls generalizing m with
  | nil => simp
  | cons l ls ih =>
    rw [List.foldl_cons, ih, BitVec.getLsbD_or, getLsbD_laneBit hi]
    by_cases h : l = i
    · simp [h]
    · simp [h, List.mem_cons, Ne.symm h]

/-- The lanes of a mask. -/
theorem mem_lanesOf {m : LaneMask} {l : Nat} : l ∈ lanesOf m ↔ l < 96 ∧ m.getLsbD l = true := by
  simp [lanesOf]

/-- The mask of the lanes of a mask is that mask. -/
theorem maskOf_lanesOf (m : LaneMask) : maskOf (lanesOf m) = m := by
  apply BitVec.eq_of_getLsbD_eq
  intro i hi
  rw [maskOf, getLsbD_foldl_or _ _ hi]
  by_cases h : m.getLsbD i = true
  · simp [mem_lanesOf, hi, h]
  · simp [mem_lanesOf, Bool.not_eq_true _ |>.mp h]

/-- The lanes of a mask are listed once each. -/
theorem nodup_lanesOf (m : LaneMask) : (lanesOf m).Nodup := List.nodup_range.filter _

/-- What a fold of writes to distinct keys leaves, and its canonical form. -/
theorem foldl_sput {α β : Type} [DecidableEq α] (d : α) (f : β → Nat) (g : β → α) (l : List β) (m : Sparse α)
    (h : swf d m = true) (hl : (l.map f).Nodup) :
    swf d (l.foldl (fun v x => sput d v (f x) (g x)) m) = true ∧
      ∀ j, sget d (l.foldl (fun v x => sput d v (f x) (g x)) m) j
        = match l.find? (fun x => f x == j) with
          | some x => g x
          | none => sget d m j := by
  induction l generalizing m with
  | nil => exact ⟨h, fun _ => rfl⟩
  | cons a t ih =>
    simp only [List.map_cons, List.nodup_cons, List.mem_map, not_exists, not_and] at hl
    obtain ⟨h1, h2⟩ := ih (sput d m (f a) (g a)) (swf_sput h) hl.2
    refine ⟨h1, fun j => ?_⟩
    simp only [List.foldl_cons, h2, List.find?_cons]
    by_cases hj : f a = j
    · subst hj
      have : t.find? (fun x => f x == f a) = none := by
        rw [List.find?_eq_none]; intro x hx; simpa using hl.1 x hx
      rw [this]; simp [sget_sput_same h]
    · have : (f a == j) = false := by simpa using hj
      rw [this]
      cases t.find? (fun x => f x == j) with
      | some x => rfl
      | none => exact sget_sput_other h (Ne.symm hj)

/-- The latch file of one lane shifted. -/
def shiftLane (y : Sparse Val) (l : Nat) (x : Val) : Sparse Val :=
  sput {} (sput {} (sput {} (sput {} y (384 + l) (sget {} y (256 + l))) (256 + l) (sget {} y (128 + l))) (128 + l) (sget {} y l)) l x

/-- Shifting a lane keeps the canonical form. -/
theorem shiftLane_wf {y : Sparse Val} {l : Nat} {x : Val} (h : swf {} y = true) : swf {} (shiftLane y l x) = true :=
  swf_sput (swf_sput (swf_sput (swf_sput h)))

/-- What a shift of a lane leaves in that lane (07 R187). -/
theorem shiftLane_same {y : Sparse Val} {l : Nat} {x : Val} (h : swf {} y = true) :
    sget {} (shiftLane y l x) l = x ∧ sget {} (shiftLane y l x) (128 + l) = sget {} y l ∧
      sget {} (shiftLane y l x) (256 + l) = sget {} y (128 + l) ∧ sget {} (shiftLane y l x) (384 + l) = sget {} y (256 + l) := by
  have w1 := swf_sput (k := 384 + l) (v := sget {} y (256 + l)) h
  have w2 := swf_sput (k := 256 + l) (v := sget {} y (128 + l)) w1
  have w3 := swf_sput (k := 128 + l) (v := sget {} y l) w2
  refine ⟨sget_sput_same w3, ?_, ?_, ?_⟩
  · rw [shiftLane, sget_sput_other w3 (by omega), sget_sput_same w2]
  · rw [shiftLane, sget_sput_other w3 (by omega), sget_sput_other w2 (by omega), sget_sput_same w1]
  · rw [shiftLane, sget_sput_other w3 (by omega), sget_sput_other w2 (by omega), sget_sput_other w1 (by omega), sget_sput_same h]

/-- What a shift of a lane leaves in the others. -/
theorem shiftLane_other {y : Sparse Val} {l j : Nat} {x : Val} (h : swf {} y = true)
    (hj : j ≠ l ∧ j ≠ 128 + l ∧ j ≠ 256 + l ∧ j ≠ 384 + l) : sget {} (shiftLane y l x) j = sget {} y j := by
  have w1 := swf_sput (k := 384 + l) (v := sget {} y (256 + l)) h
  have w2 := swf_sput (k := 256 + l) (v := sget {} y (128 + l)) w1
  have w3 := swf_sput (k := 128 + l) (v := sget {} y l) w2
  rw [shiftLane, sget_sput_other w3 hj.1, sget_sput_other w2 hj.2.1, sget_sput_other w1 hj.2.2.1, sget_sput_other h hj.2.2.2]

/-- What a shift of lanes leaves: the lanes named shift, the others keep their latches. -/
theorem shiftLatches_spec (f : Nat → Val) (ls : List Nat) (hn : ls.Nodup) (hl : ∀ l ∈ ls, l < 128) (y : Sparse Val)
    (h : swf {} y = true) :
    swf {} (shiftLatches y (ls.map (fun l => (l, f l)))) = true ∧
    (∀ l ∈ ls, sget {} (shiftLatches y (ls.map (fun l => (l, f l)))) l = f l ∧
      sget {} (shiftLatches y (ls.map (fun l => (l, f l)))) (128 + l) = sget {} y l ∧
      sget {} (shiftLatches y (ls.map (fun l => (l, f l)))) (256 + l) = sget {} y (128 + l) ∧
      sget {} (shiftLatches y (ls.map (fun l => (l, f l)))) (384 + l) = sget {} y (256 + l)) ∧
    ∀ i l, l < 128 → l ∉ ls → sget {} (shiftLatches y (ls.map (fun l => (l, f l)))) (i * 128 + l) = sget {} y (i * 128 + l) := by
  induction ls generalizing y with
  | nil => exact ⟨h, fun _ h => absurd h (by simp), fun _ _ _ _ => rfl⟩
  | cons a t ih =>
    rw [List.nodup_cons] at hn
    have ha : a < 128 := hl a (by simp)
    obtain ⟨h1, h2, h3⟩ := ih hn.2 (fun l hm => hl l (by simp [hm])) (shiftLane y a (f a)) (shiftLane_wf h)
    have e : shiftLatches y ((a :: t).map (fun l => (l, f l))) = shiftLatches (shiftLane y a (f a)) (t.map (fun l => (l, f l))) := rfl
    rw [e]
    refine ⟨h1, fun l hm => ?_, fun i l hlt hni => ?_⟩
    · rcases List.mem_cons.mp hm with rfl | hm'
      · have g : ∀ i, sget {} (shiftLatches (shiftLane y l (f l)) (t.map (fun l => (l, f l)))) (i * 128 + l)
            = sget {} (shiftLane y l (f l)) (i * 128 + l) := fun i => h3 i l ha hn.1
        have g0 := g 0; have g1 := g 1; have g2 := g 2; have g3 := g 3
        simp only [Nat.zero_mul, Nat.zero_add, Nat.one_mul, Nat.reduceMul] at g0 g1 g2 g3
        rw [g0, g1, g2, g3]
        exact shiftLane_same h
      · have hne : l ≠ a := fun e => hn.1 (e ▸ hm')
        have hlt : l < 128 := hl l hm
        obtain ⟨q0, q1, q2, q3⟩ := h2 l hm'
        rw [q0, q1, q2, q3, shiftLane_other h (by omega), shiftLane_other h (by omega), shiftLane_other h (by omega)]
        exact ⟨rfl, rfl, rfl, rfl⟩
    · simp only [List.mem_cons, not_or] at hni
      rw [h3 i l hlt hni.2, shiftLane_other h (by omega)]

/-- The lane result of an instruction without a lane fault. -/
theorem laneResult_spec (h : Issues s key nid lit w) (guarded : Bool) (npc : Word) (n d : Nat) (res : Nat → Val) (axf : Nat) :
    LaneResult s ((s.setWarp key (some (entered w nid))).laneResult (seen guarded s key nid lit w) npc n d
        ((lanesOf (seen guarded s key nid lit w).act).map (fun l => (l, res l))) [] axf)
      (seen guarded s key nid lit w) npc n d res axf := by
  generalize hc : seen guarded s key nid lit w = c
  have hw : c.w = entered w nid := by rw [← hc]; rfl
  have hkey : c.key = key := by rw [← hc]; rfl
  have hv : swf {} c.w.v = true := by rw [hw]; unfold entered; split <;> exact h.vregs
  have hy : swf {} c.w.y = true := by rw [hw]; unfold entered; split <;> exact h.latches
  have hfind : ∀ l, (((lanesOf c.act).map (fun l => (l, res l))).find? (fun r => r.1 == l)) =
      if l < 96 ∧ c.act.getLsbD l = true then some (l, res l) else none := by
    intro l
    rw [List.find?_map]
    by_cases hm : l ∈ lanesOf c.act
    · rw [if_pos (mem_lanesOf.mp hm)]
      have : (lanesOf c.act).find? ((fun r => r.1 == l) ∘ fun l => (l, res l)) = some l := by
        rw [List.find?_eq_some_iff_append]
        obtain ⟨a, b, e⟩ := List.append_of_mem hm
        refine ⟨by simp, a, b, e, fun x hx => ?_⟩
        have := nodup_lanesOf c.act
        rw [e, List.nodup_append] at this
        simpa using fun q => this.2.2 x hx l (by simp) q
      rw [this]; rfl
    · rw [if_neg (fun q => hm (mem_lanesOf.mpr q))]
      have : (lanesOf c.act).find? ((fun r => r.1 == l) ∘ fun l => (l, res l)) = none := by
        rw [List.find?_eq_none]
        intro x hx hq
        have : x = l := by simpa using hq
        exact hm (this ▸ hx)
      rw [this]; rfl
  unfold State.laneResult
  by_cases hn : n = 1
  · simp only [hn, if_true, hfind]
    obtain ⟨s1, s2, s3⟩ := shiftLatches_spec (fun l => ((if l < 96 ∧ c.act.getLsbD l = true then some (l, res l) else none).map
      (·.2)).getD {}) (lanesOf c.p.mask) (nodup_lanesOf _) (fun l hm => by have := (mem_lanesOf.mp hm).1; omega) c.w.y hy
    refine ⟨c.w.v, shiftLatches c.w.y ((lanesOf c.p.mask).map (fun l =>
        (l, ((if l < 96 ∧ c.act.getLsbD l = true then some (l, res l) else none).map (·.2)).getD {}))), ?_, fun pos l _ => ?_,
      fun l hl hm => ?_, fun i l hl hm => ?_⟩
    · have := finish_plain h guarded npc (.shift ((lanesOf c.p.mask).map (fun l =>
        (l, ((if l < 96 ∧ c.act.getLsbD l = true then some (l, res l) else none).map (·.2)).getD {})))) axf
      rw [hc] at this
      refine ends_congr this ?_
      simp only [Warp.latched, Warp.flagged, List.map_map, Function.comp_def, List.map_id', maskOf_lanesOf]
    · simp; rfl
    · obtain ⟨q0, q1, q2, q3⟩ := s2 l (mem_lanesOf.mpr ⟨hl, hm⟩)
      refine ⟨?_, q1.trans (by simp [Warp.yAt]), q2, q3⟩
      refine q0.trans ?_
      cases hg : c.act.getLsbD l <;> simp [hl]
    · exact s3 i l (by omega) (fun q => by rw [mem_lanesOf] at q; simp [hm] at q)
  · rw [if_neg hn]
    have hrs := foldl_sput (α := Val) {} (fun x : Nat × Val => (c.p.wb + d) * 128 + x.1) (fun x => x.2)
      ((lanesOf c.act).map (fun l => (l, res l))) c.w.v hv (by
        rw [List.map_map]
        refine List.Pairwise.map _ (fun x y hxy => ?_) (nodup_lanesOf c.act)
        simp only [Function.comp]
        omega)
    generalize hV : ((lanesOf c.act).map (fun l => (l, res l))).foldl
      (fun v x => sput {} v ((c.p.wb + d) * 128 + x.1) x.2) c.w.v = V at hrs
    have hread : ∀ pos l, l < 96 → sget {} V (pos * 128 + l) =
        if n ≠ 1 ∧ pos = c.p.wb + d ∧ c.act.getLsbD l = true then res l else c.w.vAt pos l := by
      intro pos l hl
      rw [hrs.2]
      by_cases hp : pos = c.p.wb + d
      · subst hp
        have e : ((lanesOf c.act).map (fun l => (l, res l))).find?
            (fun x => (c.p.wb + d) * 128 + x.1 == (c.p.wb + d) * 128 + l)
            = ((lanesOf c.act).map (fun l => (l, res l))).find? (fun r => r.1 == l) := by
          congr 1; funext x
          exact Bool.eq_iff_iff.mpr (by simp only [beq_iff_eq]; omega)
        rw [e, hfind]
        by_cases hg : c.act.getLsbD l = true
        · simp [hg, hl, hn]
        · simp [hg]; rfl
      · have e : ((lanesOf c.act).map (fun l => (l, res l))).find?
            (fun x => (c.p.wb + d) * 128 + x.1 == pos * 128 + l) = none := by
          rw [List.find?_eq_none]
          intro x hx hq
          obtain ⟨a, ha, rfl⟩ := List.mem_map.mp hx
          have := (mem_lanesOf.mp ha).1
          simp only [beq_iff_eq] at hq
          omega
        rw [e]
        simp [hp]; rfl
    have hu : (s.setWarp key (some (entered w nid))).updWarp c.key (fun w => w.writeV c.p.wb d ((lanesOf c.act).map (fun l => (l, res l))))
        = s.setWarp key (some { c.w with v := V }) := by
      rw [hkey, State.updWarp_setWarp h.warps, ← hw, ← hV]; rfl
    simp only [hu]
    rw [show (s.setWarp key (some { c.w with v := V })).warp c.key = some { c.w with v := V } by
      rw [hkey]; exact State.warp_setWarp_same h.warps]
    simp only [Option.getD_some]
    obtain ⟨s1, s2, s3⟩ := shiftLatches_spec (fun l => ({ c.w with v := V } : Warp).vAt (c.p.wb + d) l) (lanesOf c.p.mask)
      (nodup_lanesOf _) (fun l hm => by have := (mem_lanesOf.mp hm).1; omega) c.w.y hy
    refine ⟨V, shiftLatches c.w.y ((lanesOf c.p.mask).map (fun l => (l, ({ c.w with v := V } : Warp).vAt (c.p.wb + d) l))),
      ?_, hread, fun l hl hm => ?_, fun i l hl hm => ?_⟩
    · have := finish_ends h guarded (fun _ => { c.w with v := V }) npc (.shift ((lanesOf c.p.mask).map (fun l =>
        (l, ({ c.w with v := V } : Warp).vAt (c.p.wb + d) l)))) axf (by rw [hw]; exact entered_root w nid)
        (by rw [hw]; exact entered_cnt w nid) (s2 := s.setWarp key (some { c.w with v := V }))
        (by rw [State.updWarp_setWarp h.warps])
      rw [hc] at this
      refine ends_congr this ?_
      simp only [Warp.latched, Warp.flagged, List.map_map, Function.comp_def, List.map_id', maskOf_lanesOf]
    · obtain ⟨q0, q1, q2, q3⟩ := s2 l (mem_lanesOf.mpr ⟨hl, hm⟩)
      refine ⟨q0.trans (by rw [if_neg hn]; rfl), q1.trans (by simp [Warp.yAt]), q2, q3⟩
    · exact s3 i l (by omega) (fun q => by rw [mem_lanesOf] at q; simp [hm] at q)

/-- The result of the uniform unit, where a lane is active. -/
theorem uniResult_spec (h : Issues s key nid lit w) (guarded : Bool) (npc : Word) (d : Nat) (x : Val)
    (ha : (seen guarded s key nid lit w).any = true) :
    UniformResult s ((s.setWarp key (some (entered w nid))).uniResult (seen guarded s key nid lit w) npc d x)
      (seen guarded s key nid lit w) npc d x := by
  have hu : swf {} (entered w nid).s = true := by unfold entered; split <;> exact h.sregs
  refine ⟨sput {} (entered w nid).s (d - 64) x, ?_, fun i => ?_⟩
  · exact ends_congr (finish_ends h guarded (fun w => w.setS (d - 64) x) npc .keep 0 (entered_root w nid) (entered_cnt w nid) rfl)
      (flagged_zero _)
  · by_cases hi : i = d - 64
    · subst hi; rw [sget_sput_same hu]; simp [ha]
    · rw [sget_sput_other hu hi]; simp [hi]; rfl

/-- An instruction that changes nothing of the uniform registers where no lane is active. -/
theorem uniNothing_spec (h : Issues s key nid lit w) (guarded : Bool) (npc : Word) (d : Nat) (x : Val)
    (ha : (seen guarded s key nid lit w).any = false) :
    UniformResult s ((s.setWarp key (some (entered w nid))).finish (seen guarded s key nid lit w) npc .keep)
      (seen guarded s key nid lit w) npc d x := by
  refine ⟨(entered w nid).s, ?_, fun i => by simp [ha]; rfl⟩
  exact ends_congr (finish_plain h guarded npc .keep 0) (flagged_zero _)

/-- A predicate result. -/
theorem predResult_spec (h : Issues s key nid lit w) (guarded : Bool) (npc : Word) (d : Nat) (hd : d < 7) (m val : LaneMask) :
    PredicateResult s ((s.setWarp key (some (entered w nid))).predResult (seen guarded s key nid lit w) npc d m val)
      (seen guarded s key nid lit w) npc d m val := by
  have hp : swf 0#96 (entered w nid).p = true := by unfold entered; split <;> exact h.preds
  refine ⟨((entered w nid).setP d m val).p, ?_, fun i => ?_⟩
  · exact ends_congr (finish_ends h guarded (fun w => w.setP d m val) npc .keep 0 (entered_root w nid) (entered_cnt w nid) rfl)
      (flagged_zero _)
  · simp only [Warp.setP]
    by_cases hi : i = d
    · subst hi
      rw [sget_sput_same hp]
      simp only [if_true, Warp.pAt, show i ≠ 7 by omega, if_false]; rfl
    · rw [sget_sput_other hp hi]; simp [hi]; rfl

end Sys2Proof.Machine
end

