-- ==== Sys2Proof/Safety.lean ====
section
/-! DEFINITION. What counts as a safe run: no step stops with a fault or a refusal of the model. The faults of the hardware
(16 R418) are next states and part of a safe run. -/
namespace Sys2Proof

/-- The step at a state answers a next state. -/
def SafeStep (s : Machine.State) : Prop := ∃ t, Machine.step s = .next t

/-- Every state that `n` steps reach from `s` steps on. -/
def SafeRun : Nat → Machine.State → Prop
  | 0, _ => True
  | n + 1, s => ∃ t, Machine.step s = .next t ∧ SafeRun n t

end Sys2Proof
end

