-- ==== Sys2Proof/Tests/Slice0.lean ====
section
/-! SUPPORT. Tests: ill-formed terms that the checks refuse, the word of every encoded instruction written out from 07 R189 and R192
and the entries' tables, single steps, and for the statements of this package states and operands that meet their hypotheses. -/
namespace Sys2Proof.Tests
open Sys2Proof Sys2Proof.Machine Sys2Proof.Says

-- One theorem after another: a thread for each of these kernel evaluations would take too much memory.
set_option Elab.async false

/-! ### Encoding -/

/-- Every word of a list decodes to its instruction, which encodes to it. -/
def agree (l : List (Nat × Instr)) : Bool :=
  l.all fun x => decide (decodeTableWord 32 x.1 = some x.2) && decide (encode x.2 = some x.1) && x.2.wellFormed

/-- Words of the system instructions. -/
theorem test_words_system : agree [
  (0x00000000, .nop), (0x00100000, .exit), (0x00200021, .trap 33), (0x00300022, .bkpt 34), (0x00486004, .srd 67 4),
  (0x0050118e, .swr 70 14), (0x0060c002, .clk 6 2), (0x00700023, .yield 35), (0x00800000, .spin), (0x00900002, .hint 2),
  (0x00a011c0, .timer 71), (0x00b00001, .idem 1), (0x04008107, .mode 0x8107), (0x04010048, .modex 72)] = true := by decide +kernel

/-- Words of the control instructions. -/
theorem test_words_control : agree [
  (0x0afffffd, .bra 1 3 0x3ffffd), (0x0c9ffff0, .call 9 0xffff0), (0x10000440, .brx 17), (0x101004a8, .callx 18 40),
  (0x10200000, .ret), (0x10300000, .join), (0x104019c5, .await 103 5), (0x10593280, .spawn 73 74),
  (0x106012c0, .tsignal 75), (0x10799340, .tcond 76 77)] = true := by decide +kernel

/-- Words of the integer instructions. -/
theorem test_words_integer : agree [
  (0x144e0001, .movi 0 19 0x20001), (0x18503fff, .movhi 20 0x3fff), (0x4054b640, .addW 0 21 22 100),
  (0x4200b641, .subW 1 0 22 100), (0x405cb642, .mulW 0 23 22 100), (0x4200b643, .mulhiW 1 0 22 100),
  (0x4064b644, .mulhuW 0 25 22 100), (0x4200b645, .minW 1 0 22 100), (0x406cb646, .maxW 0 27 22 100),
  (0x4200b647, .minuW 1 0 22 100), (0x4074b648, .maxuW 0 29 22 100), (0x405cc19d, .lea 0 23 24 25 13),
  (0x4668d9c0, .madW 1 26 27 28), (0x4874f7fd, .addiW 0 29 30 0x7fd)] = true := by decide +kernel

/-- Words of the logic instructions. -/
theorem test_words_logic : agree [
  (0x4c7d0210, .and 0 31 32 33), (0x4c810211, .or 0 32 32 33), (0x4c850212, .xor 0 33 32 33),
  (0x4c890213, .andn 0 34 32 33), (0x4c8d0214, .shl 0 35 32 33), (0x4c910215, .shr 0 36 32 33),
  (0x4c950216, .shra 0 37 32 33), (0x4c990217, .rol 0 38 32 33), (0x4ca14808, .popc 0 40 41), (0x4ca54809, .clz 0 41 41),
  (0x4ca9480a, .brev 0 42 41), (0x4cad62db, .prmt 0 43 44 45), (0x4cb97b0c, .bfe 0 46 47 48), (0x4e03280d, .mov 1 0 101),
  (0x50c59400, .andi 0 49 50 1024), (0x54c59401, .ori 0 49 50 1025), (0x58c59402, .xori 0 49 50 1026),
  (0x5ccda01f, .shli 0 51 52 31), (0x5ccda09e, .shri 0 51 52 30), (0x5ccda11d, .shrai 0 51 52 29),
  (0x60d5b370, .bfi 0 53 54 55), (0x64e1cbae, .sel 0 56 57 58 1 6)] = true := by decide +kernel

/-- Words of the predicates instructions. -/
theorem test_words_predicates : agree [
  (0x6819dbc9, .cmpW 6 59 60 9), (0x2415ebed, .cmp 5 61 62 13), (0x2411fc0f, .classOf 4 63 64),
  (0x6c0048e0, .pand 0 9 14), (0x6c0448e1, .por 1 9 14), (0x6c0848e2, .pxor 2 9 14), (0x6c0c7803, .pnot 3 15),
  (0x6d040004, .pmovs 0 65), (0x6c0050b5, .pmovp 10 11)] = true := by decide +kernel

/-- Words of the lanes instructions. -/
theorem test_words_lanes : agree [
  (0x70041420, .ballot 0 1 2 66), (0x70081801, .vany 2 3), (0x700c2002, .vall 3 4), (0x70143673, .shflIdx 0 5 6 103),
  (0x70183684, .shflUp 0 6 6 104), (0x701c3695, .shflDn 0 7 6 105), (0x702036a6, .shflXor 0 8 6 106),
  (0x70180007, .elect 6), (0x701c4438, .readlane 0 7 8 67), (0x72004809, .bcast 1 0 9), (0x70285c4a, .match 0 10 11 68),
  (0x7030680b, .wreduceAdd 0 12 13), (0x7034680c, .wreduceMin 0 13 13), (0x7038680d, .wreduceMax 0 14 13)] = true := by decide +kernel

/-- Words of the typed instructions. -/
theorem test_words_typed : agree [
  (0x20387900, .add 0 14 15 16), (0x203c7901, .sub 0 15 15 16), (0x20407902, .mul 0 16 15 16),
  (0x20447903, .mulhi 0 17 15 16), (0x20487904, .min 0 18 15 16), (0x204c7905, .max 0 19 15 16),
  (0x20449006, .abs 0 17 18), (0x22009807, .neg 1 0 19), (0x2050a968, .scale 0 20 21 22),
  (0x205cc199, .copysign 0 23 24 25), (0x2068d80a, .getexp 0 26 27), (0x2870e9e0, .fma 0 28 29 30),
  (0x2a74e9e4, .fms 1 29 29 30), (0x2878e9e8, .fnma 0 30 29 30), (0x2a7ce9ec, .fnms 1 31 29 30),
  (0x2c7d0000, .rcp 0 31 32), (0x2c810001, .rsq 0 32 32), (0x2c850002, .sqrt 0 33 32), (0x2c890003, .ex2 0 34 32),
  (0x2c8d0004, .lg2 0 35 32), (0x2c910005, .sin 0 36 32), (0x2c950006, .cos 0 37 32), (0x2c990007, .tanh 0 38 32),
  (0x2c9d0008, .frc 0 39 32), (0x2ca10009, .flr 0 40 32), (0x2ca5000a, .ceil 0 41 32), (0x2ca9000b, .rnd 0 42 32),
  (0x2cad000c, .trunc 0 43 32), (0x30b16aea, .cvt 0 44 45 46 10), (0x34bd8310, .pack2 0 47 48 49),
  (0x34c99b41, .pack4 0 50 51 52), (0x34d5b002, .unpacklo 0 53 54), (0x34ddc003, .unpackhi 0 55 56),
  (0x34e5d3b4, .dot2 0 57 58 59), (0x36f1ebe5, .dot4 1 60 61 62)] = true := by decide +kernel

/-- Words of the memory instructions. -/
theorem test_words_memory : agree [
  (0x800417e0, .ld 1 2 31 4), (0x840c2408, .st 3 4 16 1), (0x881433d3, .ldaq 5 6 15 2 3), (0x8c1c405c, .strl 7 8 1 3 4),
  (0x902450bf, .atomDv 9 10 11 15), (0x943068e9, .atomTm 12 13 14 9), (0x92007907, .redDv 15 16 7),
  (0x96008921, .redTm 17 18 1), (0x98001140, .waitc 69), (0x9c800000, .fence 4), (0x9ca14980, .pchk 5 19)] = true := by decide +kernel

/-- Words of the synchronisation instructions. -/
theorem test_words_synchronisation : agree [
  (0x9cc02368, .binit 70 104), (0x9ce023c8, .announceIn 71 72), (0x9d0024ca, .announceOut 73 74),
  (0x9d232300, .arrive 12 70), (0x9d4363c8, .bwait 13 71 72), (0x9d6124ca, .btest 4 73 74),
  (0x9d92e600, .semwaitDraw 75 76), (0x9da026ce, .semwait 77 78), (0x9dc02368, .sempost 70 104),
  (0xa013e800, .rpushRsv 79 80), (0xa00028d2, .rpushPub 81 82), (0xa034ea00, .rpopTake 83 84),
  (0xa0202ad6, .rpopFree 85 86), (0xa055ec00, .rpeek 87 88)] = true := by decide +kernel

/-- Words of the engines instructions. -/
theorem test_words_engines : agree [
  (0xa410a400, .hcopy 66 72), (0xa4312480, .hcopys 68 73), (0xa451a500, .hgather 70 74), (0xa4722580, .hscatter 72 75),
  (0xa492a600, .hstage 74 76), (0xa4b32680, .hevict 76 77), (0xa4d3a700, .hfill 78 78), (0xa4f42780, .hmeta 80 79),
  (0xa514a800, .hquery 82 80), (0xa5250203, .hldr 20 4 3), (0xa810a400, .rring 66 72), (0xa8312480, .rtree 68 73),
  (0xa851a500, .rstat 70 74)] = true := by decide +kernel

/-- Words of the matrix instructions. -/
theorem test_words_matrix : agree [
  (0xc003f200, .tctl 15 100), (0xc0365f00, .trdc 89 3 14), (0xc0434000, .tzero 13), (0xc0632d00, .tscl 12 90),
  (0xc0802d80, .gang 91), (0xc402e267, .tld 11 68 103), (0xc422a2e8, .tst 10 69 104), (0xc801c498, .mma 7 9 1 8),
  (0xc82d8395, .mmas 3 6 7 1 5), (0xcc017200, .azero 5 100), (0xcc232467, .adrain 1 4 72 103),
  (0xcc407383, .aread 1 103 3), (0xcc60b406, .awrite 2 104 6)] = true := by decide +kernel

/-- Words of the texture, ray, geometry and fault handling instructions. -/
theorem test_words_texture : agree [
  (0xd0002108, .tex 0 66 8), (0xd0212189, .texb 4 67 9), (0xd042220a, .texq 8 68 10), (0xd4012100, .hgf 4 66 0),
  (0xd4216101, .hgsFast 5 66 1), (0xd441a102, .hgsExact 6 66 2), (0xd8002308, .trace 70 8), (0xd8208190, .rsort 2 3 16),
  (0xd8410080, .hitget 4 1), (0xdc01638c, .emitv 5 71 12), (0xdc21800d, .emitp 6 13), (0xdc412449, .msetc 4 72 73),
  (0xdc600000, .discard), (0xdc802500, .srate 74), (0xe0122100, .fqpop 72 66), (0xe0212467, .finfo 4 72 103),
  (0xe0532467, .fresume 76 72 103), (0xe0732400, .fkill 76 72)] = true := by decide +kernel

/-- A reserved major, a field that must be zero, a predicate destination with its inversion bit, and a reserved minor are refused, each for
what it is (07 R191-R194). -/
theorem test_refused_words : [0x1c000000, 0x00000001, 0x680c0000 + 0x200000, 0x40000000 + 14, 0xffffffff].map (decodeTableWord 32) =
    [none, none, none, none, none] := by decide +kernel

/-- Well-formedness refuses a field too wide for its place, a destination beside `N`, a reserved minor, a reserved size, a missing value
and an operation the form does not have, and accepts each beside its bound. -/
theorem test_wellFormed :
    [Instr.trap 64, .addW 2 0 1 2, .addW 0 128 1 2, .addW 1 3 1 2, .lea 0 1 2 3 14, .cmpW 8 1 2 0, .cmp 1 2 3 14, .ld 1 2 0 5, .ldaq 1 2 0 2 5,
      .ld 1 2 32 2, .bra 0 1 0x400000, .call 64 0, .movi 0 1 0x40000, .redDv 1 2 9, .rpushPub 1 0, .mma 8 0 0 0, .tctl 16 0, .cvt 0 1 2 3 11,
      .fence 5, .pand 1 16 0].all (fun i => !i.wellFormed) = true ∧
    [Instr.trap 63, .addW 1 0 1 2, .addW 0 127 1 2, .lea 0 1 2 3 13, .cmpW 7 1 2 9, .cmp 1 2 3 13, .ld 1 2 31 4, .ldaq 1 2 0 2 4,
      .bra 1 7 0x3fffff, .call 63 0xfffff, .movi 0 1 0x3ffff, .redDv 1 2 15, .rpushPub 1 1, .mma 7 15 1 15, .tctl 15 127, .cvt 0 1 2 3 10,
      .fence 4, .pand 7 15 15].all Instr.wellFormed = true := by decide +kernel

/-! ### States that meet the hypotheses of the statements -/

/-- A warp of one path with 32 lanes, as it starts, with a mode (06 R155; 07 R185). -/
def warpIn (mode : BitVec 16) : Warp :=
  { ctx := 1, launch := 0, team := 0, teamId := 0, warpId := 0, nwarps := 1, width := 32, depth := 64, frame := 0, half := 0
    root := { kind := .path, mode := mode, mask := fullMask 32 } }

/-- A machine in which that warp, in slot 0, issues: context 1 maps the first 256 bytes of S-space. -/
def machine (w : Warp) : State :=
  { State.reset.withFetchWord 32 0 with warps := [(0, some w)], cur := some ⟨0, 64, 0#32⟩, agenda := [] }

/-- What the tests check of `Issues`. -/
def issuesIn (s : State) (w : Warp) : Bool :=
  decide (s.cur = some ⟨0, 64, 0#32⟩) && decide (s.warp 0 = some w) && swf none s.warps && swf {} s.belay && swf {} w.v && swf {} w.s &&
    swf 0#96 w.p && swf {} w.y && Memory.wf s.mem.bytes && swf false s.mem.psn && swf false s.mem.ueLat

theorem issues_of {s : State} {w : Warp} (h : issuesIn s w = true) : Issues s 0 64 0#32 w := by
  simp only [issuesIn, Bool.and_eq_true, decide_eq_true_eq] at h
  exact ⟨h.1.1.1.1.1.1.1.1.1.1, h.1.1.1.1.1.1.1.1.1.2, h.1.1.1.1.1.1.1.1.2, h.1.1.1.1.1.1.1.2, h.1.1.1.1.1.1.2, h.1.1.1.1.1.2, h.1.1.1.1.2,
    h.1.1.1.2, h.1.1.2, h.1.2, h.2⟩

/-- A warp in mode `i32` under no guard, and one in mode `f32`. -/
def w0 : Warp := warpIn 7#16
/-- Its machine. -/
def s0 : State := machine w0
/-- What its path sees. -/
def c0 : Ctx := seen true s0 0 64 0#32 w0
/-- A warp in mode `f32`. -/
def w1 : Warp := warpIn 0x27#16
/-- Its machine. -/
def s1 : State := machine w1
/-- What its path sees. -/
def c1 : Ctx := seen true s1 0 64 0#32 w1

theorem issues_s0 : Issues s0 0 64 0#32 w0 := issues_of (by decide +kernel)
theorem issues_s1 : Issues s1 0 64 0#32 w1 := issues_of (by decide +kernel)

/-- Every row of a table may be named, in the lanes with latch y1 alone as destination and with a v-register, and on the uniform unit. -/
theorem hyps_IntegerArithmeticResults : ∀ x ∈ [(1, 0, 1), (0, 63, 1), (0, 95, 64)],
    ∀ r ∈ arithRows x.1 x.2.1 x.2.2 100 9, r.ok c0 x.1 x.2.1 ∧ ∀ i, r.i = .movhi x.2.1 i → i < 2 ^ 14 := by
  have h : ∀ x ∈ [(1, 0, 1), (0, 63, 1), (0, 95, 64)], ∀ r ∈ arithRows x.1 x.2.1 x.2.2 100 9,
      (if x.1 = 0 ∧ isS x.2.1 = true then r.srcs.all uniSrcOk = true else r.srcs.all c0.srcOk = true ∧ x.2.1 ≤ 95) ∧
        (match r.i with
          | .movhi _ i => decide (i < 2 ^ 14)
          | _ => true) = true := by decide +kernel
  intro x hx r hr
  refine ⟨(h x hx r hr).1, fun i hi => ?_⟩
  have := (h x hx r hr).2
  simpa [hi] using this

theorem hyps_LogicShiftAndFieldResults : ∀ r ∈ logicRows 0 95 64 103 31 ++ fieldRows 0 63 1 100 ++ fieldRows 1 0 1 2,
    (if r.i = .prmt 1 0 1 2 then r.ok c0 1 0 else r.srcs.all uniSrcOk = true ∨ r.srcs.all c0.srcOk = true) := by
  simp only [WordRow.ok]; decide +kernel

theorem hyps_SelectResult : (uniSrcOk 64 = true ∧ uniSrcOk 104 = true) ∧ c0.srcOk 1 = true ∧ c0.srcOk 100 = true := by decide +kernel

/-- A latch that is not valid, and in the uniform unit a v-register, may not be read. -/
theorem hyps_IllegalSourceParksTheWarp : (∀ r ∈ [Instr.addW 1 0 96 1], ∃ x ∈ arithRows 1 0 96 1 0, x.i = r ∧ x.srcs.all c0.srcOk = false) ∧
    ∃ x ∈ arithRows 0 64 1 104 0, x.i = .addW 0 64 1 104 ∧ x.srcs.all uniSrcOk = false := by decide +kernel

/-- Unpoisoned sources, as a test. -/
def clean (c : Ctx) (codes : List Nat) : Bool := (List.range 96).all fun l => !c.act.getLsbD l || codes.all fun k => !(c.opnd k l).psn

theorem unpoisoned_of {c : Ctx} {codes : List Nat} (h : clean c codes = true) : Unpoisoned c codes := by
  intro l hl ha k hk
  simp only [clean, List.all_eq_true, List.mem_range, Bool.or_eq_true, Bool.not_eq_true'] at h
  rcases h l hl with h1 | h1
  · simp [h1] at ha
  · exact h1 k hk

theorem hyps_CompareResults : Unpoisoned c1 [1, 100] ∧ c1.srcOk 1 = true ∧ c1.srcOk 100 = true ∧ etAny (etOf c1.p.mode) = true ∧
    etFloat (etOf c1.p.mode) = true ∧ (ety (etOf c1.p.mode)).fmt = some fp32 :=
  ⟨unpoisoned_of (by decide +kernel), by decide +kernel⟩

theorem hyps_PredicateInstructionResults : c0.srcOk 1 = true ∧ c0.srcOk 100 = true ∧ Unpoisoned c0 [1, 100] :=
  ⟨by decide +kernel, by decide +kernel, unpoisoned_of (by decide +kernel)⟩

theorem hyps_VoteResults : c0.srcOk 101 = true ∧ Unpoisoned c0 [101] ∧ uniOk 103 = true ∧ (c0.opndU 103).psn = false ∧
    (c0.opndU 103).bits.toNat < c0.w.width / 32 ∧ c0.w.width ≤ 96 :=
  ⟨by decide +kernel, unpoisoned_of (by decide +kernel), by decide +kernel⟩

theorem hyps_LaneMoveResults : c0.srcOk 101 = true ∧ c0.srcOk 103 = true ∧ uniOk 103 = true ∧ (c0.opndU 103).psn = false := by decide +kernel

theorem hyps_WarpReductionResults : c1.srcOk 101 = true ∧ etOf c1.p.mode ≤ 2 ∧
    ∀ op ∈ [0, 1, 2], trapping (nmode c1.p.mode) ((treeReduce (wredNode (etOf c1.p.mode) (nmode c1.p.mode) op) 8 ((List.range c1.w.width).map fun l =>
      if c1.act.getLsbD l then some ((c1.opnd 1 l).bits.toNat, 0) else none)).getD (0, 0)).2 = false := by decide +kernel

/-- Which rows of a typed table accept the mode, may be named, and raise no flag that traps. -/
def typedOk (c : Ctx) (r : TypedRow) : Bool := r.accept (etOf c.p.mode) && r.srcs.all c.srcOk &&
  (List.range 96).all fun l => !c.act.getLsbD l || !trapping (nmode c.p.mode) (r.lane c l).2

theorem hyps_TypedArithmeticResults : ((typedArithRows 1 0 1 2).filter (typedOk c1)).map (·.i) =
    [.add 1 0 1 2, .sub 1 0 1 2, .mul 1 0 1 2, .min 1 0 1 2, .max 1 0 1 2, .fma 1 0 1 2, .fms 1 0 1 2, .fnma 1 0 1 2, .fnms 1 0 1 2] ∧
    ((typedArithRows 0 63 1 2).filter (typedOk c0)).map (·.i) =
    [.add 0 63 1 2, .sub 0 63 1 2, .mul 0 63 1 2, .mulhi 0 63 1 2, .min 0 63 1 2, .max 0 63 1 2] := by decide +kernel

theorem hyps_TypedShapeAndPackingResults : (typedShapeRows 0 3 1 2).all (typedOk c1) = true ∧
    ((typedMoveRows 0 3 1 2).filter (typedOk c1)).map (·.i) = [.pack2 0 3 1 2, .pack4 0 3 1 2] := by decide +kernel

theorem hyps_TypedFunctions : ((typedFunctionRows 0 3 103).filter (typedOk c1)).map (·.i) =
    [.rcp 0 3 103, .rsq 0 3 103, .sqrt 0 3 103, .ex2 0 3 103, .lg2 0 3 103, .sin 0 3 103, .cos 0 3 103, .tanh 0 3 103] := by decide +kernel

/-- Equal counts of elements; fewer in the destination, which takes a half of the source; more. -/
theorem hyps_ConversionResults : (∀ x ∈ [(0, 0), (3, 104), (9, 104)],
    let dn := (ety (etOf c1.p.mode)).n
    let sn := (ety x.1).n
    c1.srcOk 1 = true ∧ (if dn = sn then x.2 = 0 else dn < sn ∧ uniOk x.2 = true ∧ (c1.opndU x.2).psn = false ∧ (c1.opndU x.2).bits.toNat < sn / dn) ∧
      ((List.range 96).all fun l => !c1.act.getLsbD l || !trapping (nmode c1.p.mode) (c1.cvtLane 1 x.2 x.1 (c1.opndU x.2).bits.toNat l).2) = true) ∧
    (let c := seen true (machine (warpIn 0x97#16)) 0 64 0#32 (warpIn 0x97#16);
      (ety 2).n < (ety (etOf c.p.mode)).n ∧ c.srcOk 1 = true ∧ c.srcOk 2 = true ∧
        ((List.range 96).all fun l => !c.act.getLsbD l || !trapping (nmode c.p.mode) (c.cvtLane 1 2 2 0 l).2) = true) := by decide +kernel

/-- The smallest and the largest tags; `IC` at each end of what each form takes; a mode word with every field at its bound. -/
theorem hyps_SystemInstructionResults : uniOk 104 = true ∧ (c0.opndU 104).psn = false ∧ c0.any = true ∧ c0.w.ic < 15 ∧
    0 < (seen true (machine { w0 with ic := 15 }) 0 64 0#32 { w0 with ic := 15 }).w.ic ∧
    (0xfda7 : Nat) % 16 ^ 2 / 16 ≤ 10 ∧ (0xfda7 : Nat) / 2 ^ 8 % 8 ≤ 5 ∧ isS 64 = true ∧ ((seen false s0 0 64 0#32 w0).opndU 64).psn = false ∧
    w0.serial = [] ∧ issuesIn (machine { w0 with ic := 15 }) { w0 with ic := 15 } = true := by decide +kernel

/-- A path whose guard lets no lane through. -/
def wOff : Warp := warpIn 0#16
theorem hyps_NoActiveLaneOnlyGoesOn : issuesIn (machine wOff) wOff = true ∧ (seen true (machine wOff) 0 64 0#32 wOff).any = false ∧
    uniOk 104 = true := by decide +kernel

theorem hyps_NopAndTheWorkedCheck : c0.any = true ∧ s0.warp 0 = some w0 ∧ swf none s0.warps = true := by decide +kernel

/-- A context with its debug flag. -/
def sDbg : State := s0.setCtx 1 { s0.ctx 1 with dbg := true }
theorem hyps_TrapAndBreakpoint : issuesIn sDbg w0 = true ∧ (sDbg.ctx 1).dbg = true ∧ (s0.ctx 1).dbg = false ∧ swf {} sDbg.ctxs = true ∧
    swf none sDbg.teams = true ∧ swf {} s0.ctxs = true ∧ swf none s0.teams = true ∧ c0.any = true ∧
    (seen true sDbg 0 64 0#32 w0).any = true := by decide +kernel

theorem hyps_SpecialRegisterReads : ∀ l, (32, (fun _ => 32) l) ∈ specialRows s0 c0 l := by
  intro l; simp [specialRows, c0, seen, entered, w0, warpIn]

theorem hyps_ClockReads : (4 : Nat) % [0, 1].length = 0 ∧ (92 : Nat) % [0, 1, 2, 3].length = 0 ∧ c0.any = true := by decide +kernel

/-- A warp whose p0 holds in lane 0 alone. -/
def wP : Warp := { w0 with p := [(0, 1#96)] }
/-- Every lane takes the branch; none; lane 0 alone, with two entries free. -/
theorem hyps_BranchOutcomes : (let c := seen false s0 0 64 0#32 w0
      takers c 0 7 = c.p.mask ∧ takers c 1 7 = 0#96 ∧ c.p.mask ≠ 0#96 ∧ ¬ (c.p.spTgt = 0#32 ∧ c.p.spc = 15)) ∧
    issuesIn (machine wP) wP = true ∧ (let c := seen false (machine wP) 0 64 0#32 wP
      takers c 0 0 ≠ c.p.mask ∧ takers c 0 0 ≠ 0#96 ∧ branchTarget c.p.pc (BitVec.ofNat 22 2) ≠ c.p.pc + 4#32 ∧ c.p.kind = .path ∧
        (machine wP).mayTake 0 2 = true ∧ (machine wP).freeEntries 0 2 = [0, 1]) := by decide +kernel

/-- Window bases at both ends of a frame of 192 positions; a register pair that RET takes. -/
def wDeep : Warp := { warpIn 7#16 with depth := 192, v := (List.range 32).map fun l => (62 * 128 + l, ⟨0#32, false⟩) }
theorem hyps_CallsAndReturns : (let c := seen false s0 0 64 0#32 w0
      InFrame c.w (c.p.wb + 0) ∧ c.srcOk 64 = true ∧ c.p.mask ≠ 0#96 ∧ (∀ l, l < 96 → c.p.mask.getLsbD l = true → c.opnd 64 l = ⟨0#32, false⟩) ∧
        (0 : Nat) ≤ c.p.wb ∧ InFrame c.w (c.p.wb - 0) ∧
        ∀ l, l < 96 → c.p.mask.getLsbD l = true → c.opnd 62 l = ⟨BitVec.ofNat 32 0, false⟩ ∧ c.opnd 63 l = ⟨0#32, false⟩) ∧
    InFrame { w0 with depth := 127 } 63 := by
  refine ⟨?_, by simp [InFrame, w0, warpIn]⟩
  have h : InFrame (seen false s0 0 64 0#32 w0).w 0 := by simp [InFrame, seen, entered, w0, warpIn]
  exact ⟨h, by decide +kernel, by decide +kernel, by decide +kernel, by decide +kernel, h, by decide +kernel⟩

theorem hyps_JoinOfAnUndivergedWarp : s0.entries 0 = [] ∧ w0.serial = [] ∧ w0.root.kind = .path := by decide +kernel

/-- A warp whose root is a split of two children that wait at its JOIN. -/
def sSplit : State :=
  let child (m : LaneMask) : Node := { kind := .path, parent := 2, mask := m, wait := .join }
  let w : Warp := { w0 with root := { w0.root with kind := .split } }
  { machine w with belay := [(0, child 1#96), (1, child 2#96), (2, { kind := .split, parent := 64 })] }
theorem hyps_SplitMergesAtItsJoin : swf none sSplit.warps = true ∧ swf {} sSplit.belay = true ∧ sSplit.children 0 2 = [0, 1] ∧
    (sSplit.node 0 2).kind = .split ∧ (sSplit.node 0 2).fs = false ∧
    ∀ e ∈ [0, 1], (sSplit.node 0 e).kind = .path ∧ (sSplit.node 0 e).wait = .join ∧ (sSplit.node 0 e).mask ≠ 0#96 := by decide +kernel

/-- The continuation as code 103 and as an s-register; no command outstanding, and one more than `n` allows. -/
theorem hyps_AwaitOutcomes : uniOk 103 = true ∧ uniOk 64 = true ∧ (c0.opndU 64).psn = false ∧ (c0.opndU 64).bits.toNat % 4 = 0 ∧ w0.ocp = 0 ∧
    w0.oc ≤ 0 ∧ c0.any = true ∧ issuesIn (machine { w0 with oc := 1 }) { w0 with oc := 1 } = true := by decide +kernel

theorem hyps_ExitEndsLanes : s0.entries 0 = [] ∧ w0.serial = [] ∧ w0.arrive = [] ∧ w0.finals = [] ∧ w0.root.kind = .path ∧ w0.status = .resident ∧
    swf none s0.teams = true ∧ (∃ tm, s0.team w0.team = some tm ∧ tm.tcb = none) ∧ (∀ x ∈ s0.ashs, x.2.team ≠ some w0.team) ∧ c0.p.mask ≠ 0#96 ∧
    c0.act = c0.p.mask ∧ c0.p.mask &&& ~~~(seen true (machine wOff) 0 64 0#32 wOff).act ≠ 0#96 :=
  ⟨rfl, rfl, rfl, rfl, rfl, rfl, by decide +kernel, ⟨_, rfl, rfl⟩, by decide +kernel, by decide +kernel, by decide +kernel, by decide +kernel⟩

/-- The first and the last byte of the segment, the byte after it, and a page of a staging segment that is not resident. -/
theorem hyps_SegmentTranslation : (s0.ctx 1).phys = false ∧ ∃ e, (s0.ctx 1).seg = [(0, e)] ∧ segHolds e 0 = true ∧ segHolds e 0xff = true ∧
    segHolds e 0x100 = false ∧ needR &&& segPerm e = needR ∧ segKind e ≠ 3 ∧
    (let st := fieldN 3 124 4 + fieldN 2 120 4;
      segKind st = 3 ∧ segHolds st 0 = true ∧ needR &&& segPerm st ≠ needR) :=
  ⟨rfl, _, rfl, by decide +kernel⟩

/-- An address whose alignment fails, and the first one past L-space. -/
theorem hyps_AlignmentAndSpaces : s0.warp 0 = some w0 ∧ (2 : Nat) % 4 ≠ 0 ∧ (2 ^ 32 + 2 ^ 24 : Nat) % 4 = 0 := by decide +kernel

/-- Whether an access is translated to an address. -/
def reaches (s : State) (va n nd pa : Nat) : Bool := match s.translate 0 va n nd with
  | .ok p => p == pa
  | .error _ => false

theorem translate_of {s : State} {va n nd pa : Nat} (h : reaches s va n nd pa = true) : s.translate 0 va n nd = .ok pa := by
  unfold reaches at h
  split at h
  · rename_i p e; rw [e]; simpa using h
  · cases h

/-- Whether no bank word under some bytes is poisoned or in error. -/
def soundAt (s : State) (pa n : Nat) : Bool := (List.range (n + 64)).all fun k =>
  let g := granOf pa + k
  decide (granOf (pa + n - 1) < g) || (!s.mem.poisoned g && !sget false s.mem.ueLat g)

theorem sound_of {s : State} {pa n : Nat} (h : soundAt s pa n = true) : Sound s pa n := by
  intro g h1 h2
  have hk : g - granOf pa < n + 64 := by simp only [granOf] at *; omega
  have := List.all_eq_true.mp h (g - granOf pa) (List.mem_range.mpr hk)
  rw [Nat.add_sub_cancel' h1] at this
  simp only [Bool.or_eq_true, decide_eq_true_eq, Bool.and_eq_true, Bool.not_eq_true'] at this
  rcases this with h3 | h3
  · omega
  · exact h3

/-- An address operand in lane order, as the statements ask of it. -/
theorem reaches_of {s : State} {c : Ctx} {a o z nd : Nat} {ls : List Nat} {pa : Nat → Nat} (hk : c.key = 0)
    (h : ls.all (fun l => !(c.addr a l).2 && reaches s (laneVa c a o z l) (2 ^ z) nd (pa l)) = true) : Reaches s c a o z nd ls pa := by
  intro l hl
  have := List.all_eq_true.mp h l hl
  simp only [Bool.and_eq_true, Bool.not_eq_true'] at this
  exact ⟨this.1, hk ▸ translate_of this.2⟩

/-- Each lane at its own word, from the first to the last of the segment's first 128 bytes; and all at one word. -/
def wA : Warp := { w0 with v := (List.range 32).map fun l => (2 * 128 + l, ⟨BitVec.ofNat 32 (4 * l), false⟩) }
/-- Its machine: lane 0's word is 0, which the table does not list. -/
def wA' : Warp := { wA with v := wA.v.drop 1 }
def sA : State := machine wA'
def cA : Ctx := seen true sA 0 64 0#32 wA'
theorem issues_sA : Issues sA 0 64 0#32 wA' := issues_of (by decide +kernel)

theorem hyps_LoadResults : Reaches sA cA 2 0 2 needR (lanesFor cA 5) (fun l => 4 * l) ∧ Reaches sA cA 64 15 3 needR (lanesFor cA 66) (fun _ => 120) ∧
    addrOk 2 = true ∧ regSpan 5 2 = true ∧ regSpan 66 3 = true :=
  ⟨reaches_of rfl (by decide +kernel), reaches_of rfl (by decide +kernel), by decide +kernel⟩

theorem hyps_StoreResults : Reaches sA cA 2 0 2 needW (lanesOf cA.act) (fun l => 4 * l) ∧ Reaches sA cA 2 16 0 needW [16] (fun _ => 48) ∧
    Unpoisoned cA ((List.range (regsOf 2)).map (5 + ·)) ∧ srcNoLatch 104 = true :=
  ⟨reaches_of rfl (by decide +kernel), reaches_of rfl (by decide +kernel), unpoisoned_of (by decide +kernel), by decide +kernel⟩

theorem hyps_AtomicResults : Reaches sA cA 2 0 2 needRWAT (lanesFor cA 6) (fun l => 4 * l) ∧ Reaches s0 c0 64 0 2 needWAT (lanesOf c0.act) (fun _ => 0) ∧
    (lanesFor cA 6).all (fun l => !(cA.opnd 104 l).psn && !(cA.opnd 6 l).psn) = true ∧ (lanesOf c0.act).all (fun l => !(c0.opnd 104 l).psn) = true :=
  ⟨reaches_of rfl (by decide +kernel), reaches_of rfl (by decide +kernel), by decide +kernel⟩

/-- A bank word with two lanes' stores, the later over the earlier; one store that covers it; one atomic operation. -/
def twoStores : BankAcc := ⟨0, 3, 40, [{ lane := 1, pa := 96, n := 4, x := 5 }, { lane := 2, pa := 96, n := 4, x := 2 ^ 32 - 1 }], false⟩
def allStored : BankAcc := ⟨0, 3, 40, (List.range 8).map fun l => { lane := l, pa := 96 + 4 * l, n := 4, x := l }, false⟩
def oneAtomic (n : Nat) : BankAcc := ⟨0, 3, 40, [{ lane := 1, pa := 96, n := n, x := 5, cmp := 7 }], false⟩
def poisonedAtomic : BankAcc := ⟨0, 3, 40, [{ lane := 1, pa := 96, n := 4, x := 5, psn := true }], false⟩
/-- What takes effect at a bank slot: stores and reads of a sound and of a poisoned word, a read that another agent's store is close to, and
an atomic operation of either width; the registers that a beat of two lanes brings. -/
theorem hyps_EffectsAtBankSlots : (∀ m ∈ [({} : Sram), { psn := [(3, true)], plain := [⟨3, 9, 24⟩] }],
      Memory.wf m.bytes = true ∧ swf false m.psn = true ∧ swf false m.ueLat = true) ∧
    (twoStores.parts.all (fun p => decide (p.x < 2 ^ (8 * p.n))) && allStored.parts.all (fun p => decide (p.x < 2 ^ (8 * p.n)))) = true ∧
    twoStores.parts.drop 2 = [] ∧ ((List.range 32).all fun b => allStored.parts.any fun p => decide (p.pa ≤ 96 + b ∧ 96 + b < p.pa + p.n)) = true ∧
    Raced { plain := [⟨3, 9, 24⟩] } 8 3 40 ∧ ¬ Raced { plain := [⟨3, 9, 24⟩] } 8 3 41 ∧
    (∀ n ∈ [4, 8], (oneAtomic n).parts.length = 1 ∧ 96 % n = 0 ∧ (5 : Nat) < 2 ^ (8 * n) ∧ (oneAtomic n).parts.all (fun p => !p.psn) = true) ∧
    (poisonedAtomic.parts.all (fun p => p.psn && p.n == 4) && poisonedAtomic.parts.length == 1) = true ∧
    swf {} w0.v = true ∧ swf {} w0.s = true ∧ (twoStores.parts.map (·.lane)).Nodup ∧ ∀ p ∈ twoStores.parts, p.lane < 96 :=
  ⟨by decide +kernel, by decide +kernel, rfl, by decide +kernel, ⟨_, List.mem_singleton_self _, by decide⟩,
    fun ⟨p, hp, h⟩ => by simp only [List.mem_singleton] at hp; subst hp; exact absurd h.2.2.2 (by decide), by decide +kernel, by decide +kernel, by decide +kernel⟩

theorem hyps_FenceAndPoisonCheck : c0.any = true ∧ srcNoLatch 5 = true := by decide +kernel

/-- A machine whose memory starts with the `n` bytes of `x`. -/
def holding (n x : Nat) : State := let s := machine w0; s.setMem { s.mem with bytes := memWrite [] 0 n x }
def cH (n x : Nat) : Ctx := seen true (holding n x) 0 64 0#32 w0

theorem objectAt_of {n x m nd : Nat} (h : ((cH n x).addr 64 0 == (0, false) && reaches (holding n x) 0 m nd 0) = true) :
    ObjectAt (holding n x) (cH n x) 64 m nd 0 0 := by
  simp only [Bool.and_eq_true, beq_iff_eq] at h
  exact ⟨h.1, translate_of h.2⟩

/-- A machine whose path stands between the two issues of an instruction, with a record at address 0. -/
def halfway (n x : Nat) (h : HalfIssue) : State := (holding n x).updNode 0 64 fun m => { m with step := some h }
def wHalf (h : HalfIssue) : Warp := { w0 with root := { w0.root with step := some h } }
def cHalf (n x : Nat) (h : HalfIssue) : Ctx := seen true (halfway n x h) 0 64 0#32 (wHalf h)

/-- The step of an instruction on an object at address 0, for some lanes, with an operand; and its path, which stands at it. -/
def jobOf (i : Instr) (act : LaneMask) (x : Nat) : StepJob := ⟨some i, 64, 0, act, 0, 0, x, 12⟩
def stepping (n x : Nat) (i : Instr) : State := halfway n x { instr := i, at_ := 0 }
def wStep (i : Instr) : Warp := wHalf { instr := i, at_ := 0 }

/-- What the tests check of `ReachesSlot`, of an object of `n` bytes at address 0. -/
def slotIn (s : State) (w : Warp) (i : Instr) (j : StepJob) (n : Nat) : Bool :=
  decide (j.instr = some i ∧ s.warp 0 = some w ∧ (s.node 0 j.nid).kind = .path ∧ (s.node 0 j.nid).mask ≠ 0#96 ∧
    (s.node 0 j.nid).step.map (·.at_) = some j.at_) && soundAt s j.pa n && swf none s.warps && swf {} s.belay && swf 0#96 w.p &&
    Memory.wf s.mem.bytes && swf false s.mem.psn && swf false s.mem.ueLat && swf [] s.mem.cairn

theorem slot_of {s : State} {w : Warp} {i : Instr} {j : StepJob} {n : Nat} (h : slotIn s w i j n = true) : ReachesSlot s 0 w i j n := by
  simp only [slotIn, Bool.and_eq_true, decide_eq_true_eq, Option.map_eq_some_iff] at h
  obtain ⟨⟨⟨⟨⟨⟨⟨⟨⟨h1, h2, h3, h4, h5⟩, h6⟩, h7⟩, h8⟩, h9⟩, h10⟩, h11⟩, h12⟩, h13⟩ := h
  exact ⟨h1, h2, h3, h4, h5, sound_of h6, h7, h8, h9, h10, h11, h12, h13⟩

/-- The barrier of the worked example of 05 R136 after BINIT with a count of 2, its phase open and, asked for another phase, complete. -/
def barImage : Nat := 0x40020020
theorem hyps_BarrierResults : Issues (holding 16 barImage) 0 64 0#32 w0 ∧
    (∀ nd ∈ [needRWAT, needR, needW], ObjectAt (holding 16 barImage) (cH 16 barImage) 64 16 nd 0 0) ∧
    (let c := cH 16 barImage;
      uaddrOk 64 = true ∧ uniOk 103 = true ∧ uniOk 104 = true ∧ c.any = true ∧ (c.opndU 104) = ⟨1#32, false⟩ ∧ (c.opnd 5 c.low).psn = false) := by
  have h : ∀ nd ∈ [needRWAT, needR, needW], ((cH 16 barImage).addr 64 0 == (0, false) && reaches (holding 16 barImage) 0 16 nd 0) = true := by
    decide +kernel
  exact ⟨issues_of (by decide +kernel), fun nd hn => objectAt_of (h nd hn), by decide +kernel⟩

/-- Each barrier instruction at the object, in all lanes and in one; the phase asked for and another one. -/
theorem hyps_BarrierStepsAtTheirSlots : (∀ i ∈ [Instr.announceIn 64 104, .announceOut 64 104, .arrive 3 64, .bwait 3 64 103, .btest 1 64 5],
      ∀ x ∈ [0, 1], ReachesSlot (stepping 16 barImage i) 0 (wStep i) i (jobOf i (fullMask (32 - 31 * x)) x) 16) ∧
    (let o := Bar.ofImage (memRead (stepping 16 barImage .nop).mem.bytes 0 16);
      o.malformed = false ∧ o.ovr = false ∧ o.gen = 0 ∧ (wStep .nop).arrive = [] ∧
        (stepping 16 barImage .nop).liveLanes 0 &&& ~~~(fullMask 32) = 0#96 ∧ (stepping 16 barImage .nop).liveLanes 0 &&& ~~~(1#96) ≠ 0#96) := by
  have h : ∀ i ∈ [Instr.announceIn 64 104, .announceOut 64 104, .arrive 3 64, .bwait 3 64 103, .btest 1 64 5], ∀ x ∈ [0, 1],
      slotIn (stepping 16 barImage i) (wStep i) i (jobOf i (fullMask (32 - 31 * x)) x) 16 = true := by decide +kernel
  exact ⟨fun i hi x hx => slot_of (h i hi x hx), by decide +kernel⟩

/-- The flight of a step that has not been served, while its path stands at it and after it has gone. -/
def stepFlight (i : Instr) : Flight := { key := 0, agent := 7, op := .step (jobOf i (fullMask 32) 1), dst := .none, lanes := 1#96, backs := [], accs := [⟨0, 0, 5, [], false⟩] }
theorem hyps_StepsActAtTheirSlots : ∀ s ∈ [stepping 16 barImage (.announceIn 64 104), holding 16 barImage],
    let t : State := { s with flights := [stepFlight (.announceIn 64 104)] };
    t.flights[0]? = some (stepFlight (.announceIn 64 104)) ∧ (stepFlight (.announceIn 64 104)).accs[0]? = some ⟨0, 0, 5, [], false⟩ ∧
      (t.stepCtx 0 (jobOf (.announceIn 64 104) (fullMask 32) 1)).isSome = (s.node 0 64).step.isSome := by decide +kernel

/-- One post and no ticket drawn: ticket 0 is granted, ticket 1 is not; drawn, the first is granted, and with the next ticket 1 it is not. -/
theorem hyps_SemaphoreInstructionResults : ∀ x ∈ [0, 2 ^ 32], Issues (holding 8 x) 0 64 0#32 w0 ∧ ObjectAt (holding 8 x) (cH 8 x) 64 8 needRWAT 0 0 ∧
    (cH 8 x).p.tkv = false ∧ (cH 8 x).any = true := by
  have h : ∀ x ∈ [0, 2 ^ 32], issuesIn (holding 8 x) w0 = true ∧ ((cH 8 x).addr 64 0 == (0, false) && reaches (holding 8 x) 0 8 needRWAT 0) = true ∧
      (cH 8 x).p.tkv = false ∧ (cH 8 x).any = true := by decide +kernel
  exact fun x hx => ⟨issues_of (h x hx).1, objectAt_of (h x hx).2.1, (h x hx).2.2⟩

theorem hyps_SemaphoreStepsAtTheirSlots : (∀ i ∈ [Instr.sempost 64 104, .semwait 64 104, .semwaitDraw 64 64], ∀ x ∈ [0, 1],
      ReachesSlot (stepping 8 (2 ^ 32 * x) i) 0 (wStep i) i (jobOf i (fullMask 32) x) 8) ∧
    (0#32 - (0 : Word)).toNat < 2 ^ 31 ∧ ¬ (0#32 - (1 : Word)).toNat < 2 ^ 31 := by
  have h : ∀ i ∈ [Instr.sempost 64 104, .semwait 64 104, .semwaitDraw 64 64], ∀ x ∈ [0, 1],
      slotIn (stepping 8 (2 ^ 32 * x) i) (wStep i) i (jobOf i (fullMask 32) x) 8 = true := by decide +kernel
  exact ⟨fun i hi x hx => slot_of (h i hi x hx), by decide, by decide⟩

/-- Rings of the worked table of 11 R289, as numbers: slot 0 free, reserved, published (to be taken) and taken; slot 15 is the last of 16. -/
def ring (st wseq rseq : Nat) : Nat := 0x80004 + st * 2 ^ 32 + wseq * 2 ^ 64 + rseq * 2 ^ 96
theorem hyps_StageRingResults : ∀ x ∈ [ring 0 0 0, ring 1 1 0, ring 2 1 0, ring 3 1 1, 0x10010 + 2 ^ 62 + 16 * 2 ^ 64],
    (Issues (holding 32 x) 0 64 0#32 w0 ∧ ObjectAt (holding 32 x) (cH 32 x) 64 32 needRWAT 0 0) ∧
    (∀ i ∈ [Instr.rpushRsv 64 64, .rpopTake 64 64, .rpeek 64 64, .rpushPub 64 104, .rpopFree 64 104],
      ReachesSlot (stepping 32 x i) 0 (wStep i) i (jobOf i (fullMask 32) 0) 32) ∧ ringBad (memRead (stepping 32 x .nop).mem.bytes 0 32) = false := by
  have h : ∀ x ∈ [ring 0 0 0, ring 1 1 0, ring 2 1 0, ring 3 1 1, 0x10010 + 2 ^ 62 + 16 * 2 ^ 64], (issuesIn (holding 32 x) w0 = true ∧
      ((cH 32 x).addr 64 0 == (0, false) && reaches (holding 32 x) 0 32 needRWAT 0) = true) ∧
      (∀ i ∈ [Instr.rpushRsv 64 64, .rpopTake 64 64, .rpeek 64 64, .rpushPub 64 104, .rpopFree 64 104],
        slotIn (stepping 32 x i) (wStep i) i (jobOf i (fullMask 32) 0) 32 = true) ∧
      ringBad (memRead (stepping 32 x .nop).mem.bytes 0 32) = false := by decide +kernel
  exact fun x hx => ⟨⟨issues_of (h x hx).1.1, objectAt_of (h x hx).1.2⟩, fun i hi => slot_of ((h x hx).2.1 i hi), (h x hx).2.2⟩

/-- TSIGNAL and TCOND at their word. -/
theorem hyps_TraverseWords : (∀ i ∈ [Instr.tsignal 64, .tcond 104 64], ReachesSlot (stepping 4 7 i) 0 (wStep i) i (jobOf i (fullMask 32) 1) 4) ∧
    Issues (holding 4 7) 0 64 0#32 w0 ∧ uniOk 64 = true ∧ ((cH 4 7).opndU 64) = ⟨0#32, false⟩ ∧ (holding 4 7).translate 0 0 4 needWAT = .ok 0 := by
  have h : ∀ i ∈ [Instr.tsignal 64, .tcond 104 64], slotIn (stepping 4 7 i) (wStep i) i (jobOf i (fullMask 32) 1) 4 = true := by decide +kernel
  exact ⟨fun i hi => slot_of (h i hi), issues_of (by decide +kernel), rfl, by decide +kernel, translate_of (by decide +kernel)⟩

/-- A control block for one warp of 32 lanes and 64 registers, unused, with no dependency and with one. -/
def tcb (deps : Nat) : Nat := 2 ^ 260 + 8 * 2 ^ 254 + 8 * 2 ^ 244 + deps * 2 ^ 314
theorem hyps_SpawnIssues : Issues (holding 64 (tcb 0)) 0 64 0#32 w0 ∧ (let c := cH 64 (tcb 0); c.opndU 64 = ⟨0#32, false⟩ ∧ c.p.step = none ∧ c.any = true) ∧
    (holding 64 (tcb 0)).translate 0 0 64 needR = .ok 0 ∧ (holding 64 (tcb 0)).translate 0 32 16 needRWAT = .ok 32 :=
  ⟨issues_of (by decide +kernel), by decide +kernel, translate_of (by decide +kernel), translate_of (by decide +kernel)⟩

/-- What the tests check of `ComesBack`. -/
def backIn (s : State) (w : Warp) (h : HalfIssue) (n x : Nat) : Bool :=
  decide (s.warp 0 = some w ∧ (s.node 0 64).kind = .path ∧ (s.node 0 64).mask ≠ 0#96 ∧ (s.node 0 64).step = some h ∧ 0 < n ∧ x < 2 ^ (256 * n)) &&
    swf none s.warps && swf {} s.belay && swf {} w.v && swf {} w.s && swf 0#96 w.p

theorem back_of {s : State} {w : Warp} {h : HalfIssue} {n x : Nat} (k : backIn s w h n x = true) : ComesBack s 0 64 w h 0 n x := by
  simp only [backIn, Bool.and_eq_true, decide_eq_true_eq] at k
  obtain ⟨⟨⟨⟨⟨⟨h1, h2, h3, h4, h5, h6⟩, h7⟩, h8⟩, h9⟩, h10⟩, h11⟩ := k
  exact ⟨h1, h2, h3, h4, h5, by decide, h6, h7, h8, h9, h10, h11⟩

/-- SPAWN whose block comes back, good and malformed, at depth 0 and 4; its step on a block that is not used, with no dependency and with one,
and on one that is. -/
theorem hyps_SpawnSteps : let h (x : Nat) : HalfIssue := { instr := .spawn 64 64, at_ := 0, img := x, pb := 32 };
    (∀ x ∈ [tcb 0, 0], ComesBack (halfway 64 x (h 0)) 0 64 (wHalf (h 0)) (h 0) 0 2 x ∧ tcbMalformed x = (x == 0)) ∧ (wHalf (h 0)).taskDepth ≠ 4 ∧
    (∀ x ∈ [tcb 0, tcb 1, tcb 0 + 2 ^ 311], ReachesSlot (halfway 64 x (h x)) 0 (wHalf (h x)) (.spawn 64 64) { jobOf (.spawn 64 64) (fullMask 32) 0 with pa := 32 } 16 ∧
      ((memRead (halfway 64 x (h x)).mem.bytes 32 16 / 2 ^ 55 % 8 ≠ 0) ↔ x = tcb 0 + 2 ^ 311)) := by
  have k : let h (x : Nat) : HalfIssue := { instr := .spawn 64 64, at_ := 0, img := x, pb := 32 };
      (∀ x ∈ [tcb 0, 0], backIn (halfway 64 x (h 0)) (wHalf (h 0)) (h 0) 2 x = true ∧ tcbMalformed x = (x == 0)) ∧ (wHalf (h 0)).taskDepth ≠ 4 ∧
      (∀ x ∈ [tcb 0, tcb 1, tcb 0 + 2 ^ 311], slotIn (halfway 64 x (h x)) (wHalf (h x)) (.spawn 64 64) { jobOf (.spawn 64 64) (fullMask 32) 0 with pa := 32 } 16 = true ∧
        ((memRead (halfway 64 x (h x)).mem.bytes 32 16 / 2 ^ 55 % 8 ≠ 0) ↔ x = tcb 0 + 2 ^ 311)) := by decide +kernel
  exact ⟨fun x hx => ⟨back_of (k.1 x hx).1, (k.1 x hx).2⟩, k.2.1, fun x hx => ⟨slot_of (k.2.2 x hx).1, (k.2.2 x hx).2⟩⟩

/-- A queue with seven commands, and one with eight. -/
def sHod (n : Nat) : State := s0.setHod 0 (({} : Hod).setQueue 0 { cmds := List.replicate n { op := 0, ctx := 1 } })
theorem hyps_EngineCommandResults : (∀ n ∈ [7, 8], issuesIn (sHod n) w0 = true ∧ ((sHod n).hod 0 |>.queue 0).cmds.length = n ∧
      ((sHod n).hod 0 |>.queue 0).nseq < 2 ^ 18) ∧ c0.addr 64 0 = (0, false) ∧ uaddrOk 64 = true ∧ c0.any = true ∧ regSpan 4 4 = true ∧
    addrOk 2 = true ∧ (∀ l ∈ lanesOf c0.act, (c0.addr 2 l).2 = false) ∧ (s0.fabQ 0).cmds.length < 4 ∧
    issuesIn (s0.setFab 0 { cmds := List.replicate 4 { tree := false, ctx := 1, recAddr := 0, seq := 0 } }) w0 = true := by decide +kernel

/-- Tickets of a Hod queue and of a reduction queue; the answer to a WAITC that is due, whose ticket is not complete. -/
def sAsk : State := s0.updNode 0 64 fun n => { n with wait := .asking 0 4#32 12 }
theorem hyps_TicketQuestionsAndAnswers : ticketOk 0 = true ∧ ticketOk (2 ^ 30) = true ∧ ticketOk (2 ^ 31 + 191 * 2 ^ 22) = true ∧ tkKind 0 ≠ 1 ∧
    tkKind (2 ^ 30) = 1 ∧ uniOk 103 = true ∧ (c0.opndU 103).psn = false ∧
    (let s : State := { sAsk with clk := 12 };
      (s.node 0 64).wait = .asking 0 4#32 12 ∧ s.ticketDone 0 = false ∧ s.ticketWaiters 0 < 32 ∧ swf none s.warps = true ∧ swf {} s.belay = true) ∧
    (s0.setHod 0 (({} : Hod).setQueue 0 { cseq := 1, nseq := 1 })).ticketDone 0 = true := by decide +kernel

/-- A tile control word for one row of sixteen E4M3 elements. -/
def tcw : Nat := 2 ^ 31 + 2 * 2 ^ 27 + 2 ^ 16
/-- A machine whose team has an Ashlar context with `n` warps in its gang mask, some operations and arrivals. -/
def sAsh (n : Nat) (ops : List AshOp) (arr : List Arrival) : State := { s0 with
  ashs := [(0, { team := some 0, n := n, gmask := 2 ^ n - 1, ops := ops, arrivals := arr, tc := [(1, tcw), (2, tcw)], aw := [(3, 2 ^ 31)] })] }
def cAsh (n : Nat) (ops : List AshOp) (arr : List Arrival) : Ctx := seen true (sAsh n ops arr) 0 64 0#32 w0

/-- Operands 0 and 1 for TCTL, TSCL, GANG, AZERO, AWRITE and AREAD; eight operations, and an unmatched arrival, as they hold an instruction back. -/
theorem hyps_AshlarInstructionResults : issuesIn (sAsh 1 [] []) w0 = true ∧ (cAsh 1 [] []).any = true ∧ (sAsh 1 [] []).ashOf 0 0 = some 0 ∧
    ((sAsh 1 [] []).ash 0).arrived 0 = false ∧ uniOk 103 = true ∧ ((cAsh 1 [] []).opndU 103) = ⟨0#32, false⟩ ∧ tcOk 0 = true ∧ tcOk tcw = true ∧
    uniOk 104 = true ∧ ((cAsh 1 [] []).opndU 104) = ⟨1#32, false⟩ ∧ (1 : Nat) < 2 ^ 1 ∧ 2 ^ 31 ≤ sget 0 ((sAsh 1 [] []).ash 0).aw 3 ∧
    sget 0 ((sAsh 1 [] []).ash 0).aw 3 < 2 ^ 32 ∧ isS 64 = true ∧ ((sAsh 1 (List.replicate 8 { id := 0, kind := .tzero }) []).ash 0).ops.length = 8 ∧
    ((sAsh 2 [] [⟨0, { id := 0, kind := .mma }, 0⟩]).ash 0).arrived 0 = true ∧
    s0.ashOf 0 0 = none := by decide +kernel

/-- The first member to arrive and the last; a warp outside the gang mask. -/
theorem hyps_JointMatrixIssue : (let o : AshOp := { id := 0, kind := .mma, t := 3, a := 1, b := 2 };
      (sAsh 2 [] []).ashOf 0 0 = some 0 ∧ ((sAsh 2 [] []).ash 0).members = [0, 1] ∧ ((sAsh 2 [] [⟨1, o, 0⟩]).ash 0).members = [0, 1] ∧
      ((sAsh 2 [] [⟨1, o, 0⟩]).ash 0).arrived 0 = false ∧ halfIndex w0 = 0 ∧
      mmaOk { o with ta := tcw, tb := tcw, aw := 2 ^ 31 } false = true ∧
      mmaOk { o with kind := .mmas, ta := tcw + 2 ^ 20, tb := tcw, aw := 2 ^ 31 } false = true) ∧
    (0 ∉ ((sAsh 0 [] []).ash 0).members) ∧ (sAsh 0 [] []).ashOf 0 0 = some 0 ∧ ∃ tm, s0.team w0.team = some tm ∧ tm.pair = false := by
  refine ⟨by decide +kernel, by decide +kernel, by decide +kernel, _, rfl, rfl⟩

/-- A shape record of one row of one E4M3 element at address 64, and the machine that holds it at address 0. -/
def shapeImage : Nat := 2 * 2 ^ 379 + 8 * 2 ^ 384 + 2 ^ 416 + 2 ^ 432 + 64 * 2 ^ 448
def sShape : State := { holding 64 shapeImage with ashs := (sAsh 1 [] []).ashs }
theorem hyps_TensorWindowIssue : Issues sShape 0 64 0#32 w0 ∧ (let c := seen true sShape 0 64 0#32 w0;
      c.any = true ∧ sShape.ashOf 0 0 = some 0 ∧ uaddrOk 64 = true ∧ uniOk 103 = true ∧ c.opndU 103 = ⟨0#32, false⟩ ∧ c.addr 64 0 = (0, false)) ∧
    sShape.translate 0 0 64 needR = .ok 0 ∧ (sShape.ash 0).arrived 0 = false :=
  ⟨issues_of (by decide +kernel), by decide +kernel, translate_of (by decide +kernel), by decide +kernel⟩

/-- Paths of TLD, TST and ADRAIN whose record comes back, with their operations; a record for which there is no room in what they captured. -/
def hShape (i : Instr) : HalfIssue := { instr := i, at_ := 0, op := 6 }
def opShape (k : AshKind) : AshOp := { id := 6, kind := k, t := 3, ta := tcw, aw := 2 ^ 31, held := true }
def sRecord (i : Instr) (k : AshKind) : State := { halfway 64 shapeImage (hShape i) with ashs := [(0, { team := some 0, n := 1, gmask := 1, ops := [opShape k] })] }
theorem hyps_TensorWindowRecord : (∀ e ∈ [(Instr.tld 3 64 103, AshKind.tld), (.tst 3 64 103, .tst), (.adrain 0 3 64 103, .adrain)], ∀ x ∈ [shapeImage, 0],
      ComesBack (sRecord e.1 e.2) 0 64 (wHalf (hShape e.1)) (hShape e.1) 0 2 x) ∧
    (∀ e ∈ [(Instr.tld 3 64 103, AshKind.tld), (.tst 3 64 103, .tst), (.adrain 0 3 64 103, .adrain)], let s := sRecord e.1 e.2;
      s.ashOf 0 0 = some 0 ∧ (s.ash 0).ops.find? (fun o => o.id == 6) = some (opShape e.2) ∧ shapeBad shapeImage 0 = false ∧ shapeBad 0 0 = true ∧
      shBar shapeImage = none ∧ drainOk (opShape e.2) shapeImage = true ∧ shFmt shapeImage = tcFmt tcw ∧ tcw / 2 ^ 31 % 2 = 1 ∧
      s.windowFault 0 0 needR (windowRuns shapeImage 0 (tcRows tcw) (tcKs tcw) (scaleCols tcw)) = none ∧
      s.windowFault 0 0 needW (windowRuns shapeImage 0 (tcRows tcw) (tcKs tcw) 0) = none ∧ shapeImage / 2 ^ 377 % 4 = 0 ∧
      s.windowFault 0 0 needW (windowRuns shapeImage 0 (awM (2 ^ 31)) (awN (2 ^ 31)) 0) = none) := by
  have h : ∀ e ∈ [(Instr.tld 3 64 103, AshKind.tld), (.tst 3 64 103, .tst), (.adrain 0 3 64 103, .adrain)], ∀ x ∈ [shapeImage, 0],
      backIn (sRecord e.1 e.2) (wHalf (hShape e.1)) (hShape e.1) 2 x = true := by decide +kernel
  exact ⟨fun e he x hx => back_of (h e he x hx), by decide +kernel⟩

/-- A context whose S-space is physical, with a record at address 0. -/
def held (n x : Nat) : State := let s := holding n x; s.setCtx 1 { s.ctx 1 with phys := true }
def cHeld (n x : Nat) : Ctx := seen true (held n x) 0 64 0#32 w0

/-- A texture of two levels, four texels by two, at address 256, sampled in 32 lanes; each tap reaches its texel. -/
def texImage : Nat := 2 ^ 146 + 2 ^ 152 + 2 ^ 160 + 3 * 2 ^ 176 + 256 * 2 ^ 192
theorem hyps_DescriptorSteps : Issues (held 32 texImage) 0 64 0#32 w0 ∧ (let c := cHeld 32 texImage;
      c.addr 64 0 = (0, false) ∧ uaddrOk 64 = true ∧ srcNoLatch 101 = true ∧ c.p.step = none ∧ c.any = true) ∧
    (∀ n ∈ [32, 64], (held 32 texImage).translate 0 0 n needR = .ok 0) := by
  have h : ∀ n ∈ [32, 64], reaches (held 32 texImage) 0 n needR 0 = true := by decide +kernel
  exact ⟨issues_of (by decide +kernel), by decide +kernel, fun n hn => translate_of (h n hn)⟩

/-- A path between the two issues of a texture-unit instruction. -/
def halfHeld (h : HalfIssue) : State := (held 0 0).updNode 0 64 fun m => { m with step := some h }
/-- Whether an access is translated to an address by the tables of a clk. -/
def reachesAt (s : State) (at_ va n nd pa : Nat) : Bool := match s.translateAt at_ 0 va n nd with
  | .ok p => p == pa
  | .error _ => false
theorem hyps_TextureFetch : let h : HalfIssue := { at_ := 0, img := texImage };
    issuesIn (halfHeld h) (wHalf h) = true ∧ (let c := seen true (halfHeld h) 0 64 0#32 (wHalf h);
      c.p.step = some h ∧ c.any = true ∧ clean c [61, 62, 63] = true ∧ ∀ quad ∈ [false, true], (lanesOf c.act).all (fun l =>
        let ws := sampleWords quad c texImage 61 l
        ((texTaps texImage (ws.getD 0 0) (ws.getD 1 0) (ws.getD 2 0) (ws.getD 3 0)).getD []).all fun t => match t.addr texImage with
          | some b => decide (256 ≤ b) && reachesAt (halfHeld h) 0 b (texBytes (texFmt texImage)) needR b
          | none => true) = true) := by decide +kernel

/-- A grid of one level of two dimensions at address 512, its gradients at 1,024. -/
def gridImage : Nat := 1024 * 2 ^ 64 + 4 * 2 ^ 183 + 2 ^ 192 + 512 * 2 ^ 448
/-- Descriptors that come back to TEX and TEXB, TEXQ, HGF and HGS: accepted, malformed, and one that gives the last registers and one more. -/
def hDesc (i : Instr) : HalfIssue := { instr := i, at_ := 0, vals := [(0, [0, 0])] }
theorem hyps_DescriptorsComeBack : (∀ i ∈ [Instr.tex 60 64 61, .texb 60 64 61, .texq 60 64 101], ∀ x ∈ [texImage, 1],
      ComesBack (halfHeld (hDesc i)) 0 64 (wHalf (hDesc i)) (hDesc i) 0 1 x) ∧
    (∀ i ∈ [Instr.hgf 63 64 62, .hgsFast 63 64 62, .hgsExact 63 64 62, .hgf 63 64 63], ∀ x ∈ [gridImage, 0],
      ComesBack (halfHeld (hDesc i)) 0 64 (wHalf (hDesc i)) (hDesc i) 0 2 x) ∧
    texBad texImage = false ∧ texBad 1 = true ∧ hgBad gridImage false = false ∧ hgBad gridImage true = false ∧ hgBad 0 false = true ∧
    63 + hgRegs gridImage ≤ 64 ∧ 62 + hgD gridImage ≤ 64 ∧ 64 < 63 + hgD gridImage ∧ 0 < hgRegs gridImage := by
  have h1 : ∀ i ∈ [Instr.tex 60 64 61, .texb 60 64 61, .texq 60 64 101], ∀ x ∈ [texImage, 1],
      backIn (halfHeld (hDesc i)) (wHalf (hDesc i)) (hDesc i) 1 x = true := by decide +kernel
  have h2 : ∀ i ∈ [Instr.hgf 63 64 62, .hgsFast 63 64 62, .hgsExact 63 64 62, .hgf 63 64 63], ∀ x ∈ [gridImage, 0],
      backIn (halfHeld (hDesc i)) (wHalf (hDesc i)) (hDesc i) 2 x = true := by decide +kernel
  exact ⟨fun i hi x hx => back_of (h1 i hi x hx), fun i hi x hx => back_of (h2 i hi x hx), by decide +kernel⟩

theorem hyps_HashGridFetch : let h : HalfIssue := { at_ := 0, img := gridImage };
    issuesIn (halfHeld h) (wHalf h) = true ∧ (let c := seen true (halfHeld h) 0 64 0#32 (wHalf h);
      c.p.step = some h ∧ clean c [62, 63] = true ∧
      (lanesOf c.act).all (fun l => (hgCorners gridImage [(c.opnd 62 l).bits.toNat, (c.opnd 63 l).bits.toNat]).all fun k =>
        let e := k.lv * hgT gridImage + k.idx
        reachesAt (halfHeld h) 0 (512 + 2 * e) 2 needR (512 + 2 * e) && reachesAt (halfHeld h) 0 (1024 + 4 * e) 4 needRWAT (1024 + 4 * e) &&
          reachesAt (halfHeld h) 0 (1024 + 8 * e) 8 needRWAT (1024 + 8 * e)) = true) := by decide +kernel

/-- A warp with a TRACE on its way. -/
def wTrace : Warp := { w0 with trace := some { nid := 64, root := 0, rays := [{ lane := 0, words := [], stack := [0] }, { lane := 5, words := [], stack := [0] }] } }
theorem hyps_TraversalInstructionResults : issuesIn (machine wTrace) wTrace = true ∧ uaddrOk 64 = true ∧ c0.addr 64 0 = (0, false) ∧
    ((lanesOf c0.act).all fun l => (List.range 8).all fun i => !(c0.opnd (56 + i) l).psn) = true ∧ w0.trace = none ∧ s0.raysHeld 0 < 512 ∧
    srcNoLatch 103 = true ∧ c0.any = true := by decide +kernel

/-- A mesh warp, the meshlet of whose team has `n` vertices and primitives and one group of attributes; a pixel warp. -/
def wMesh : Warp := { w0 with stageKind := 1 }
def sMesh (set : Bool) (n : Nat) : State :=
  let s := machine wMesh; s.setTeam 0 ((s.team 0).map fun t => { t with mesh := { set := set, nv := n, np := n, g := if set then 1 else 0 } })
/-- Every lane at its own vertex and primitive; the last group; MSETC at the bounds of its counts, before and after it was done. -/
theorem hyps_GeometryMesh : issuesIn (sMesh true 32) wMesh = true ∧ (let c := seen true (sMesh true 32) 0 64 0#32 wMesh;
      srcNoLatch 101 = true ∧ uniOk 104 = true ∧ (c.opndU 104).bits = 1#32 ∧ clean c [101, 60, 61, 62, 63] = true ∧
      ((lanesOf c.act).all fun l => decide ((c.opnd 101 l).bits.toNat < 32 ∧ (c.opnd 63 l).bits.toNat = 0)) = true) ∧
    (∀ set ∈ [true, false], ∃ tm, (sMesh set 32).team 0 = some tm ∧ tm.mesh.set = set ∧ tm.mesh.verts = []) ∧
    (let w := { wMesh with s := [(0, ⟨128#32, false⟩), (1, ⟨256#32, false⟩)] };
      let c := seen true (machine w) 0 64 0#32 w;
      issuesIn (machine w) w = true ∧ (c.opndU 64).bits.toNat ≤ 128 ∧ (c.opndU 65).bits.toNat ≤ 256 ∧ uniOk 64 = true) := by
  refine ⟨by decide +kernel, by decide +kernel, fun set hs => ?_, by decide +kernel⟩
  simp only [List.mem_cons, List.not_mem_nil, or_false] at hs
  rcases hs with rfl | rfl <;> exact ⟨_, rfl, rfl, rfl⟩

/-- A pixel warp of which one lane is active. -/
def wPix : Warp := { warpIn 0#16 with stageKind := 2, p := [(0, 1#96)] }
theorem hyps_GeometryPixel : issuesIn (machine wPix) wPix = true ∧ (let c := seen true (machine wPix) 0 64 0#32 wPix;
      c.any = true ∧ clean c [60, 61, 62, 63] = true ∧ (c.opndU 103).bits.toNat ≤ 3 ∧ c.p.mask &&& ~~~c.act ≠ 0#96 ∧
      (machine wPix).entries 0 = [] ∧ wPix.serial = [] ∧ wPix.arrive = [] ∧ wPix.finals = [] ∧ wPix.root.kind = .path ∧ wPix.status = .resident) := by decide +kernel

/-- A handler warp in slot 0, a fragment of another team's warp in slot 1 that handle 1 names, and `n` records in the fault queue at
address 64. -/
def wHand : Warp := { w0 with handler := true }
def wFrag : Warp := { w0 with team := 1, root := { w0.root with kind := .frag, fragId := 5 } }
def sHand (n : Nat) : State :=
  let s := machine wHand
  let t : Team := { ctx := 1, launch := 3, teamId := 0, status := .started, kpc := 0, width := 32, depth := 64, frame := 0, scratch := 0, nw := 1, pair := false,
                    ash := false, idem := false, keys := [1], left := 1 }
  ((((s.setCtx 1 { s.ctx 1 with fqbase := 1, fqtail := n, dir := [(0, { serial := 1, work := .frag 1 0 5 })] }).setTeam 1 (some t)).setWarp 1
    (some wFrag)).setLaunch 3 (some { queue := 0, ctx := 1, pos := 0, recAddr := 0, image := 0, kind := 0, live := 1 }))
def cHand (n : Nat) : Ctx := seen true (sHand n) 0 64 0#32 wHand

theorem hyps_HandlerInstructionResults : issuesIn (sHand 0) wHand = true ∧ swf {} (sHand 0).ctxs = true ∧ swf none (sHand 0).teams = true ∧
    swf none (sHand 0).launches = true ∧ swf {} ((sHand 0).ctx 1).dir = true ∧ (cHand 0).any = true ∧ isS 64 = true ∧ uaddrOk 66 = true ∧
    (cHand 0).addr 66 0 = (0, false) ∧ reaches (sHand 0) 0 64 needW 0 = true ∧ issuesIn (sHand 1) wHand = true ∧
    (sHand 1).fqSlot 1 0 = some 64 ∧ soundAt (sHand 1) 64 64 = true ∧ ((sHand 1).ctx 1).fqhead ≠ ((sHand 1).ctx 1).fqtail ∧
    uniOk 103 = true ∧ (cHand 0).opndU 103 = ⟨0#32, false⟩ ∧ ((sHand 0).ctx 1).liveWork 0 = none ∧ uniOk 104 = true ∧
    (cHand 0).opndU 104 = ⟨1#32, false⟩ ∧ ((sHand 0).ctx 1).liveWork 1 = some (.frag 1 0 5) ∧ (sHand 0).workSaved (.frag 1 0 5) = false ∧
    (sHand 0).warpKey 1 0 = some 1 ∧ (sHand 0).warp 1 = some wFrag ∧ (sHand 0).entries 1 = [] ∧ wFrag.serial = [] ∧ wFrag.finals = [] ∧ wFrag.arrive = [] ∧ wFrag.status = .resident ∧ wFrag.root.mask ≠ 0#96 ∧
    (sHand 0).ashs = [] := by decide +kernel

/-! ### States for the statements about events -/

/-- A machine of one warp `w` at a clk. -/
def at_ (clk : Nat) (w : Warp) : State := { machine w with clk := clk }
/-- The warp whose path has a wait. -/
def waiting (x : Wait) : Warp := { w0 with root := { w0.root with wait := x } }

/-- A flight of the warp whose first beat is due, and so is the second or not; all its accesses have been served. -/
def flightOf (second : Nat) : Flight :=
  { key := 0, agent := 7, op := .load true, dst := .lanes 3 1, lanes := 3#96, backs := [(0, 9), (1, second)]
    accs := [⟨0, 0, 5, [{ lane := 0, pa := 0, n := 4, got := 7 }], true⟩, ⟨1, 1, 6, [{ lane := 32, pa := 32, n := 4 }], true⟩] }
/-- Each wait the moment it is over and one clk before; 64 clk of held attempts. -/
theorem hyps_WarpWaitEvents : (at_ 9 (waiting (.frame (some 9)))).warp 0 = some (waiting (.frame (some 9))) ∧
    ((at_ 9 (waiting (.frame (some 9)))).node 0 64).wait = .frame (some 9) ∧ ((at_ 8 (waiting (.yield 9))).node 0 64).wait = .yield 9 ∧
    ((at_ 9 (waiting (.monitor (some (0, 9))))).node 0 64).wait = .monitor (some (0, 9)) ∧ swf {} (at_ 9 w0).mem.mon = true ∧
    (let w : Warp := { w0 with heldAt := some 5 };
      w.urgent = false ∧ (at_ 69 w).warp 0 = some w ∧ 5 + 64 ≤ (at_ 69 w).clk) ∧
    (∀ d ∈ [9, 10], let s : State := { at_ 9 w0 with flights := [flightOf d] };
      (∀ g ∈ s.flights, ∀ a ∈ g.accs, a.served = true) ∧ (∃ b ∈ (flightOf d).backs, b.2 ≤ s.clk) ∧ s.slotsHeld = [] ∧ s.railOf (0 / 128) = 0 ∧ w0.tex = [] ∧ w0.finals = [] ∧
      swf none s.warps = true ∧ ((flightOf d).backs.filter (fun b => decide (s.clk < b.2)) = if d = 9 then [] else [(1, 10)])) ∧
    (let s := at_ 0 (waiting (.monitor none));
      let e : CairnEntry := ⟨0, .path 1 0 64, 0⟩
      sget [] (s.setMem { s.mem with wakes := [(0, [e])] }).mem.wakes 0 = [e] ∧ (s.node 0 64).wait = .monitor none) := by decide +kernel

/-- A pending register of a kind. -/
def pendOf (dst : Nat) (del : Delivery) : Pend := { nid := 64, dst := dst, num := 1, mask := fullMask 32, wb := 0, due := 9, del := del }
/-- A warp with it, and a machine in which a Hod's slot has gathered the values of an HLDR of that warp. -/
def wPend (dst : Nat) (del : Delivery) : Warp := { w0 with pend := [pendOf dst del] }
def hldrX : Xfer := { q := 0, cmd := { op := 9, ctx := 1, team := some 0, seq := 4, lanes := [(0, 0), (5, 4)] }, elem := 2, got := [(0, [⟨7#32, false⟩]), (5, [{}])] }
def sHldr : State := (machine (wPend 3 (.hldr 4))).setHod 0 { slots := [(2, some hldrX)] }
theorem hyps_EngineDeliveries : (∀ w ∈ [wPend 64 (.frag [{}]), wPend 3 (.frag [{}, {}]), wPend 3 (.hldr 4)],
      (at_ 9 w).warp 0 = some w ∧ swf none (at_ 9 w).warps = true ∧ swf {} w.v = true ∧ swf {} w.s = true ∧ w.pend.length = 1 ∧
      w.pend.all (fun pd => pd.nid == 64 && decide (pd.due ≤ 9 ∧ pd.dst ≤ 64) && (lanesOf pd.mask).all (fun l => decide (l < 96))) = true) ∧
    (sHldr.hod 0).slot 2 = some hldrX ∧ swf none (sHldr.hod 0).slots = true ∧ swf {} sHldr.hods = true ∧ sHldr.warpKey 0 0 = some 0 ∧
    hldrX.phase ≠ .ended ∧ hldrX.cmd.lanes.length ≤ hldrX.got.length ∧ (hldrX.got.map (·.1)).Nodup ∧ (∀ g ∈ hldrX.got, g.1 < 96) ∧
    (pendOf 3 (.hldr 4)).del = .hldr hldrX.cmd.seq := by decide +kernel

/-- A texture-unit instruction with two accesses left, whose texture slot is free or taken; one whose reads have come back. -/
def texJ : TexJob := { nid := 64, op := 0, dst := 4, wb := 0, desc := texImage, lanes := [(0, [0, 0, 0, 0, 0])], left := [⟨0, 0, 256, 4, 0, 0⟩, ⟨0, 1, 512, 4, 0, 0⟩] }
def sTex (taken : Bool) (pause : Nat) : State := { at_ 9 { w0 with tex := [texJ] } with
  cal := if taken then [(calKey 9 768, 1)] else [], clusters := if pause = 0 then [] else [(0, { pause := pause })] }
theorem hyps_TextureSegments : ∀ pause ∈ [0, 20], ∀ taken ∈ [false, true], let s := sTex taken pause;
    s.warp 0 = some { w0 with tex := [texJ] } ∧ swf none s.warps = true ∧ texJ.nid = 64 ∧ texJ.after < 9 ∧ texJ.left ≠ [] ∧
    (s.cluster (clusterOf 0)).pause = pause ∧
    (let seg := (segTake 0 false texJ.left 0 0 0 [] []).1
     let passes := (seg.map (·.key)).eraseDups.length
     s.clear (some 0) texJ.sent (9 + ·) 0 passes (segAccs false seg) (passSlotsOf 0 9 passes) = !taken) := by decide +kernel
theorem hyps_TextureJobsEnd : (sTex false 0).warp 0 = some { w0 with tex := [texJ] } ∧ swf {} w0.v = true ∧ texJ.op ≠ 2 ∧ texJ.op ≠ 3 ∧
    (texJ.lanes.map (·.1)).Nodup ∧ ∀ l ∈ texJ.lanes, l.1 < 96 := by decide +kernel

/-- A ray that asks for a node, and one past its last; a node slot free and taken; a leaf and an inner node, malformed and not. -/
def rayX (visits : Nat) : RayWalk := { lane := 0, words := [0, 0, 0, 0, 0, 0, 0, 0], stack := [256], visits := visits }
def sRay (taken : Bool) : State := { held 0 0 with cal := if taken then [(calKey (slotsFrom (0 + ·) 0 [(0, 8)]).head!.2.2 (4096 + bankOf 8), 1)] else [] }
theorem hyps_RayAttempts : (rayX 0).code = none ∧ (rayX 0).due = none ∧ (rayX 0).stack = [256] ∧ 65536 ≤ (rayX 65536).visits ∧
    (∀ t ∈ [false, true], reachesAt (sRay t) 0 256 64 needR 256 = true ∧ (sRay t).clear (some 0) 0 ((sRay t).clk + ·) 0 1 [(0, granOf 256), (0, granOf 256 + 1)] = !t) ∧
    reachesAt s0 0 256 64 needR 256 = false := by decide +kernel

def leafImage : Nat := 2 * 2 ^ 510
def innerImage : Nat := 2 ^ 510
theorem hyps_RayVisits : nodeBad leafImage = false ∧ nodeBad innerImage = false ∧ nodeBad 0 = true ∧ nodeBad (leafImage + 2 ^ 458) = true ∧
    leafImage / 2 ^ 510 = 2 ∧ innerImage / 2 ^ 510 = 1 ∧ leafImage < 2 ^ 512 := by decide +kernel

/-- A TRACE with a ray that still walks and whose node is there; one all of whose walks are over, a HITGET waiting for it. -/
def traceJ (over_ : Bool) : TraceJob := { nid := 64, root := 0, rays := [{ rayX 0 with code := some 0 },
  if over_ then { rayX 1 with lane := 5, code := some 18 } else { rayX 1 with lane := 5, due := some 9 }] }
theorem hyps_TraceEnds : ∀ o ∈ [false, true], ∀ i ∈ [0, 1], let w : Warp := { wPend 4 (.trace i) with trace := some (traceJ o) };
    (at_ 9 w).warp 0 = some w ∧ swf none (at_ 9 w).warps = true ∧ swf {} w.v = true ∧ swf noHit w.hits = true ∧ (traceJ o).nid = 64 ∧
    ((traceJ o).rays.map (·.lane)).Nodup ∧ w.pend = [pendOf 4 (.trace i)] ∧ (lanesOf (pendOf 4 (.trace i)).mask).all (fun l => decide (l < 96)) = true ∧
    ((traceJ o).rays.all (fun x => x.due.isNone && x.code.isSome)) = o := by decide +kernel

/-- A running warp at its deadline, with no path waiting and with one; the team's last warp released, and another; instructions in flight,
and plain stores 17 clk old and one clk less. -/
def wDl : Warp := { w0 with deadline := 9 }
def wGone : Warp := { w0 with status := .exited }
def sGone (keys : List Nat) : State :=
  let s := machine wGone; s.setTeam 0 ((s.team 0).map fun t => { t with status := .ended, keys := keys })
theorem hyps_DeadlineAndRelease : (∀ w ∈ [wDl, { waiting (.monitor none) with deadline := 9 }], (at_ 9 w).warp 0 = some w ∧ swf none (at_ 9 w).warps = true ∧
      swf {} (at_ 9 w).belay = true ∧ swf none (at_ 9 w).teams = true ∧ ((at_ 9 w).team 0).isSome = true ∧ w.strip = false ∧ w.status = .resident) ∧
    ((at_ 9 wDl).team 0).map (·.status) = some .started ∧
    (at_ 9 wDl).someWaiting 0 = none ∧ (at_ 9 { waiting (.monitor none) with deadline := 9 }).someWaiting 0 = some 64 ∧ (8 : Nat) < wDl.deadline ∧
    (∀ ks ∈ [[0], [0, 1]], (sGone ks).warp 0 = some wGone ∧ ((sGone ks).team 0).map (·.keys) = some ks ∧ (sGone ks).entries 0 = [] ∧
      (sGone ks).ashs = [] ∧ (sGone ks).memDone 0 = true ∧ wGone.stageKind ≠ 2 ∧ wGone.busy = [] ∧ swf {} (sGone ks).clusters = true) ∧ ([0, 1].filter (· != 0)) ≠ [] ∧
    ({ sGone [0] with flights := [flightOf 9] } : State).memDone 0 = false := by decide +kernel

theorem hyps_WarpDeadlineTeam : ∃ tm, (sGone [0]).team 0 = some tm ∧ tm.status = .ended ∧ tm.stage ≠ 1 ∧ tm.tcb = none ∧ tm.keys = [0] ∧
    max tm.gapAt (wGone.lastPlain + 17) = 17 ∧ (at_ 16 w0).clk < 17 := ⟨_, rfl, rfl, by decide, rfl, rfl, by decide, by decide⟩

/-- A copy of 64 bytes from address 512 to 2,048, its record at address 0. -/
def copyImage : Nat := 512 * 2 ^ 448 + 2048 * 2 ^ 384 + 64 * 2 ^ 352
def copyCmd : HodCmd := { op := 0, ctx := 1, recAddr := 0 }
def sCmd (img : Option Nat) : State := (held 64 copyImage).setHod 0 { qs := [(0, { cmds := [{ copyCmd with image := img }], nseq := 1 })] }

/-- The tables of a Hod, as a test. -/
def hodTablesIn (s : State) (core : Nat) : Bool := swf {} s.hods && swf {} (s.hod core).qs && swf none (s.hod core).slots && Memory.wf s.mem.bytes &&
  swf false s.mem.psn && swf false s.mem.ueLat

theorem hodTables_of {s : State} {core : Nat} (h : hodTablesIn s core = true) : HodTables s core := by
  simp only [hodTablesIn, Bool.and_eq_true] at h
  exact ⟨h.1.1.1.1.1, h.1.1.1.1.2, h.1.1.1.2, h.1.1.2, h.1.2, h.2⟩

/-- A record on its way to queue 0 of core 0. -/
def recFl (x : Nat) : Flight := { key := recKey 0 0, agent := 1, op := .load false, dst := .hod 0, lanes := 0#96, backs := [], accs := [
  ⟨0, 0, 5, [{ lane := 0, pa := 0, n := 32, got := x % 2 ^ 256 }], true⟩, ⟨0, 1, 5, [{ lane := 32, pa := 32, n := 32, got := x / 2 ^ 256 }], true⟩] }
theorem hyps_HodStartEvents : HodTables (sCmd none) 0 ∧ HodTables (sCmd (some copyImage)) 0 ∧
    ((sCmd none).hodXlate 0 0 copyCmd 0 needR = .ok 0 ∧ UnitFree (sCmd none) 0 0 64 true) ∧ spaceOf copyCmd.recAddr ≤ 1 ∧
    (copyCmd.image = none ∧ copyCmd.asked = none ∧ copyCmd.early = 0 ∧ copyCmd.recPhys = false ∧ (sCmd none).padHeld copyCmd 0 = false) ∧
    (sCmd (some copyImage)).startHeld { copyCmd with image := some copyImage } = false ∧
    (sCmd (some copyImage)).hodPick 0 = some 0 ∧ (sCmd (some copyImage)).hodReady 0 0 = some { copyCmd with image := some copyImage } ∧
    (List.range 4).find? (fun i => (((sCmd (some copyImage)).hod 0).slot i).isNone) = some 0 ∧
    ((sCmd (some copyImage)).hodStart 0 0 { copyCmd with image := some copyImage }).1 = 0 ∧
    ((sCmd (some copyImage)).hodStart 0 0 { copyCmd with early := 16 }).1 ≠ 0 ∧ (sCmd none).cmdFree copyCmd = true :=
  ⟨hodTables_of (by decide +kernel), hodTables_of (by decide +kernel), ⟨rfl, by decide +kernel, by decide +kernel⟩, by decide +kernel⟩

/-- The record has come: sound and malformed. -/
theorem hyps_HodRecordArrives : ∀ x ∈ [7, copyImage], (let s : State := { (sCmd none).setHod 0 { qs := [(0, { cmds := [{ copyCmd with asked := some 9 }], nseq := 1 })] } with
      clk := 9, flights := [recFl x] };
    hodTablesIn s 0 = true ∧ ((s.hod 0).queue 0).cmds = [{ copyCmd with asked := some 9 }] ∧ s.cmdFree { copyCmd with asked := some 9 } = true ∧
      (recFl x).unitGot = (x, 0, 0) ∧ (recFl x).key = recKey 0 0) := by decide +kernel

/-- The copy as it moves, nothing read: its attempt succeeds, or finds the way into the Hod taken. -/
def copyX : Xfer := { q := 0, cmd := { copyCmd with image := some copyImage } }
def sMove (f : Xfer) : State := (sCmd none).setHod 0 { slots := [(1, some f)] }
def sMoveTaken : State := { sMove copyX with cal := [(calKey (latencyL 0 1 [(0, 16), (0, 17)]) (hodIn 0), 2)] }
theorem hyps_HodUnitRead : HodTables (sMove copyX) 0 ∧ ((sMove copyX).hod 0).slot 1 = some copyX ∧ copyX.decq = [] ∧ ((sMove copyX).hod 0).held < 64 ∧
    copyX.off < recLen copyImage ∧ recSrc copyImage < 2 ^ 32 ∧ (sMove copyX).hodXlate 0 0 copyX.cmd 512 needR = .ok 512 ∧
    UnitFree (sMove copyX) 0 512 64 true ∧ ¬ UnitFree sMoveTaken 0 512 64 true ∧ HodTables sMoveTaken 0 ∧ sMoveTaken.hodMay 0 = true :=
  ⟨hodTables_of (by decide +kernel), by decide +kernel, by decide +kernel, by decide +kernel, by decide +kernel, by decide +kernel, rfl,
    ⟨by decide +kernel, by decide +kernel⟩, fun h => absurd h.2 (by decide +kernel), hodTables_of (by decide +kernel), by decide +kernel⟩

/-- A unit whose data arrive in this clk, in a flight whose accesses have found their bytes; and the unit in the buffer. -/
def dueU : BufUnit := { dst := 2048, len := 64, data := 0, psn := 0, id := 3, stage := .due 9 }
def heldU : BufUnit := { dueU with data := 5, stage := .held }
def arriveX : Xfer := { copyX with stop := true, buf := [dueU] }
def unitFl : Flight := { key := hodKey 0 1, agent := 1, op := .load false, dst := .hod 3, lanes := 0#96, backs := [], accs := [
  ⟨0, 16, 5, [{ lane := 0, pa := 512, n := 32, got := 7 }], true⟩, ⟨0, 17, 5, [{ lane := 32, pa := 544, n := 32, got := 0 }], true⟩] }
theorem hyps_HodUnitArrival : (let s : State := { sMove arriveX with clk := 9, flights := [unitFl] };
      hodTablesIn s 0 = true ∧ (s.hod 0).slot 1 = some arriveX ∧ arriveX.buf = [dueU] ∧ dueU.space = 0 ∧ s.flights = [unitFl] ∧
      unitFl.key = hodKey 0 1 ∧ unitFl.dst = .hod dueU.id) ∧
    unitFl.accs.flatMap (·.parts) = ((spanPieces 32 65 512 0 64).map fun p => { lane := p.2.1, pa := p.1, n := p.2.2, got := memRead [(512, 7#8)] p.1 p.2.2 }) ∧
    unitFl.unitGot = (7, 0, 0) := by decide +kernel

theorem hyps_HodUnitWrite : (let f : Xfer := { copyX with stop := true, buf := [heldU] };
      HodTables (sMove f) 0 ∧ ((sMove f).hod 0).slot 1 = some f ∧ (∀ v ∈ f.buf, v.stage = .held) ∧ heldU.dst < 2 ^ 32 ∧ heldU.data < 2 ^ (8 * heldU.len) ∧
      (sMove f).hodXlate 0 0 f.cmd heldU.dst needW = .ok 2048 ∧ UnitFree (sMove f) 0 2048 64 false) :=
  ⟨hodTables_of (by decide +kernel), by decide +kernel, by decide +kernel, by decide +kernel, by decide +kernel, rfl, ⟨by decide +kernel, by decide +kernel⟩⟩

/-- A transfer whose walk begins; one whose walk has the entry of a level; an eviction that waits, one all of whose bytes have moved, and a
repair. -/
def walkX (level data : Nat) (st : UnitStage) (old : Bool := false) : Xfer := { copyX with walk := some { dest := false, page := 5, level := level, stage := st, data := data, old := old } }
def evictX : Xfer := { copyX with phase := .evict, cmd := { copyCmd with op := 5, image := some (64 * 2 ^ 352) } }
def doneX : Xfer := { copyX with elem := 1, phase := .ended }
theorem hyps_HodCompletionEvents : (∀ f ∈ [walkX 0 0 .held, walkX 1 1 (.due 9), walkX 4 3 (.due 9), walkX 4 3 (.due 9) true, walkX 4 0 (.due 9), evictX, doneX, { doneX with q := 17 }],
      HodTables (sMove f) 0 ∧ ((sMove f).hod 0).slot 1 = some f) ∧
    (sMove (walkX 0 0 .held)).walkerBusy (walkerOf 0) = false ∧ (sMove (walkX 0 0 .held)).dirCaches = [] ∧ (sMove (walkX 1 1 (.due 9))).clk < 9 ∧
    pteFails 4 0 0 = some 5 ∧ pteAllows 3 needR = true ∧ (sMove evictX).backingHeld evictX = false ∧ doneX.moved = true ∧
    (((sMove doneX).hod 0).queue 0).cseq = doneX.cmd.seq ∧ ({ doneX with q := 17 } : Xfer).moved = true ∧ (sMove doneX).startHeld doneX.cmd = false := by
  refine ⟨?_, by decide +kernel⟩
  have h : ∀ f ∈ [walkX 0 0 .held, walkX 1 1 (.due 9), walkX 4 3 (.due 9), walkX 4 3 (.due 9) true, walkX 4 0 (.due 9), evictX, doneX, { doneX with q := 17 }],
      hodTablesIn (sMove f) 0 = true ∧ ((sMove f).hod 0).slot 1 = some f := by decide +kernel
  exact fun f hf => ⟨hodTables_of (h f hf).1, (h f hf).2⟩
/-- Entries that lead on, and to a page that may be read. -/
theorem hyps_WalkEntries : pteFails 1 1 0 = none ∧ pteFails 4 3 0 = none := by
  have h : lpPresent 0 = true := by simp only [lpPresent]; split <;> decide
  constructor
  · simp only [pteFails, pteBad, show bitsN 1 38 11 * 2048 = 0 by decide, h]; decide
  · simp only [pteFails, pteBad, show bitsN 3 38 11 * 2048 = 0 by decide, h]; decide

/-- A machine at a clk whose first sub-channel is `c`. -/
def sLp (clk : Nat) (c : SubCh) : State := { s0 with clk := clk, lp := { sub := if c = {} then [] else [(0, c)] } }
/-- Slots due and one clk early at both rates, the list full and with room, one entry on the list with its bank idle, a refresh started in
this clk, every bank idle, an access at an idle bank and one still on its way; the rate poll due and early; a write that arrives; the last
granule of the patrol and the first burst. -/
theorem hyps_AssetMemoryEvents : (∀ c ∈ [({ nslot := 1 } : SubCh), { nslot := 2, twice := true }, { nslot := 1, list := List.replicate 8 ⟨0, 0, false⟩ },
      { list := [⟨3, 0, false⟩] }, { forced := true }, { accq := [(0, [{ who := .other, pa := 0, len := 32, at_ := 256 }])] }, { pollAt := 257 }],
      swf {} (sLp 256 c).lp.sub = true ∧ (sLp 256 c).lp.subOf 0 = c ∧ (sLp 256 c).lp.epoch = 0 ∧ swf [] c.accq = true ∧ swf 0 c.busy = true ∧
      c.refreshed 256 = false ∧ ∀ b, b < 16 → sget 0 c.busy b ≤ 256) ∧ (255 : Nat) < 0 + 256 * 1 + 4 * 0 ∧ lpSub 0 = 0 ∧ lpBank 0 = 0 ∧
    (192 * 2 ^ 24 - 1 : Nat) < 192 * 2 ^ 24 ∧ sget [] ({ list := [⟨3, 0, false⟩] } : SubCh).accq 3 = [] ∧
    ({ refIv := [(2, [(256, 400)])] } : SubCh).refreshed 256 = true ∧ ({ s0 with life := { lcs := 2, wiping := false } } : State).life.wiping = false ∧
    (let w : LpWrite := { pa := 64, len := 32, data := 5, psn := 0, at_ := 9 }; w.data < 2 ^ (8 * w.len) ∧ Memory.wf ({ inbox := [w] } : Lpddr).bytes = true) ∧
    s0.bankHeld (granOf (192 * 2 ^ 24 - 1)) = false ∧ (0 : Nat) / 32 * 32 = scrubBurst 0 0 ∧ swf false s0.lp.ceLat = true := by decide +kernel

/-- A read for a unit of a transfer at the head of a bank's queue. -/
def lpUnit : LpAcc := { who := .unit 0 1 3, pa := 64, len := 32, at_ := 9 }
def sLpUnit : State := { sMove { copyX with buf := [{ dueU with space := 2, stage := .held }] } with clk := 9, lp := { sub := [(0, { accq := [(0, [lpUnit])] })] } }
theorem hyps_LpddrUnitRead : hodTablesIn sLpUnit 0 = true ∧ sget [] (sLpUnit.lp.subOf 0).accq 0 = [lpUnit] ∧ lpUnit.write = false ∧
    ((sLpUnit.hod 0).slot 1).map (·.buf.map (·.id)) = some [3] ∧ 0 < lpUnit.len ∧ sLpUnit.lp.psn = [] ∧ sLpUnit.lp.ueLat = [] := by decide +kernel

theorem hyps_LpddrAddress : lpPresent 0 = true ∧ lpPresent (2 ^ 38 - 1) = true := by
  constructor <;> (simp only [lpPresent]; split <;> decide)

/-- The timebase of reset and at its bounds; a step of 5 ns forward, one that ends below zero. -/
theorem hyps_TimebaseEvents : (let t := s0.tbase; t.ns < 10 ^ 9 ∧ t.frac < 65536 ∧ t.acc < 65536) ∧
    (let t : Timebase := { sec := 2 ^ 48 - 1, ns := 10 ^ 9 - 1, frac := 65535, acc := 65534, inc := 1 };
      ((t.sec * 10 ^ 9 + t.ns) * 65536 + t.frac) * 65536 + t.acc + t.inc * 1 < 2 ^ 48 * (10 ^ 9 * 2 ^ 32)) ∧
    ((5 * 65536 + 7 : Nat) : Int) = (0 : Int) + sextN 5 64 * 65536 + (7 : Nat) ∧ (0 : Int) + sextN (2 ^ 64 - 1) 64 * 65536 + (0 : Nat) < 0 := by decide +kernel

/-- A machine that is not being wiped, context 1's S-space physical. -/
def sHost : State := { held 0 0 with life := { lcs := 2, wiping := false } }
/-- A host's read that has found its bytes, poisoned or not. -/
def hostFl (psn : Bool) : Flight := { key := hostKey 3, agent := 1, op := .load true, dst := .hod 0, lanes := 0#96, backs := [], accs := [
  ⟨0, 16, 5, [{ lane := 0, pa := 512, n := 32, got := 7, psn := psn }], true⟩] }
/-- One whole bank word, the last of SRAM; a protected block; a read that is answered; registers of a pipeline, and offsets that are not listed;
control writes and reads that wait. -/
theorem hyps_HostAccessEvents : sHost.life.wiping = false ∧ s0.life.wiping = true ∧ (192 * 2 ^ 24 - 32) + 32 ≤ 192 * 2 ^ 24 ∧
    (192 * 2 ^ 24 - 32) % 32 + 32 ≤ 32 ∧ sHost.mem.protAt 0 = false ∧ (sHost.setMem { sHost.mem with prot := [(0, true)] }).mem.protAt 0 = true ∧
    (∀ p ∈ [false, true], ({ sHost with flights := [hostFl p], clk := 9 } : State).flights = [hostFl p] ∧ (hostFl p).key = hostKey 3 ∧
      decide ((hostFl p).unitGot.2.1 = 0) = !p) ∧
    swf {} sHost.mem.ctr = true ∧ swf {} sHost.pipes = true ∧ ctlBlock 0x11a040 = some (.pipe 0, 0) ∧ ctlBlock 0x11a0b8 = some (.pipe 3, 24) ∧
    ctlBlock 0x11a0c0 = none ∧ (1024 : Nat) % 1024 = 0 ∧ (1023 : Nat) % 1024 ≠ 0 ∧ sHost.hostQ = [] ∧ sHost.hostRds = [] ∧
    swf 0 sHost.hostSlot = true ∧ sget 0 sHost.hostSlot 16 ≤ sHost.clk ∧ sHost.clk < sget 0 ({ sHost with hostSlot := [(16, 9)] } : State).hostSlot 16 ∧
    sHost.hostBusy = false ∧ sHost.hostGap ≤ sHost.clk ∧ sHost.ctlQ = [] ∧
    ({ sHost with hostQ := [⟨0, 9⟩] } : State).hostQ ≠ [] ∧ sHost.clk < ({ sHost with hostGap := 1 } : State).hostGap := by decide +kernel

/-- 02 R46: four rows of its table of latencies: coalesced in the own slice; 64 lanes at a stride of 4 KiB, all in slice 32, from core 35;
slice 191 from core 0; an atomic of 32 lanes on one address of the own slice. -/
theorem test_latencies : [latencyL 0 1 ((List.range 4).map fun g => (0, g)),
    latencyL 35 2 ((List.range 64).map fun l => (l / 32, granOf (32 * 2 ^ 24 + 256 * l))), latencyL 0 1 [(0, granOf (191 * 2 ^ 24))],
    latencyL 0 1 (List.replicate 64 (0, 5))] = [11, 29, 115, 74] := by decide +kernel

/-- A journal record about to be written to the last slot before the end of memory; a word 4 of the pointer block with `FWGO` set. -/
def sLog (step : Nat) : State :=
  let q : List LogRec := [⟨5 * 2 ^ 448 + 7, true, step⟩]
  { sHost with clk := 40, agenda := [.tick 1], ptr := { sHost.ptr with jbase := 49151, jlog2 := 0, jwseq := 1023, jq := q, jAt := 40 } }
theorem hyps_RecordsAreWritten : ∀ n ∈ [0, 1, 2], let s := sLog n; s.agenda = .tick 1 :: [] ∧ s.ptr.jq = [⟨5 * 2 ^ 448 + 7, true, n⟩] ∧
    s.ptr.fq = [] ∧ s.ptr.jAt ≤ s.clk ∧ s.flights = [] ∧ s.slotsHeld = [] ∧ s.hostQ = [] ∧ s.ctlQ = [] ∧ Memory.wf s.mem.bytes = true ∧
    s.ptr.jbase * 65536 + 64 * (s.ptr.jwseq % 2 ^ (s.ptr.jlog2 + 10)) + 64 = 192 * 2 ^ 24 ∧ s.tbase.inc < 2 ^ 40 ∧
    2 ^ 26 / 2 ^ 26 % 2 = 1 ∧ sHost.life.wiping = false ∧ { sHost.life with lcs := 0 }.lcs = 0 := by decide +kernel
/-- R470: the second step writes the record's low bytes and leaves its `SEQ`; the next is due 17 clk later. -/
theorem test_journal_step : (match step (sLog 1) with
    | .next t => (memRead t.mem.bytes (192 * 2 ^ 24 - 64) 56, memRead t.mem.bytes (192 * 2 ^ 24 - 8) 8, t.ptr.jAt, t.ptr.jq.map (·.step))
    | _ => (0, 0, 0, [])) = (7, 0, 57, [2]) := by decide +kernel

/-- A machine at a clk whose first cluster is `c`. -/
def sCl (clk : Nat) (c : Cluster) : State := { s0 with clk := clk, clusters := if c = {} then [] else [(0, c)] }
theorem hyps_PlatformChanges : (sCl 0 { railm := 1 }).wantRail 0 = 1 ∧ ((sCl 0 { railm := 1 }).cluster 0).rail ≠ 1 ∧ (sCl 0 {}).wantRail 0 = 0 ∧
    ((sCl 0 {}).cluster 0).rail = 0 ∧ (let c : Cluster := { railm := 2, lowSince := 0 };
      let s : State := { sCl 4096 c with warps := [] };
      s.cluster 0 = c ∧ s.wantRail 0 = 1 ∧ c.forced = false) ∧
    (let c : Cluster := { flow := true, tlow := true };
      (sCl 1050000000 c).cluster 0 = c ∧ c.susp < 3 ∧ c.calm + 1050000000 ≤ (sCl 1050000000 c).clk ∧ c.hot = false ∧ c.calmT + 1050000000 ≤ (sCl 1050000000 c).clk) ∧
    ((sCl 0 {}).sensor 0 3).suspect = false ∧ (sCl 0 {}).goodNeighbours (sensorCore 0 3) = [] ∧ ((sCl 0 {}).sensor 0 3).last = none ∧
    -40000 ≤ sextN (2 ^ 32 - 40000) 32 ∧ sextN 150000 32 ≤ 150000 ∧ 150000 < sextN 150001 32 ∧
    (let s : State := { sCl 1050000 {} with margins := [(0, some { rail := 0, mv := 55, safe := 50 })] };
      sget none s.margins 0 = some { rail := 0, mv := 55, safe := 50 } ∧ swf none s.margins = true ∧ (0 : Nat) + 1050000 ≤ s.clk) ∧
    (∀ l ∈ [0, 1], ({ s0 with life := { lcs := l, wiping := false } } : State).life.lcs = l) ∧ s0.life.wiping = true ∧ s0.life.wipeAt = 0 ∧
    s0.hostBusy = false ∧ (8191 : Nat) < 0 + 8192 ∧ swf {} s0.clusters = true ∧
    swf {} s0.dps = true := by decide +kernel

/-- A reduction over a tree of 256 bytes, its record at address 0 and its group of one member at address 4,096. -/
def treeImage : Nat := 256 * 2 ^ 352 + 64 * 2 ^ 289
def sFab (c : FabCmd) : State :=
  let s := held 64 treeImage; (s.setMem { s.mem with bytes := memWrite s.mem.bytes 4096 2 1 }).setFab 0 { cmds := [c] }
def fabC : FabCmd := { tree := true, ctx := 1, recAddr := 0, seq := 0 }
/-- A command before its start, with a record that is accepted and (as a ring) one that is not; one at work with two members, before and after
the other's contribution, with and without its receive window, and with its chunk written; an export of context 1's S-space for reads and
writes; a port up and down. -/
theorem hyps_FabricChanges : (∀ t ∈ [true, false], swf {} (sFab { fabC with tree := t }).fabs = true ∧
      ((sFab { fabC with tree := t }).fabQ 0).cmds = [{ fabC with tree := t }]) ∧
    fabMalformed false treeImage = true ∧ (let s := sFab fabC;
      fabMalformed true (memRead s.mem.bytes 0 64) = false ∧ memRead s.mem.bytes 0 64 / 2 ^ 289 % 2 ^ 26 * 64 = 4096 ∧ memRead s.mem.bytes 4096 64 = 1 ∧
      memRead s.mem.bytes 4160 2 = s.fab.devid ∧ s.fab.reach 0 = true ∧ s.fab.reach 5 = false ∧ (s.ctx 1).group = 0 ∧
      spaceOf (recSrc treeImage) = 0 ∧ spaceOf (recDst treeImage) = 0) ∧
    memRead (memWrite (memWrite [] 4096 2 2) 4162 2 5) 4162 2 = 5 ∧
    (let c : FabCmd := { fabC with started := true, image := some treeImage, nmemb := 2, members := [0, 1] };
      ((sFab c).fabQ 0).cmds = [c] ∧ c.chunks = 1 ∧ ({ c with recv := [(0, 1, 0, 0)] } : FabCmd).chunks = 1 ∧ (0 : Nat) ∉ c.posted ∧
      ∀ r, r < 2 → r ≠ 0 → ∃ y ∈ [((0, 1, 0, 0) : Nat × Nat × Nat × Nat)], y.1 = 0 ∧ y.2.1 = r) ∧
    (let c : FabCmd := { fabC with started := true, image := some treeImage, nmemb := 2, members := [0, 1] };
      (sFab c).xwinOk c = false ∧ ({ sFab c with fab := { exports := [(0, 2 ^ 124 + 2 ^ 122 + 2 ^ 99)] } } : State).xwinOk c = true ∧
      ({ c with wrote := [(0, 9)] } : FabCmd).wrote.find? (fun w => w.1 == 0) = some (0, 9) ∧ (sFab c).clk < 9 ∧
      soundAt (sFab c) 0 8 = true ∧ Memory.wf (sFab c).mem.bytes = true ∧ c.image.getD 0 / 2 ^ 315 % 2 ^ 29 * 8 + 8 * 0 = 0) ∧
    (let e := 2 ^ 124 + 2 ^ 121 + 2 ^ 120 + 2 ^ 99;
      (sHost.life.wiping = false) ∧ ({ exports := [(0, e + 2 ^ 122)] } : Fabric).exportFor 0 4 2 0 = some (e + 2 ^ 122) ∧
      ({ exports := [(0, e)] } : Fabric).exportFor 0 4 1 0 = some e ∧ ({ exports := [(0, e)] } : Fabric).exportFor 0 4 0 0 = some e ∧
      ({} : Fabric).exportFor 0 4 1 0 = none ∧ bitsN e 127 124 = 1 ∧ soundAt (held 0 0) 0 4 = true) ∧ sget false s0.fab.down 11 = false ∧
    sget false ({ down := [(11, true)] } : Fabric).down 11 = true := by decide +kernel

theorem hyps_FabricTranslations : (∀ a ∈ [0, 4096, 4160], ((sFab fabC).ctx 1).xlateS a needR = .ok a) ∧ (sFab fabC).hodXlate 0 0 { op := 0, ctx := 1 } 0 needR = .ok 0 ∧
    Sound (sFab fabC) 0 64 ∧ Sound (sFab fabC) 4096 64 ∧ Sound (sFab fabC) 4160 2 ∧
    (∀ nd ∈ [needR, needW, 16 + needW], ((held 0 0).exportPlace (2 ^ 124 + 2 ^ 121 + 2 ^ 120 + 2 ^ 99) 0 nd).1 = .ok (.sram 0)) ∧ ((sFab fabC).ctx 1).xlateS 0 needRWAT = .ok 0 := by
  refine ⟨fun a ha => ?_, rfl, sound_of (by decide +kernel), sound_of (by decide +kernel), sound_of (by decide +kernel), fun n hn => ?_, rfl⟩
  case refine_2 =>
    simp only [List.mem_cons, List.not_mem_nil, or_false] at hn
    rcases hn with rfl | rfl | rfl <;> rfl
  simp only [List.mem_cons, List.not_mem_nil, or_false] at ha
  rcases ha with rfl | rfl | rfl <;> rfl

/-- A launch record of one team of one warp of 32 lanes and 64 registers, and one of a graph of one node. -/
def kernelImage : Nat := 2 ^ 416 + 8 * 2 ^ 410
def graphImage : Nat := 3 * 2 ^ 372 + 2 ^ 274
/-- A machine whose hardware queue 5 holds the record at its head. -/
def sQueue (x : Nat) : State := (held 64 x).setQueue 5 { ctx := 1, en := true, tail := 1 }
/-- A team of one warp, and a launch. -/
def tm0 (st : TeamStatus) : Team := { ctx := 1, launch := 3, teamId := 0, status := st, kpc := 0, width := 32, depth := 64, frame := 0, scratch := 256, nw := 1,
                                       pair := false, ash := false, idem := true, keys := [0], left := 1 }
def ln0 (x : Nat) : Launch := { queue := 5, ctx := 1, pos := 0, recAddr := 0, image := x, kind := lrKind x }
/-- A machine with that team (number 0), whose launch is 3, and its warp. -/
def sTeam (t : Team) (w : Warp) (l : Launch) : State := { ((machine w).setTeam 0 (some t)).setLaunch 3 (some l) with launchCtr := 4, clk := 9 }

/-- That machine once the entry has come, and one clk before. -/
def sEntry (x n : Nat) : State := ((sQueue x).readEntry 5).advance n
/-- 15 R394, 02 R49: from core 0 the stop of row 5 is 1 + 5 hops away, so a read that leaves at once is complete 11 + 24 clk later. -/
theorem test_entry_time : ((sEntry 0 0).queue 5).readDue = some 35 := by decide +kernel
theorem hyps_LaunchEntry : (∀ x ∈ [kernelImage, graphImage, 7 * 2 ^ 372], let s := sEntry x 35; (s.queue 5).readDue = some 35 ∧ s.clk = 35 ∧
      (s.flights.find? (fun f => f.key == entryKey 5)).map (·.unitGot) = some (x, 0, 0) ∧ swf {} s.queues = true ∧ swf none s.launches = true) ∧
    (sEntry 0 34).clk = 34 ∧ ((({ sQueue 0 with mem := { (sQueue 0).mem with psn := [(1, true)] } } : State).readEntry 5).advance 35).flights.map
      (fun f => decide (f.unitGot.2.1 = 0)) = [false] := by decide +kernel

theorem hyps_LaunchEvents : (∀ x ∈ [kernelImage, graphImage, 7 * 2 ^ 372], (sQueue x).nextQueue = some 5 ∧ swf {} (sQueue x).queues = true ∧
      (sQueue x).ctxPa 1 ((sQueue x).queue 5).entry needR = some 0 ∧ (sQueue x).arb.accAt ≤ (sQueue x).clk) ∧
    launchMalformed kernelImage true = false ∧ lrKind kernelImage = 0 ∧ launchMalformed graphImage true = false ∧ lrKind graphImage = 3 ∧
    launchMalformed (7 * 2 ^ 372) true = true ∧ (let s : State := { sTeam (tm0 .waiting) w0 (ln0 kernelImage) with chainQ := [.team 0] };
      let s := s.setCtx 1 { s.ctx 1 with plblk := 1 };
      s.team 0 = some (tm0 .waiting) ∧ s.bestCore (tm0 .waiting) = some 1 ∧ s.binQ = []) ∧
    (sTeam (tm0 .placed) w0 (ln0 kernelImage)).team 0 = some (tm0 .placed) ∧ (sTeam (tm0 .placed) w0 (ln0 kernelImage)).warp 0 = some w0 ∧
    (let l := { ln0 kernelImage with nextTeam := 1 };
      let s := s0.setLaunch 4 (some l);
      s.launch 4 = some l ∧ s.launchIdle 4 l = true ∧ l.done = false ∧ l.walker = none ∧ l.parent = none ∧ l.handler = false ∧ swf none s.launches = true) := by
  decide +kernel

/-- A walker whose node 0 is in a state. -/
def sGraph (g : GNode) : State := { held 64 0 with walkers := [(0, some { launch := 3, ctx := 1, base := 64, n := 1, nodes := [(0, g)] })], clk := 9 }
theorem hyps_GraphEvents : (let s := sTeam (tm0 .started) w0 (ln0 graphImage);
      s.launch 3 = some (ln0 graphImage) ∧ 3 < s.launchCtr ∧ (ln0 graphImage).kind = 3 ∧ s.graphHead 5 3 = true ∧
      (List.range 8).find? (fun k => (s.walker k).isNone) = some 0) ∧
    (∀ k ∈ [5, 7], (sGraph { image := k * 2 ^ 508, st := 2, choice := 1 }).nodeTurn 0 0 = true ∧ nKind (k * 2 ^ 508) = k) ∧
    (let s := (sGraph { image := 2 ^ 508, st := 2, launch := some 4 }).setLaunch 4 (some { ln0 kernelImage with done := true });
      s.nodeTurn 0 0 = true ∧ nKind (2 ^ 508) = 1 ∧ swf none s.launches = true ∧ swf none s.walkers = true) ∧
    (let x := 6 * 2 ^ 508 + 9 * 2 ^ 320;
      nKind x = 6 ∧ (sGraph { image := x, st := 2 }).nodeTurn 0 0 = true ∧ bitN x 487 = false ∧ bitN x 474 = false ∧ waitTill x 0 = 9 ∧
      8 < waitTill x ((sGraph { image := x, st := 2 }).gnode 0 0).start) ∧
    (let x := 3 * 2 ^ 508;
      let s := sGraph { image := x, st := 2 };
      let s := s.setMem { s.mem with wakes := [(0, [⟨0, .node 0 0, 3⟩])] };
      nKind x = 3 ∧ s.mem.woken (.node 0 0) = true ∧ s.ctxPa 1 (x / 2 ^ 354 % 2 ^ 30 * 4) needR = some 0 ∧ soundAt s 0 4 = true ∧
      condHolds x (memRead s.mem.bytes 0 4) = true) := by decide +kernel

/-- A context with one fault on its way, a fault queue of four records at address 4,096, and a handler launch record at address 0. -/
def sFault (drv : Bool) (run : Nat) : State :=
  let s := held 64 kernelImage
  s.setCtx 1 { s.ctx 1 with
    fqbase := 64, fqlog2 := 2, fqtail := 3, hrec := 1, hmax := 1, hrun := run, pending := [{ image := 17, work := .warp 0 0, key := 0, toDriver := drv }] }
theorem hyps_FaultDeliveryEvents : (∀ d ∈ [true, false], swf {} (sFault d 0).ctxs = true ∧ (∃ f, ((sFault d 0).ctx 1).pending = [f] ∧ f.handle = 0 ∧ f.after = 0 ∧
        f.toDriver = d ∧ f.image < 2 ^ 512 ∧ f.image / 2 ^ 128 % 2 ^ 32 = 0 ∧ f.image / 2 ^ 32 % 2 ^ 32 = 0 ∧ ∀ tm, (sFault d 0).team f.work.team = some tm → tm.tcb = none) ∧
      (List.range 1024).find? (fun i => (sget {} ((sFault d 0).ctx 1).dir i).serial == 0) = some 0) ∧
    (sFault false 0).fqSlot 1 3 = some (4096 + 64 * 3) ∧ (3 : Nat) - 0 < 2 ^ 2 ∧ (sFault false 0).ctxPa 1 64 needR = some 64 ∧ soundAt (sFault false 0) 64 64 = true ∧
    ((sFault false 0).ctx 1).hrec ≠ 0 ∧ ((sFault false 0).ctx 1).hdead = false ∧ ((sFault false 1).ctx 1).hmax ≤ ((sFault false 1).ctx 1).hrun := by
  refine ⟨fun d hd => ?_, by decide +kernel⟩
  simp only [List.mem_cons, List.not_mem_nil, or_false] at hd
  rcases hd with rfl | rfl <;>
    exact ⟨by decide +kernel, ⟨_, rfl, by decide +kernel, by decide +kernel, by decide +kernel, by decide +kernel, by decide +kernel, by decide +kernel, fun tm h => by cases h; rfl⟩, by decide +kernel⟩

/-- A save, a resume on another core and on the same, a discard with and without `IC`; a commit with blocks to release, and at its end. -/
theorem hyps_PreemptionEvents_save : (let t := { tm0 .started with preempt := 1 };
      let s := sTeam t w0 (ln0 kernelImage);
      s.team 0 = some t ∧ s.warp 0 = some w0 ∧ s.entries 0 = [] ∧ s.ashs = [] ∧ s.teamQuiet 0 t = true ∧ swf none s.teams = true ∧ swf none s.warps = true) := by decide +kernel

theorem hyps_PreemptionEvents_resume : (∀ c ∈ [0, 1], let t := { tm0 .placed with restoring := true, oldCore := c, old0 := 4096 };
      (sTeam t w0 (ln0 kernelImage)).team 0 = some t ∧ t.changes = [] ∧ Memory.wf (sTeam t w0 (ln0 kernelImage)).mem.bytes = true) := by decide +kernel

theorem hyps_PreemptionEvents_discard : (∀ ic ∈ [0, 1], let t := { tm0 .started with preempt := 2 };
      let w := { w0 with ic := ic };
      let s := sTeam t w (ln0 kernelImage);
      let s : State := { s with clk := 17 };
      s.team 0 = some t ∧ s.warp 0 = some w ∧ s.launch 3 = some (ln0 kernelImage) ∧ t.tcb = none ∧ s.memDone 0 = true ∧ w.lastPlain + 17 ≤ s.clk) := by decide +kernel

/-- A commit in progress, before and after its blocks' release; one that an access in flight keeps waiting. -/
def sCommit (rel : Bool) (till : Nat) : State := s0.setCtx 1 { s0.ctx 1 with commit := some ([(0, 0, 1)], [0]), commitReleased := rel, commitTill := till, shoot := true }
theorem hyps_PreemptionEvents_commit : (∀ r ∈ [false, true], let s := sCommit r 0;
      (s.ctx 1).commit = some ([(0, 0, 1)], [0]) ∧ (s.ctx 1).commitReleased = r ∧ (0, 0, 1) ∉ s.hodCommands 1 ∧ (s.ctx 1).shoot = true ∧ s.hods = [] ∧
      (s.oldAccessesDone 1 && swf {} s.ctxs && s.ctxs.all (fun x => !x.2.guards 0)) = true) ∧ (sCommit false 1).oldAccessesDone 1 = false := by decide +kernel

/-- A pipeline of one strip whose frame 0 is on; its chain, its BIN node, its template's one node, and what is to change. -/
def sPipe (p : Pipe) : State := { sTeam (tm0 .started) w0 (ln0 kernelImage) with pipes := [(1, p)], slots := [] }
def bin0 : Bin := { frame := 0, dl := 9 }
def chain0 : Chain := { frame := 0, ix := 0, f := 9, r := 9 }
/-- A pipeline's record with a bin area of 256 bytes in each half and `n` output lines' consumer bits. -/
def pipeImage (bits : Nat) : Nat := 2 * 2 ^ 680 + bits
theorem hyps_FrameAndBinEvents : (∀ n ∈ [9, 10], let p : Pipe := { en := true, cur := some 0, nextFs := n };
      (sPipe p).pipe 1 = p ∧ (sPipe p).tbase.inc ≠ 0 ∧ swf {} (sPipe p).pipes = true) ∧
    (∀ used ∈ [192, 193], let p : Pipe := { image := pipeImage 0, en := true, cur := some 0, bins := [{ bin0 with used := used }] };
      let t := { tm0 .ended with stage := 1, pipe := 1, keys := [] };
      let s : State := { sTeam t w0 { ln0 (2 ^ 372) with plumb := some 1 } with pipes := [(1, p)] };
      s.team 0 = some t ∧ s.launch 3 = some { ln0 (2 ^ 372) with plumb := some 1 } ∧ lrFrame (2 ^ 372) = 0 ∧ (s.pipe 1).bins = p.bins ∧
      pBinHalf p.image = 256 ∧ up64 (64 + 16 * t.mesh.nv * t.mesh.g + 4 * t.mesh.np) = 64) ∧
    (∀ b ∈ [{ bin0 with fes := [3], before := [4] }, { bin0 with fes := [3], before := [3] }, bin0], let p : Pipe := { en := true, cur := some 0, bins := [b] };
      ((sPipe p).pipe 1).runningBin = some b ∧ (∀ fe ∈ b.fes, (sPipe p).launch fe = some (ln0 kernelImage)) ∧ b.fes.Nodup ∧
      ([4].all (sPipe p).launchOver = true ∧ [3].all (sPipe p).launchOver = false) ∧ b.dl ≤ (sPipe p).clk) := by
  refine ⟨by decide +kernel, by decide +kernel, fun b hb => ?_⟩
  simp only [List.mem_cons, List.not_mem_nil, or_false] at hb
  rcases hb with rfl | rfl | rfl <;>
    exact ⟨by decide +kernel, by decide +kernel, by decide +kernel, by decide +kernel⟩

/-- Where a chain stands, with its BIN node Done, Late and running, its one node a wait or a raster node whose slot is free or taken. -/
def sChain (b : BinState) (h : Chain) (node : Nat) (taken : Bool) : State :=
  { sPipe { image := 2 ^ 809, en := true, cur := some 0, bins := [{ bin0 with st := b }], chains := [h], nodes := [node] } with
    slots := if taken then [(0, { st := 2 })] else [] }
def waitNode : Nat := 6 * 2 ^ 508
def rasterNode : Nat := 2 ^ 508 + 2 ^ 356
theorem hyps_ChainEvents : (let s := sChain .done chain0 waitNode false;
      (s.pipe 1).chains.find? (fun h => h.ix == 0 && !h.res) = some chain0 ∧ chain0.r ≤ s.clk + 4096 ∧
      s.clk + 4096 < ({ chain0 with r := 9 + 4097 } : Chain).r ∧ swf {} s.pipes = true ∧ swf {} s.slots = true) ∧
    (∀ b ∈ [BinState.done, .late, .running], ∀ nd ∈ [waitNode, rasterNode], ∀ t ∈ [false, true], let s := sChain b chain0 nd t;
      (s.pipe 1).chains.head? = some chain0 ∧ ((s.pipe 1).bins.find? fun b => b.frame == 0).map Bin.st = some b ∧
      s.slotsReady 1 chain0 = (nd == waitNode || !t) ∧ ((s.pipe 1).costs 0).length = 0) ∧
    (nKind waitNode = 6 ∧ nKind rasterNode = 1 ∧ nSkind rasterNode = 1) ∧
    (∀ st ∈ [ChainState.waiting, .running], let h := { chain0 with st := st };
      let s := sChain .done h waitNode false;
      s.chainOf 1 0 = some h ∧ s.slotsReady 1 h = true ∧ s.chainOver 1 h = true ∧ (s.pipe 1).nodes.length ≤ h.node + 1 ∧ h.f ≤ s.clk ∧ (8 : Nat) < h.f) ∧
    (sChain .done { chain0 with st := .waiting } rasterNode true).slotsReady 1 { chain0 with st := .waiting } = false := by decide +kernel

theorem hyps_LateBinNodeSkipsItsChains : (let s := sChain .running chain0 waitNode false; (s.pipe 1).runningBin = some bin0 ∧ bin0.dl ≤ s.clk) ∧
    (let s := sChain .late chain0 waitNode false;
      (s.pipe 1).chains.head? = some chain0 ∧ chain0.st = .pending ∧ chain0.r ≤ s.clk ∧
      (s.pipe 1).bins.find? (fun b => b.frame == chain0.frame) = some { bin0 with st := .late } ∧ swf 0 (s.pipe 1).lev = true) := by decide +kernel

/-- The record of a pipeline with an encoder and a display, a byte ring of 65,280 bytes at 65,536. -/
def outImage : Nat := 2 ^ 775 + 2 ^ 772 + 65536 * 2 ^ 552 + 2 ^ 536
def robE (done : Bool) : RobEntry := { team := 0, frame := 0, chain := 0, view := 0, level := 0, draw := 0, mesh := 0, prim := 0, regs := [], blocks := [(0, 0, 0)],
                                        done := done }
theorem hyps_StripOutputEvents : (∀ rob ∈ [[], List.replicate 512 (robE false)], let h := { chain0 with st := .running, launches := [(0, 3)] };
      let p : Pipe := { en := true, cur := some 0, ctx := 1, chains := [h], nodes := [2 ^ 508 + 2 * 2 ^ 356], rob := rob };
      (sPipe p).chainOf 1 0 = some h ∧ ((sPipe p).nextPixel 1 h).map (fun w => w.2.2.1.pix) = some 0 ∧ ((sPipe p).pipe 1).rob.length = rob.length ∧
      (sPipe p).launch 3 = some (ln0 kernelImage)) ∧
    (∀ d ∈ [false, true], ((sPipe { rob := [robE d] }).pipe 1).rob = [robE d] ∧ (robE d).done = d) ∧
    ({ robE true with killed := 1#96 } : RobEntry).blocks.all (fun b => ({ robE true with killed := 1#96 } : RobEntry).killed.getLsbD b.1) = true ∧
    (∀ img ∈ [outImage, 0], ∀ f ∈ [9, 10], let p : Pipe := { image := img, en := true, cur := some 0, fs := f };
      p.takeAt = some f ∧ p.lineAt = some f ∧ pConsumer img = (img == outImage)) ∧
    (let p : Pipe := { image := outImage, en := true, cur := some 0 };
      let s : State := { sPipe p with slots := [(0, { st := 2 })] };
      s.stripDone (s.pipe 1) 0 0 = true ∧ (sPipe p).stripDone p 0 0 = false ∧ ({ p with take := 1 } : Pipe).lineAt = some 0) ∧
    (let p : Pipe := { image := outImage, ctx := 1, en := true, cur := some 0 };
      let s := sPipe p;
      let s := s.setCtx 1 { s.ctx 1 with phys := true };
      s.ctxPa 1 (pEbuf outImage + 4) needR = some 65540 ∧ pEring outImage = 65280 ∧ p.obuLine ≤ p.line ∧ p.enc.frame ≤ 0 ∧ p.enc.wrote = none ∧
      sget 0 s.encAt (pEncNo outImage) + p.obuClk ≤ s.clk ∧ swf 0 s.encAt = true ∧
      (p.enc.woff % 2 ^ 32 + 2 ^ 32 - memRead s.mem.bytes 65540 4) % 2 ^ 32 = 0) ∧
    (∀ since ∈ [0, 8], let p : Pipe := { image := outImage, ctx := 1, en := true, cur := some 0, enc := { ({} : Pipe).enc with wrote := some since } };
      let s := sPipe p;
      let s : State := { s.setCtx 1 { s.ctx 1 with phys := true } with clk := 17 };
      (s.pipe 1).enc.wrote = some since ∧ s.ctxPa 1 (pEbuf outImage) needW = some 65536 ∧ Memory.wf s.mem.bytes = true ∧
      (decide (s.clk < since + 17) = (since == 8))) := by decide +kernel

/-- A machine whose Ashlar context 0, of the team, has one operation in its queue. -/
def sOp (o : AshOp) : State := { s0 with
  clk := 9, ashs := [(0, { team := some 0, n := 1, gmask := 1, ops := [o], tc := [(1, tcw), (2, tcw)], aw := [(3, 2 ^ 31)], nextId := 6 })] }
def opOf (kind : AshKind) (ready : Nat) : AshOp := { id := 5, kind := kind, t := 3, a := 1, b := 2, ready := ready, ta := tcw, tb := tcw, aw := 2 ^ 31 }
/-- Each kind of operation when it is ready, and one clk before; an AWRITE of one element inside; a finished one, and an AREAD's values. -/
theorem hyps_AshlarQueueEvents : (∀ k ∈ [AshKind.tzero, .tscl, .azero, .awrite, .mma], ∀ r ∈ [9, 10], let s := sOp (opOf k r);
      swf {} s.ashs = true ∧ (s.ash 0).ops = [opOf k r] ∧ (s.ash 0).team = some 0 ∧ (s.ash 1).ops = [] ∧ (opOf k r).started = false ∧
      swf 0#8 (s.ash 0).tiles = true ∧ swf 127 (s.ash 0).scales = true ∧ swf {} (s.ash 0).acc = true ∧ swf false (s.ash 0).epsn = true ∧ s.throttled 0 = false) ∧
    (let o := { opOf .awrite 0 with vals := [(0, ⟨7#32, false⟩)] };
      (o.vals.map (·.1)).Nodup ∧ o.arg % 64 < awM o.aw ∧ o.arg / 256 % 64 + 0 < awN o.aw ∧ (sOp o).clk = 9) ∧
    (0 < awM (opOf .mma 0).aw ∧ 0 < awN (opOf .mma 0).aw ∧ 0 < tcRows (opOf .mma 0).tb ∧ tcSp (opOf .mma 0).ta = false) ∧
    (∀ n ∈ [9, 10], let o := { opOf .tld 0 with started := true, till := n };
      ((sOp o).ash 0).ops = [o] ∧ o.todo = [] ∧ o.held = false ∧ shBar o.image = none ∧ o.kind ≠ .aread ∧ (sOp o).team 0 ≠ none ∧
      ((sOp o).team 0).all (fun y => y.gone != 2) = true) := by decide +kernel

theorem hyps_AreadDelivery : (let o := { opOf .aread 0 with started := true, till := 9, got := [(4, ⟨7#32, false⟩)] };
      let w := wPend 3 (.aread 5);
      let s := { sOp o with warps := [(0, some w)] };
      s.warp 0 = some w ∧ swf none s.warps = true ∧ swf {} w.v = true ∧ s.ashOf (0 / 128) w.team = some 0 ∧ o.warp = w.warpId ∧
      w.pend = [pendOf 3 (.aread 5)] ∧ (pendOf 3 (.aread 5)).del = .aread o.id ∧ isS 3 = false ∧ (o.got.map (·.1)).Nodup) := by decide +kernel

/-- A team on the cores 0 and 16, each with a paired operation, and the latch of their pair held for `n` clk. -/
def pairOp (id rows : Nat) : AshOp := { opOf .mma 0 with id := id, pair := true, tb := tcw + rows * 2 ^ 21, aw := 2 ^ 31 + 2 ^ 6 }
def sLatch (rows n : Nat) (l : Bool) : State := { sTeam { tm0 .started with pair := true } w0 (ln0 kernelImage) with
  ashs := [(0, { team := some 0, n := 1, ops := [pairOp 5 0], arrivals := [⟨0, pairOp 0 0, n⟩] }), (32, { team := some 0, half := 1, n := 1, ops := [pairOp 7 rows] })]
  latches := if l then [(0, .held 0 5 (({} : AshCtx).image (pairOp 5 0)) n)] else [] }
theorem hyps_LatchEvents_hold : (sLatch 0 0 false).latch 0 = .empty ∧ (sLatch 0 0 false).pairedReady 0 = some (pairOp 5 0) ∧ (sLatch 0 0 false).clk = 9 ∧
    (sLatch 0 0 true).latch 0 ≠ .empty ∧ swf .empty (sLatch 0 0 true).latches = true ∧ swf {} (sLatch 0 0 true).ashs = true ∧
    swf none (sLatch 0 0 true).teams = true ∧ ((sLatch 0 0 false).team 0).all (fun y => !(sLatch 0 0 false).allExited y) = true := by decide +kernel
theorem hyps_LatchEvents_join : (∀ r ∈ [0, 1], let s := sLatch r 0 true;
      s.latch (pairCore 0) = .held 0 5 (({} : AshCtx).image (pairOp 5 0)) 0 ∧ (s.ash 0).ops.find? (fun o => o.id == 5) = some (pairOp 5 0) ∧
      [2 * partner (0 / 2), 2 * partner (0 / 2) + 1].find? (fun x => (s.ash x).team == some 0) = some 32 ∧ s.pairedReady 32 = some (pairOp 7 r) ∧
      latchMatch (pairOp 5 0) (pairOp 7 r) = (r == 0) ∧ (s.team 0).map (·.gangPark) = some none) ∧
    (∀ n ∈ [2 ^ 20, 2 ^ 20 - 1], (sLatch 0 n true).latch (pairCore 0) = .held 0 5 (({} : AshCtx).image (pairOp 5 0)) n ∧ ((sLatch 0 n true).ash 0).arrivals.find? (fun a => decide (2 ^ 20 ≤ a.held)) =
      if n = 2 ^ 20 then some ⟨0, pairOp 0 0, n⟩ else none) := by decide +kernel

/-! ### Commands -/

/-- A machine with the command `w` at the head of its control queue, at address 0, and some records in memory: address, bytes, value. -/
def sHead (w : Nat) (recs : List (Nat × Nat × Nat)) : State :=
  let s : State := { s0 with life := { lcs := 2, wiping := false }, ptr := { cqtail := 1 }, teams := [], warps := [] };
  s.setMem { s.mem with bytes := recs.foldl (fun m r => memWrite m r.1 r.2.1 r.2.2) (memWrite [] 0 64 w) }

/-- A command at the head, as a test. -/
def headIn (s : State) (code used w : Nat) : Bool := s.takesCommands && decide (s.ptr.cqAddr + 64 ≤ 192 * 2 ^ 24) && soundAt s s.ptr.cqAddr 64 &&
  decide (w = memRead s.mem.bytes s.ptr.cqAddr 64 ∧ w / 2 ^ 504 = code ∧ (used = 0 ∨ w % 2 ^ used = 0))
theorem atHead_of {s : State} {code used w : Nat} (h : headIn s code used w = true) : AtHead s code used w := by
  simp only [headIn, Bool.and_eq_true, decide_eq_true_eq] at h
  exact ⟨h.1.1.1, h.1.1.2, sound_of h.1.2, h.2.1, h.2.2.1, h.2.2.2⟩

/-- A record that a command may use, as a test. -/
def recIn (s : State) (pa n x : Nat) : Bool := s.physOk pa n && soundAt s pa n && decide (x = memRead s.mem.bytes pa n)
theorem imageAt_of {s : State} {pa n x : Nat} (h : recIn s pa n x = true) : ImageAt s pa n x := by
  simp only [recIn, Bool.and_eq_true, decide_eq_true_eq] at h
  exact ⟨h.1.1, sound_of h.1.2, h.2⟩

/-- Codes that are not listed, and an operand bit that is not used. -/
theorem hyps_CommandRecords : ∀ w ∈ [0, 0x15 * 2 ^ 504, 0x02 * 2 ^ 504 + 1], (sHead w []).takesCommands = true ∧ (sHead w []).ptr.cqAddr = 0 ∧ Sound (sHead w []) 0 64 ∧
    (sHead w []).swap = none ∧ w = memRead (sHead w []).mem.bytes 0 64 ∧ (w / 2 ^ 504 = 0 ∨ 20 < w / 2 ^ 504 ∨ w / 2 ^ 504 = 2 ∧ w % 2 ^ 459 ≠ 0) := by
  have h : ∀ w ∈ [0, 0x15 * 2 ^ 504, 0x02 * 2 ^ 504 + 1], (sHead w []).takesCommands = true ∧ (sHead w []).ptr.cqAddr = 0 ∧ soundAt (sHead w []) 0 64 = true ∧
      (sHead w []).swap = none ∧ w = memRead (sHead w []).mem.bytes 0 64 ∧ (w / 2 ^ 504 = 0 ∨ 20 < w / 2 ^ 504 ∨ w / 2 ^ 504 = 2 ∧ w % 2 ^ 459 ≠ 0) := by decide +kernel
  exact fun w hw => ⟨(h w hw).1, (h w hw).2.1, sound_of (h w hw).2.2.1, (h w hw).2.2.2⟩

/-- A context record for context `k`, with a placement region of one block, its window table at address 8,192. -/
def ctxImage (k : Nat) : Nat := k * 2 ^ 507 + 32 * 2 ^ 436 + 2 ^ 404 + 2 ^ 396 + 4 * 2 ^ 366
/-- Commands whose operands are context `k` and a record at address 4,096, its place in units of `2 ^ u`, `2 ^ lo` the weight of its field. -/
def cmdAt (code k lo u : Nat) : Nat := code * 2 ^ 504 + k * 2 ^ 459 + 4096 / 2 ^ u * 2 ^ lo
/-- CTX_CREATE with a free context, a context in use, and a malformed record. -/
theorem hyps_CtxCreate : ∀ x ∈ [ctxImage 2, ctxImage 1, ctxImage 2 + 1], let s := sHead (cmdAt 1 0 438 6) [(4096, 64, x)];
    AtHead s 0x01 438 (cmdAt 1 0 438 6) ∧ ImageAt s (cmdAt 1 0 438 6 / 2 ^ 438 % 2 ^ 26 * 64) 64 x ∧ ImageAt s (x / 2 ^ 436 % 2 ^ 24 * 256) 256 0 ∧
    swf {} s.ctxs = true ∧ Memory.wf s.mem.bytes = true ∧ (s.ctx 1).live = true ∧ (s.ctx 2).live = false ∧ s.life.lcs ≠ 3 ∧ bitN x 506 = false ∧ (hwinTable 0).any (fun e => hwinBad e.2) = false := by
  have h : ∀ x ∈ [ctxImage 2, ctxImage 1, ctxImage 2 + 1], let s := sHead (cmdAt 1 0 438 6) [(4096, 64, x)];
      headIn s 0x01 438 (cmdAt 1 0 438 6) = true ∧ recIn s (cmdAt 1 0 438 6 / 2 ^ 438 % 2 ^ 26 * 64) 64 x = true ∧ recIn s (x / 2 ^ 436 % 2 ^ 24 * 256) 256 0 = true ∧
      swf {} s.ctxs = true ∧ Memory.wf s.mem.bytes = true ∧ (s.ctx 1).live = true ∧ (s.ctx 2).live = false ∧ s.life.lcs ≠ 3 ∧ bitN x 506 = false ∧ (hwinTable 0).any (fun e => hwinBad e.2) = false := by decide +kernel
  exact fun x hx => ⟨atHead_of (h x hx).1, imageAt_of (h x hx).2.1, imageAt_of (h x hx).2.2.1, (h x hx).2.2.2⟩

theorem hyps_CtxCreateRecord : (sHead 0 []).ctxBad (ctxImage 2) = false ∧ (sHead 0 []).ctxBad (ctxImage 2 + 1) = true := by
  have hp : lpPresent 0 = true := hyps_LpddrAddress.1
  constructor
  · simp only [State.ctxBad, show bitsN (ctxImage 2) 487 460 * 2048 = 0 by decide +kernel, hp]
    decide +kernel
  · simp only [State.ctxBad, show bitsN (ctxImage 2 + 1) 328 0 = 1 by decide +kernel]
    rfl

/-- CTX_DESTROY, SEG_COMMIT of a table whose first entry is accepted and of one whose third is not, SHOOTDOWN of every page, HWIN_SET and
EXPORT_SET with accepted and malformed entries, HOD_PLACE on the last core, each on a context in use and on one that is not. -/
theorem hyps_ContextCommands : ∀ k ∈ [1, 2],
    AtHead (sHead (cmdAt 2 k 459 12 - 2 ^ 459) []) 0x02 459 (cmdAt 2 k 459 12 - 2 ^ 459) ∧
    (∀ img ∈ [2 ^ 124 + 2 ^ 120, 2 ^ 256], let s := sHead (cmdAt 3 k 433 6) [(4096, 48, img)];
      AtHead s 0x03 433 (cmdAt 3 k 433 6) ∧ ImageAt s (cmdAt 3 k 433 6 / 2 ^ 433 % 2 ^ 26 * 64) 1024 img) ∧
    AtHead (sHead (4 * 2 ^ 504 + k * 2 ^ 459) []) 0x04 395 (4 * 2 ^ 504 + k * 2 ^ 459) ∧
    (∀ e ∈ [2 ^ 124, 2 ^ 124 + 1], let s := sHead (cmdAt 5 k 427 4) [(4096, 16, e)];
      AtHead s 0x05 427 (cmdAt 5 k 427 4) ∧ ImageAt s (cmdAt 5 k 427 4 / 2 ^ 427 % 2 ^ 28 * 16) 16 e ∧ hwinBad e = decide (e % 2 = 1)) ∧
    (∀ e ∈ [2 ^ 124, 3 * 2 ^ 124], let s := sHead (cmdAt 6 0 430 4) [(4096, 16, e)];
      AtHead s 0x06 430 (cmdAt 6 0 430 4) ∧ ImageAt s (cmdAt 6 0 430 4 / 2 ^ 430 % 2 ^ 28 * 16) 16 e ∧ s.exportBad e = decide (2 ^ 125 < e)) ∧
    (let w := 8 * 2 ^ 504 + 191 * 2 ^ 456 + 64 * 2 ^ 430 + k * 2 ^ 425;
      AtHead (sHead w []) 0x08 425 w ∧ (sHead w []).physOk (w / 2 ^ 430 % 2 ^ 26 * 64) 64 = true ∧ (sHead w []).hodFull 191 16 = false) := by
  have h : ∀ k ∈ [1, 2],
      headIn (sHead (cmdAt 2 k 459 12 - 2 ^ 459) []) 0x02 459 (cmdAt 2 k 459 12 - 2 ^ 459) = true ∧
      (∀ img ∈ [2 ^ 124 + 2 ^ 120, 2 ^ 256], let s := sHead (cmdAt 3 k 433 6) [(4096, 48, img)];
        headIn s 0x03 433 (cmdAt 3 k 433 6) = true ∧ recIn s (cmdAt 3 k 433 6 / 2 ^ 433 % 2 ^ 26 * 64) 1024 img = true) ∧
      headIn (sHead (4 * 2 ^ 504 + k * 2 ^ 459) []) 0x04 395 (4 * 2 ^ 504 + k * 2 ^ 459) = true ∧
      (∀ e ∈ [2 ^ 124, 2 ^ 124 + 1], let s := sHead (cmdAt 5 k 427 4) [(4096, 16, e)];
        headIn s 0x05 427 (cmdAt 5 k 427 4) = true ∧ recIn s (cmdAt 5 k 427 4 / 2 ^ 427 % 2 ^ 28 * 16) 16 e = true ∧ hwinBad e = decide (e % 2 = 1)) ∧
      (∀ e ∈ [2 ^ 124, 3 * 2 ^ 124], let s := sHead (cmdAt 6 0 430 4) [(4096, 16, e)];
        headIn s 0x06 430 (cmdAt 6 0 430 4) = true ∧ recIn s (cmdAt 6 0 430 4 / 2 ^ 430 % 2 ^ 28 * 16) 16 e = true ∧ s.exportBad e = decide (2 ^ 125 < e)) ∧
      (let w := 8 * 2 ^ 504 + 191 * 2 ^ 456 + 64 * 2 ^ 430 + k * 2 ^ 425;
        headIn (sHead w []) 0x08 425 w = true ∧ (sHead w []).physOk (w / 2 ^ 430 % 2 ^ 26 * 64) 64 = true ∧ (sHead w []).hodFull 191 16 = false) := by decide +kernel
  intro k hk
  obtain ⟨h1, h2, h3, h4, h5, h6, h7, h8⟩ := h k hk
  exact ⟨atHead_of h1, fun e he => ⟨atHead_of (h2 e he).1, imageAt_of (h2 e he).2⟩, atHead_of h3,
    fun e he => ⟨atHead_of (h4 e he).1, imageAt_of (h4 e he).2.1, (h4 e he).2.2⟩,
    fun e he => ⟨atHead_of (h5 e he).1, imageAt_of (h5 e he).2.1, (h5 e he).2.2⟩, atHead_of h6, h7, h8⟩

/-- The tables of the SEG_COMMITs above, judged. -/
theorem hyps_SegCommitTables : ∀ e ∈ [((2 ^ 124 + 2 ^ 120 : Nat), (none : Option Nat)), (2 ^ 256, some 2)],
    (sHead 0 []).firstBad ((List.range 64).map fun i => e.1 / 2 ^ (128 * i) % 2 ^ 128) = e.2 := by decide +kernel

/-- ROUTE_SET with a table of which only the header and the first entry are not 0: accepted, and with a port that is not there. -/
theorem hyps_RouteSet : ∀ e ∈ [2 ^ 15, 2 ^ 15 + 12 * 2 ^ 11], let s := sHead (cmdAt 7 0 438 6) [(4096, 66, 5 + e * 2 ^ 512)];
    AtHead s 0x07 438 (cmdAt 7 0 438 6) ∧ s.physOk 4096 16448 = true ∧ cmdAt 7 0 438 6 / 2 ^ 438 % 2 ^ 26 * 64 = 4096 ∧ memRead s.mem.bytes 4096 66 = 5 + e * 2 ^ 512 ∧
    s.fab.devid ≠ 5 ∧ s.fabricBusy = false := by
  have h : ∀ e ∈ [2 ^ 15, 2 ^ 15 + 12 * 2 ^ 11], let s := sHead (cmdAt 7 0 438 6) [(4096, 66, 5 + e * 2 ^ 512)];
      headIn s 0x07 438 (cmdAt 7 0 438 6) = true ∧ s.physOk 4096 16448 = true ∧ cmdAt 7 0 438 6 / 2 ^ 438 % 2 ^ 26 * 64 = 4096 ∧ memRead s.mem.bytes 4096 66 = 5 + e * 2 ^ 512 ∧
      s.fab.devid ≠ 5 ∧ s.fabricBusy = false := by decide +kernel
  exact fun e he => ⟨atHead_of (h e he).1, (h e he).2⟩

/-- RESUME and KILL: handle 1 of context 1 names a parked warp of a running team, or of a saved one; handle 0 names nothing. -/
def sWork (w : Nat) (st : TeamStatus) : State :=
  let v : Warp := { w0 with status := .parked, park := some (17, 0, 0, 64, fullMask 32) }
  let s := (((sHead w []).setTeam 0 (some (tm0 st))).setWarp 0 (some v)).setLaunch 3 (some (ln0 kernelImage))
  s.setCtx 1 { s.ctx 1 with dir := [(0, { serial := 1, work := .warp 0 0 })] }
def workCmd (code h : Nat) : Nat := code * 2 ^ 504 + 2 ^ 459 + h * 2 ^ 427
/-- What the tests check of it. -/
def workIn (s : State) (st : TeamStatus) (h : Nat) : Bool :=
  decide ((s.ctx 1).liveWork h = if h = 1 then some (.warp 0 0) else none) && s.workSaved (.warp 0 0) == (st == .saved) && decide (s.warpKey 0 0 = some 0) &&
    decide (s.team 0 = some (tm0 st)) && decide (s.launch 3 = some (ln0 kernelImage)) &&
    decide ((s.warp 0).map (·.status) = some .parked ∧ (s.warp 0).map (·.park.isSome) = some true) && swf none s.teams && swf none s.warps &&
    swf none s.launches && swf {} s.ctxs && swf {} (s.ctx 1).dir
theorem hyps_WorkCommands : ∀ st ∈ [TeamStatus.started, .saved], ∀ h ∈ [0, 1], workIn (sWork (workCmd 13 h) st) st h = true ∧
    AtHead (sWork (workCmd 13 h) st) 0x0d 426 (workCmd 13 h) ∧ AtHead (sWork (workCmd 14 h) st) 0x0e 427 (workCmd 14 h) := by
  have k : ∀ st ∈ [TeamStatus.started, .saved], ∀ h ∈ [0, 1], workIn (sWork (workCmd 13 h) st) st h = true ∧
      headIn (sWork (workCmd 13 h) st) 0x0d 426 (workCmd 13 h) = true ∧ headIn (sWork (workCmd 14 h) st) 0x0e 427 (workCmd 14 h) = true := by decide +kernel
  exact fun st hs h hh => ⟨(k st hs h hh).1, atHead_of (k st hs h hh).2.1, atHead_of (k st hs h hh).2.2⟩

/-- The commands on rings, pipelines and the platform at the head of the queue, each with its lowest operand bit used as listed. -/
theorem hyps_PlatformCommandHeads : ∀ e ∈ [(9, 432, 9 * 2 ^ 504 + 15 * 2 ^ 460 + 256 * 2 ^ 432), (10, 431, 10 * 2 ^ 504 + 3 * 2 ^ 462 + 64 * 2 ^ 436 + 2 ^ 431), (11, 462, 11 * 2 ^ 504 + 3 * 2 ^ 462),
      (12, 462, 12 * 2 ^ 504 + 3 * 2 ^ 462), (15, 246, 15 * 2 ^ 504 + (2 ^ 16 + 1) * 2 ^ 272 + 64 * 2 ^ 246), (16, 463, 16 * 2 ^ 504 + 2 ^ 463), (17, 435, 17 * 2 ^ 504),
      (17, 435, 17 * 2 ^ 504 + 2 ^ 461), (18, 457, 18 * 2 ^ 504 + 3 * 2 ^ 462 + 2 * 2 ^ 460 + 4 * 2 ^ 457), (18, 457, 18 * 2 ^ 504 + 5 * 2 ^ 457), (19, 308, 19 * 2 ^ 504 + 15 * 2 ^ 436),
      (20, 438, 20 * 2 ^ 504 + 64 * 2 ^ 438)], AtHead (sHead e.2.2 []) e.1 e.2.1 e.2.2 := by
  have h : ∀ e ∈ [(9, 432, 9 * 2 ^ 504 + 15 * 2 ^ 460 + 256 * 2 ^ 432), (10, 431, 10 * 2 ^ 504 + 3 * 2 ^ 462 + 64 * 2 ^ 436 + 2 ^ 431), (11, 462, 11 * 2 ^ 504 + 3 * 2 ^ 462),
      (12, 462, 12 * 2 ^ 504 + 3 * 2 ^ 462), (15, 246, 15 * 2 ^ 504 + (2 ^ 16 + 1) * 2 ^ 272 + 64 * 2 ^ 246), (16, 463, 16 * 2 ^ 504 + 2 ^ 463), (17, 435, 17 * 2 ^ 504),
      (17, 435, 17 * 2 ^ 504 + 2 ^ 461), (18, 457, 18 * 2 ^ 504 + 3 * 2 ^ 462 + 2 * 2 ^ 460 + 4 * 2 ^ 457), (18, 457, 18 * 2 ^ 504 + 5 * 2 ^ 457), (19, 308, 19 * 2 ^ 504 + 15 * 2 ^ 436),
      (20, 438, 20 * 2 ^ 504 + 64 * 2 ^ 438)], headIn (sHead e.2.2 []) e.1 e.2.1 e.2.2 = true := by decide +kernel
  exact fun e he => atHead_of (h e he)

/-- A pipeline's record that an enabling accepts: one line of 16 pixels, its template at address 4,096, and the record of the template's one node. -/
def goodPipe : Nat := 15 * 2 ^ 1010 + 2048 * 2 ^ 837 + 100 * 2 ^ 817 + 4096 * 2 ^ 616 + 2 ^ 536
def chainNode (rsv : Nat) : Nat := 2 ^ 508 + 90 * 2 ^ 442 + 2 ^ 356 + rsv * 2 ^ 308
def sEnable (budget : Nat) (p : Pipe) : State :=
  let s := sHead (11 * 2 ^ 504 + 3 * 2 ^ 462) [(4096, 64, chainNode 1 + budget * 2 ^ 442)]
  { s.setCtx 1 { s.ctx 1 with phys := true } with pipes := if p = {} then [] else [(3, p)] }
/-- PIPE_ENABLE: a record not set, set, and enabled; a budget that the window holds, and one that it does not. -/
theorem hyps_PipeEnable : (∀ b ∈ [0, 5], let p : Pipe := { image := goodPipe, ctx := 1, set := true };
      let s := sEnable b p;
      headIn s 0x0b 462 (11 * 2 ^ 504 + 3 * 2 ^ 462) = true ∧ s.pipe 3 = p ∧ pipeRecBad goodPipe = false ∧ s.pipeRingsBad goodPipe = false ∧ pUps goodPipe = false ∧
      (templateFrom 1 (pChain goodPipe) 8 0 [] (s.devRead s.ptr.cqAddr 64).2).1 = some [chainNode 1 + b * 2 ^ 442] ∧ s.ptr.begun = false ∧ s.teams = [] ∧ nBudget (chainNode 1 + b * 2 ^ 442) = 90 + b ∧ pWin goodPipe = 100 ∧
      s.rsvUnion &&& nRsv (chainNode 1) = 0) ∧
    (∀ p ∈ [({} : Pipe), { image := goodPipe, ctx := 1, set := true, en := true }, { image := 1, set := true }], (sEnable 0 p).pipe 3 = p ∧ swf {} (sEnable 0 p).pipes = true) ∧
    pipeRecBad 1 = true := by decide +kernel

/-- A swap in progress that is over, and one whose team is still to be saved; a margin search that is new and one that is over; RING_SET of a
ring that a pipeline names; the nonce of an attestation. -/
theorem hyps_PlatformCommandStates : (let s : State := { sTeam { tm0 .started with preempt := 1 } w0 (ln0 0) with swap := some (1, []) };
      s.swap = some (1, []) ∧ s.swapOver 1 [] = false ∧ s.swapOver 2 [] = true) ∧
    (let s : State := { s0 with margins := [(1, some { rail := 1, isOver := true })] };
      sget none s.margins 0 = none ∧ sget none s.margins 1 = some { rail := 1, isOver := true } ∧ s.ptr.cqhead = 0) ∧
    (let s : State := { s0 with pipes := [(0, { en := true, image := 2 ^ 809 })] };
      s.ringNamed 0 = true ∧ s.ringNamed 15 = false) ∧
    recIn (sHead 0 [(4096, 64, 7)]) 4096 64 7 = true ∧ (sHead 0 []).physOk 4096 340 = true ∧ (sHead 0 []).ptr.jen = false ∧
    recIn (sHead 0 [(4096, 16, 7)]) 4096 16 7 = true ∧ recIn (sHead 0 [(4096, 128, goodPipe)]) 4096 128 goodPipe = true ∧ recIn (sHead 0 []) 4096 4 0 = true ∧
    (∀ k, k < 192 → bitN (2 ^ 16 + 1) k = bitN (2 ^ 16 + 1) (partner k)) ∧ (sHead 0 []).teams = [] := by decide +kernel

/-! ### Lane faults, and the machine as a whole -/

/-- Every second lane's address is off by two: lanes 1, 3 and so on fault; with one lane active, all. -/
def wBad (off : Nat) : Warp := { wA' with v := (List.range 32).filterMap fun l => let a := 4 * l + (if off = 0 ∨ l % 2 = 1 then 2 else 0)
                                                                               if a = 0 then none else some (2 * 128 + l, ⟨BitVec.ofNat 32 a, false⟩) }
theorem hyps_LaneFaultsMakeAFragment : (∀ off ∈ [0, 1], let w := wBad off;
      let s := machine w;
      let c := seen true s 0 64 0#32 w;
      let bad := (lanesOf c.act).filter fun l => laneVa c 2 0 2 l % 2 ^ 2 != 0;
      issuesIn s w = true ∧ bad ≠ [] ∧ (bad == lanesOf c.act) = (off == 0) ∧ c.p.kind = .path ∧ (∀ l ∈ lanesOf c.act, (c.addr 2 l).2 = false) ∧
      (∀ l ∈ lanesOf c.act, l ∉ bad → reaches s (laneVa c 2 0 2 l) 4 needR (4 * l) = true) ∧ s.mayTake 0 2 = true ∧ s.freeEntries 0 2 = [0, 1]) := by decide +kernel

/-- What a step leaves, as a test of the state. -/
def after (o : Host.Outcome State Fault Refusal) (p : State → Bool) : Bool := match o with
  | .next t => p t
  | _ => false

/-- The machine about to issue a NOP, and an ADD.W with a literal. -/
def sStep (w : Nat) : State := State.reset.withFetchWord 32 w
theorem hyps_StepRunsTheDecodedInstruction : ∀ e ∈ [(0, Instr.nop), (0x40040e40, .addW 0 1 1 100)], (sStep e.1).agenda = [.issue 0] ∧
    (let s : State := { sStep e.1 with agenda := [] };
      s.issuable 0 = true ∧ s.boundary 0 = none ∧ s.choosePath 0 = some 64 ∧ reaches s 0 4 needX 0 = true ∧ reaches s 4 4 needX 4 = true ∧
      s.mem.poisoned (granOf 0) = false ∧ sget false s.mem.ueLat (granOf 0) = false ∧ decodeTableWord 32 (memRead s.mem.bytes 0 4) = some e.2 ∧
      e.2.literal = (e.1 != 0) ∧ s.mayIssue 0 64 e.2 = true ∧ s.heldBack 0 64 e.2 = false ∧ s.queueWait 0 64 e.2 = false) := by decide +kernel
/-- An instruction that fits its reservations, and a load that finds its bank's slot taken; one whose register is not readable yet, one that
17 R452 holds back, and one that waits for its queue. -/
def sLoad (cal : Sparse Nat) : State := { machine { w0 with v := [] } with cal := cal, cur := some ⟨0, 64, 0#32⟩ }
theorem hyps_StepOutcomes : (∀ e ∈ [([], true), ([(calKey 4 4096, 1)], false)], let s := sLoad e.1;
      after (exec (.ld 5 64 0 2) (s.issueState 0 64 (.ld 5 64 0 2) 0#32)) (fun t => s.fits t 0 == e.2) = true) ∧
    (machine { w0 with pend := [pendOf 1 (.hldr 4)] }).mayIssue 0 64 (.addW 0 2 1 1) = false ∧
    (sHod 8).queueWait 0 64 (.hcopy 64 64) = true ∧ (sHod 8).mayIssue 0 64 (.hcopy 64 64) = true ∧ (sHod 8).heldBack 0 64 (.hcopy 64 64) = false ∧
    (let s : State := { s1 with clusters := [(0, { recent := [(0, 2 ^ 30)] })] }; s.heldBack 0 64 (.fma 0 2 1 1) = true ∧ s.mayIssue 0 64 (.fma 0 2 1 1) = true) := by decide +kernel

theorem hyps_EncodeAndDecodeAgree : (Instr.addW 0 1 1 2).wellFormed = true ∧ encode (.addW 0 1 1 2) = some 0x40040820 ∧
    decodeTableWord 32 0x40040820 = some (.addW 0 1 1 2) := by decide +kernel

/-- The machine after reset meets the hypotheses on every step's tables and memory, and steps. -/
theorem hyps_EveryStepKeepsTheTables : TablesInForm State.reset where
  marks := by decide +kernel
  counters := by decide +kernel
  monitors := by decide +kernel
  traffic := by decide +kernel
  bursts := by decide +kernel
  warps := by decide +kernel
  teams := by decide +kernel
  contexts := by decide +kernel
  strips := by decide +kernel
  engines := by decide +kernel
  platform := by decide +kernel
  inWarps k w h := by cases h
  inTeams k w h := by cases h
  inContexts k := ⟨rfl, rfl⟩
  inHods k := ⟨rfl, rfl⟩
  inChannels k := ⟨rfl, rfl⟩
  inAshlars k := ⟨rfl, rfl, rfl, rfl⟩
  inPipes k := rfl
  inWalkers k w h := by cases h
  inClusters k := rfl

/-- Whether a step answers a next state. -/
def goes (s : State) : Bool := match step s with
  | .next _ => true
  | _ => false
theorem goes_of {s : State} (h : goes s = true) : ∃ t, step s = .next t := by
  unfold goes at h
  split at h
  · exact ⟨_, by assumption⟩
  · cases h

theorem hyps_EveryStepKeepsTheMemoryForm : Memory.wf State.reset.mem.bytes = true ∧ (∃ t, step (sStep 0) = .next t) ∧
    ∃ t, step { State.reset with agenda := [.tick 1] } = .next t :=
  ⟨by decide +kernel, goes_of (by decide +kernel), goes_of (by decide +kernel)⟩

/-- What is left once everything in flight has been served and written back. -/
def settled (t : State) (p : State → Bool) : Bool := after (execMemoryWriteback 0 (t.advance 100)) p

/-! ### The spec's worked examples, one step each -/

/-- The first word of the prefix-sum listing of chapter 8, through fetch and decode: MOV v1, %laneid. -/
theorem test_step_mov_laneid : after (step (sStep 0x4c07280d)) (fun t => (t.warp 0).any fun w =>
    w.root.pc == 4#32 && [0, 5, 31].all fun l => w.vAt 1 l == ⟨BitVec.ofNat 32 l, false⟩) = true := by decide +kernel

/-- Its ADD.W v1, v1, v2 with 7 and 2^32 - 3 wraps to 4. -/
theorem test_addW_wraps : after (exec (.addW 0 1 1 2) (machine { w0 with v := [(1 * 128 + 5, ⟨7#32, false⟩), (2 * 128 + 5, ⟨0xfffffffd#32, false⟩)] }))
    (fun t => (t.warp 0).any fun w => w.vAt 1 5 == ⟨4#32, false⟩ && w.vAt 2 5 == ⟨0xfffffffd#32, false⟩) = true := by decide +kernel

/-- 07, worked listing: MUL v6, y1, v4 is 5.0 * 3.0 = 15.0, and shifts the latches: y1 = 15.0, y2 = 5.0. -/
theorem test_mul_listing : (let w : Warp := { w1 with v := [(4 * 128, ⟨0x40400000#32, false⟩)], y := [(0, ⟨0x40a00000#32, false⟩)], yv := 1 };
    after (exec (.mul 0 6 96 4) (machine { w with v := (List.range 32).map fun l => (4 * 128 + l, ⟨0x40400000#32, false⟩) })) fun t => (t.warp 0).any fun w =>
      w.vAt 6 0 == ⟨0x41700000#32, false⟩ && w.yAt 0 0 == ⟨0x41700000#32, false⟩ && w.yAt 1 0 == ⟨0x40a00000#32, false⟩ && w.yv == 3) = true := by decide +kernel

/-- 01 R24, worked example: va 0x4000_1234 in an entry over 16 slices. -/
theorem test_interleaved_translation : ({ seg := [(32, 0x2740000003ffff208400000000000000 % 2 ^ 128)] } : Context).xlateS 0x40001234 needR = .ok 0x22200134 := by rfl

/-- 05 R136, worked phase: BINIT with 4, then ANNOUNCE of 1,024 bytes. -/
theorem test_binit : after (exec (.binit 64 100) { machine w0 with cur := some ⟨0, 64, 4#32⟩ }) (fun t => settled t fun t => memRead t.mem.bytes 0 16 == 0x40040040) = true := by decide +kernel
theorem test_announce : after (exec (.announceIn 64 100) { holding 16 0x40040040 with cur := some ⟨0, 64, 1024#32⟩ })
    (fun t => settled t fun t => memRead t.mem.bytes 0 16 == 0x40040040040) = true := by decide +kernel
/-- Its later rows: the last decrement, the last arrival, and the fifth unit's overrun. -/
theorem test_barrier_rows : ((Bar.ofImage 0x10040040010).step (.decIn 256 false)).image = 0x40040010 ∧
    ((Bar.ofImage 0x40040010).step .arriveFinal).image = 0x40040041 ∧ ((Bar.ofImage 0x40040041).step (.decIn 256 false)).image = 0x50040041 := by decide +kernel

/-- 11 R289, worked ring: rows 1, 4 and 11, by reserve, take, and a reserve that finds slot 1 taken. -/
theorem test_ring_rows : after (exec (.rpushRsv 64 64) (holding 32 0x80004)) (fun t => settled t fun t => memRead t.mem.bytes 0 16 == 0x100080004 + 2 ^ 64) = true ∧
    after (exec (.rpopTake 64 64) (holding 32 (0x600080004 + 2 * 2 ^ 64))) (fun t => settled t fun t => memRead t.mem.bytes 0 16 == 0x700080004 + 2 * 2 ^ 64 + 2 ^ 96) = true ∧
    after (exec (.rpushRsv 64 64) (holding 32 (0x5d00080004 + 5 * 2 ^ 64 + 2 * 2 ^ 96))) (fun t => settled t fun t =>
      (t.warp 0).any (fun w => w.sAt 0 == ⟨0xffffffff#32, false⟩) && memRead t.mem.bytes 0 16 == 0x5d00080004 + 5 * 2 ^ 64 + 2 * 2 ^ 96) = true := by decide +kernel

/-- 05 R145, worked sum: lanes 0 to 3 add 1.0 and three times 2^-24 at one word; the word ends at 1.0, lane 0 returns 0 and lane 3 1.0. -/
theorem test_fadd_order : (let w : Warp := { warpIn 0#16 with p := [(0, 15#96)], v := [(4 * 128, ⟨0x3f800000#32, false⟩), (4 * 128 + 1, ⟨0x33800000#32, false⟩),
      (4 * 128 + 2, ⟨0x33800000#32, false⟩), (4 * 128 + 3, ⟨0x33800000#32, false⟩)] };
    after (exec (.atomDv 5 64 4 10) (machine w)) fun t => settled t fun t => memRead t.mem.bytes 0 4 == 0x3f800000 && (t.warp 0).any fun w =>
      w.vAt 5 0 == {} && w.vAt 5 3 == ⟨0x3f800000#32, false⟩) = true := by decide +kernel

/-- 09, worked roundings to E4M3: 300 under every mode; 500 and -500 with and without `NSAT`. -/
theorem test_e4m3_table : (∀ rm ∈ [0, 1, 2, 4], (roundFp fE4M3 { rm := rm } 0 (ofIntFV 300)).1 = 0x79) ∧ (roundFp fE4M3 { rm := 3 } 0 (ofIntFV 300)).1 = 0x7a ∧
    (roundFp fE4M3 { rm := 0 } 0 (ofIntFV 500)).1 = 0x7f ∧ (roundFp fE4M3 { rm := 0, nsat := true } 0 (ofIntFV 500)).1 = 0x7e ∧
    (roundFp fE4M3 { rm := 1 } 0 (ofIntFV 500)).1 = 0x7e ∧ (roundFp fE4M3 { rm := 2, nsat := true } 0 (ofIntFV (-500))).1 = 0xfe ∧
    (roundFp fE4M3 { rm := 3 } 0 (ofIntFV (-500))).1 = 0xfe := by decide +kernel

/-- 09 R240, worked block: 1.0, -3.0, 12.0 and 0.1 to MXFP4: scale 0x80, elements 1, 0xb, 7, 0. -/
theorem test_mxfp4_block : (mxQuant 10 {} ([0x3f800000, 0xc0400000, 0x41400000, 0x3dcccccd].map fp32.decode)).1 = 0x80 ∧
    (mxQuant 10 {} ([0x3f800000, 0xc0400000, 0x41400000, 0x3dcccccd].map fp32.decode)).2.1 = [1, 0xb, 7, 0] := by decide +kernel

/-- FIPS 180-4, its example of one block: the SHA-512 digest of "abc" (00 R2). -/
theorem test_sha512 : beOf (sha512 [97, 98, 99]) =
    0xddaf35a193617abacc417349ae20413112e6fa4e89a97ea20a9eeee64b55d39a2192992a274fc1a836ba3c23a3feebbd454d4423643ce80e2a9ac94fa54ca49f := by decide +kernel
/-- RFC 6979, A.2.7: the P-521 signature of "sample" under its private key, with the secret number it gives for SHA-512. -/
theorem test_p521_signature : signature
    0x0fad06daa62ba3b25d2fb40133da757205de67f5bb0018fee8c86e1b68c7e75caa896eb32f1f47c70855836a6d16fcc1466f6d8fbec67db89ec0c08b0e996b83538
    0x1dae2ea071f8110dc26882d4d5eae0621a3256fc8847fb9022e2b7d28e6f10198b1574fdd03a9053c08a1854a168aa5a57470ec97dd5ce090124ef52a2f7ecbffd3
    [0x73, 0x61, 0x6d, 0x70, 0x6c, 0x65] =
    beBytes 0x0c328fafcbd79dd77850370c46325d987cb525569fb63c5d3bc53950e6d4c5f174e25a1ee9017b5d450606add152b534931d7d4e8455cc91f9b15bf05ec36e377fa 66 ++
    beBytes 0x0617cce7cf5064806c467f678d3b4080d6f1cc50af26ca209417308281b68af282623eaa63e5b5c0723d8b8c37ff0777b1a20f8ccb1dccc43997f1ee0e44da4a67a 66 := by decide +kernel
end Sys2Proof.Tests
end

section
/-! SUPPORT. Three layers that the steps on objects rest on: bytes read after they are written, reads of sound bank words, and a
warp's path followed through the updates of an instruction. -/
namespace Sys2Proof.Machine
open Sys2Proof.Says

/-! ### Bytes read after they are written -/

/-- A read of the bytes just written delivers the low bytes of the number. -/
theorem memRead_memWrite_same {b : Memory} {a n x : Nat} (h : Memory.wf b = true) : memRead (memWrite b a n x) a n = x % 256 ^ n := by
  induction n generalizing b a x with
  | zero => simp [memRead, Nat.mod_one]
  | succ n ih =>
    have hbyte : memByte (memWrite (memSet b a (BitVec.ofNat 8 (x % 256))) (a + 1) n (x / 256)) a = BitVec.ofNat 8 (x % 256) := by
      rw [memByte_memWrite_outside (memSet_wf h) (by omega), memByte_memSet_same h]
    simp only [memRead, memWrite, hbyte, ih (memSet_wf h), BitVec.toNat_ofNat]
    rw [Nat.mod_eq_of_lt (show x % 256 < 2 ^ 8 by omega), Nat.pow_succ', Nat.mod_mul]

/-! ### Reads of sound bank words (02 R42) -/

/-- The check of a bank word without a latent uncorrectable error finds none. -/
theorem Sram.check_marks {m : Sram} {g : Nat} (h : sget false m.ueLat g = false) :
    (m.check g).psn = m.psn ∧ (m.check g).ueLat = m.ueLat := by
  unfold Sram.check
  cases sget false m.ceLat g <;> simp [h, Sram.updCtr]

@[simp] theorem Sram.check_cairn (m : Sram) (g : Nat) : (m.check g).cairn = m.cairn := by
  unfold Sram.check
  cases sget false m.ceLat g <;> simp only [if_true, Bool.false_eq_true, if_false] <;> split <;> rfl

@[simp] theorem Sram.readGran_cairn (m : Sram) (g : Nat) : (m.readGran g).2.cairn = m.cairn := by
  unfold Sram.readGran
  simp only
  (repeat' split) <;> exact Sram.check_cairn m g

/-- A read of a bank word without poison or latent error delivers no poison, and marks none. -/
theorem Sram.readGran_sound {m : Sram} {g : Nat} (hp : m.poisoned g = false) (hu : sget false m.ueLat g = false) :
    (m.readGran g).1 = false ∧ (m.readGran g).2.psn = m.psn ∧ (m.readGran g).2.ueLat = m.ueLat := by
  obtain ⟨h1, h2⟩ := Sram.check_marks hu
  have hq : (m.check g).poisoned g = false := by rw [Sram.poisoned, h1]; exact hp
  simp [Sram.readGran, hq, h1, h2]

/-- A read of a span wakes and registers no waiter. -/
@[simp] theorem Sram.readSpan_cairn (m : Sram) (pa n : Nat) : (m.readSpan pa n).2.2.cairn = m.cairn := by
  have key : ∀ (l : List Nat) (b : Bool) (m : Sram),
      (l.foldl (fun (acc : Bool × Sram) g => (acc.1 || (acc.2.readGran g).1, (acc.2.readGran g).2)) (b, m)).2.cairn = m.cairn := by
    intro l
    induction l with
    | nil => intro b m; rfl
    | cons g t ih => intro b m; rw [List.foldl_cons, ih, Sram.readGran_cairn]
  exact key _ _ _

/-- A read of a sound span delivers no poison. -/
theorem Sram.readSpan_sound {s : State} {pa n : Nat} (h : Sound s pa n) : (s.mem.readSpan pa n).2.1 = false := by
  have key : ∀ (l : List Nat) (m : Sram), (∀ g ∈ l, m.poisoned g = false ∧ sget false m.ueLat g = false) →
      (l.foldl (fun (acc : Bool × Sram) g => (acc.1 || (acc.2.readGran g).1, (acc.2.readGran g).2)) (false, m)).1 = false := by
    intro l
    induction l with
    | nil => intro m _; rfl
    | cons g t ih =>
      intro m hl
      obtain ⟨hp, hu⟩ := hl g (by simp)
      obtain ⟨h1, h2, h3⟩ := Sram.readGran_sound hp hu
      rw [List.foldl_cons, h1, Bool.or_false]
      refine ih _ fun x hx => ?_
      rw [Sram.poisoned, h2, h3]
      exact hl x (by simp [hx])
  refine key _ _ fun g hg => ?_
  obtain ⟨i, hi, rfl⟩ := List.mem_map.mp hg
  have := List.mem_range.mp hi
  exact h _ (by omega) (by omega)

/-! ### A warp's path through the updates of an instruction -/

/-- From `b` to `t` nothing has changed but the warp in slot `key`, which is `W` but for its root record, and its path `nid`, which is `n`. -/
structure PathOf (b t : State) (key nid : Nat) (W : Warp) (n : Node) : Prop where
  elsewhere : Elsewhere b t key nid
  warps : swf none t.warps = true
  belay : swf {} t.belay = true
  node : t.node key nid = n
  warp : ∃ r : Node, (nid ≠ 64 → r = W.root) ∧ t.warp key = some (W.withRoot r)

variable {b t : State} {key nid : Nat} {lit : Word} {W : Warp} {n : Node}

/-- A warp and its path before anything has changed. -/
theorem PathOf.refl {s : State} {w : Warp} (hw : s.warp key = some w) (h1 : swf none s.warps = true) (h2 : swf {} s.belay = true) :
    PathOf s s key nid w (s.node key nid) :=
  ⟨⟨rfl, fun _ _ => rfl, fun _ _ => rfl⟩, h1, h2, rfl, w.root, fun _ => rfl, hw⟩

/-- A path that issues, once its warp is entered (07 R188). -/
theorem PathOf.entered {s : State} {w : Warp} (h : Issues s key nid lit w) :
    PathOf s (s.setWarp key (some (entered w nid))) key nid (entered w nid) (s.node key nid) :=
  ⟨⟨rfl, fun _ hk => State.warp_setWarp_other h.warps hk, fun _ _ => rfl⟩, State.setWarp_wf h.warps, h.belay, node_entered h,
    (Says.entered w nid).root, fun _ => rfl, State.warp_setWarp_same h.warps⟩

/-- Changing the warp, by what does not look at its root record. -/
theorem PathOf.updWarp (h : PathOf b t key nid W n) {g : Warp → Warp} (hg : ∀ r, g (W.withRoot r) = (g W).withRoot r) :
    PathOf b (t.updWarp key g) key nid (g W) n := by
  obtain ⟨r, hr, hw⟩ := h.warp
  have hroot : (g W).root = W.root := (congrArg Warp.root (hg W.root)).trans rfl
  have hnew := State.warp_setWarp_same (key := key) (x := some ((g W).withRoot r)) h.warps
  rw [State.updWarp_of hw, hg]
  refine ⟨⟨?_, fun k hk => ?_, h.elsewhere.nodes⟩, State.setWarp_wf h.warps, h.belay, ?_, r, fun hn => (hr hn).trans hroot.symm, hnew⟩
  · rw [h.elsewhere.rest]; rfl
  · rw [State.warp_setWarp_other h.warps hk]; exact h.elsewhere.slots k hk
  · have hn := h.node
    unfold State.node at hn ⊢
    rw [hnew]
    rw [hw] at hn
    exact hn

/-- Changing the path. -/
theorem PathOf.updNode (h : PathOf b t key nid W n) (f : Node → Node) : PathOf b (t.updNode key nid f) key nid W (f n) := by
  obtain ⟨r, hr, hw⟩ := h.warp
  unfold State.updNode State.setNode
  rw [h.node]
  by_cases hn : nid = 64
  · subst hn
    have hnew := State.warp_setWarp_same (key := key) (x := some ((W.withRoot r).withRoot (f n))) h.warps
    simp only [if_true, hw]
    refine ⟨⟨?_, fun k hk => ?_, h.elsewhere.nodes⟩, State.setWarp_wf h.warps, h.belay, ?_, f n, fun hh => absurd rfl hh, hnew⟩
    · rw [h.elsewhere.rest]; rfl
    · rw [State.warp_setWarp_other h.warps hk]; exact h.elsewhere.slots k hk
    · simp only [State.node, if_true, hnew]; rfl
  · simp only [hn, if_false]
    refine ⟨⟨?_, h.elsewhere.slots, fun e he => ?_⟩, h.warps, swf_sput h.belay, ?_, r, hr, hw⟩
    · rw [h.elsewhere.rest]
    · exact (sget_sput_other h.belay (he.resolve_left hn)).trans (h.elsewhere.nodes e he)
    · simp only [State.node, hn, if_false]; exact sget_sput_same h.belay

/-- Reaching memory: the SRAM, what is in flight to it and the calendars change. -/
theorem PathOf.reaching {t' : State} (h : PathOf b t key nid W n) (e : t' = reached t t') : PathOf (reached b t') t' key nid W n := by
  have hw : t'.warps = t.warps := by rw [e]; rfl
  have hb : t'.belay = t.belay := by rw [e]; rfl
  have hwarp : t'.warp = t.warp := by unfold State.warp; rw [hw]
  have hnode : t'.node = t.node := by unfold State.node; rw [hwarp, hb]
  refine ⟨⟨?_, fun k hk => ?_, fun x hx => ?_⟩, hw ▸ h.warps, hb ▸ h.belay, hnode ▸ h.node, hwarp ▸ h.warp⟩
  · rw [hw, hb]
    conv => lhs; rw [e, h.elsewhere.rest]
    rfl
  · rw [hwarp]; exact h.elsewhere.slots k hk
  · rw [hb]; exact h.elsewhere.nodes x hx

/-- The SRAM, what is in flight and the calendars are those of the base. -/
theorem PathOf.reached_eq {s : State} (h : PathOf (reached s b) t key nid W n) : reached s t = reached s b := by
  have hm : t.mem = b.mem := by rw [h.elsewhere.rest]; rfl
  have hf : t.flights = b.flights := by rw [h.elsewhere.rest]; rfl
  have hc : t.cal = b.cal := by rw [h.elsewhere.rest]; rfl
  have hs : t.slotsHeld = b.slotsHeld := by rw [h.elsewhere.rest]; rfl
  simp only [reached, hm, hf, hc, hs]

/-- Setting the clk. -/
theorem PathOf.atClk (h : PathOf b t key nid W n) (k : Nat) : PathOf { b with clk := k } { t with clk := k } key nid W n :=
  ⟨⟨by rw [h.elsewhere.rest], h.elsewhere.slots, h.elsewhere.nodes⟩, h.warps, h.belay, h.node, h.warp⟩

/-- Whether the warp is parked is read off what is followed. -/
theorem PathOf.park (h : PathOf b t key nid W n) {u : Warp} (hu : t.warp key = some u) : u.park = W.park := by
  obtain ⟨r, -, hw⟩ := h.warp
  rw [hw] at hu
  rw [← Option.some.inj hu]; rfl

/-- Completing looks at no root record. -/
theorem Warp.completed_withRoot (W : Warp) (done : LaneMask) (axf : Nat) (lt : LatchFx) (r : Node) :
    (W.withRoot r).completed done axf lt = (W.completed done axf lt).withRoot r := by cases lt <;> rfl

/-- An instruction that ends without a lane fault (09 R247). -/
theorem PathOf.finish {c : Ctx} (h : PathOf b t c.key c.nid W n) (npc : Word) (lt : LatchFx) :
    PathOf b (t.finish c npc lt) c.key c.nid (W.completed c.p.mask 0 lt) { n with pc := npc, since := t.clk } :=
  (h.updWarp (g := fun w => w.completed c.p.mask 0 lt) fun r => Warp.completed_withRoot W c.p.mask 0 lt r).updNode
    fun n => { n with pc := npc, since := t.clk }

/-- The latches become invalid (07 R188). -/
theorem PathOf.killY (h : PathOf b t key nid W n) : PathOf b (t.killY key) key nid { W with yv := 0 } n := h.updWarp fun _ => rfl

/-- The registers, flags and status of a warp are those of another, and so are its deadline, its spill window, its serial and arrival records, and
whether it is parked. -/
structure SameRegs (W u : Warp) : Prop where
  vregs : u.v = W.v
  sregs : u.s = W.s
  preds : u.p = W.p
  flags : u.axf = W.axf
  status : u.status = W.status
  deadline : u.deadline = W.deadline
  window : u.sb = W.sb
  serial : u.serial = W.serial
  arrive : u.arrive = W.arrive
  park : u.park = W.park

theorem SameRegs.trans {u v : Warp} (h : SameRegs W u) (k : SameRegs u v) : SameRegs W v :=
  ⟨k.vregs.trans h.vregs, k.sregs.trans h.sregs, k.preds.trans h.preds, k.flags.trans h.flags, k.status.trans h.status,
    k.deadline.trans h.deadline, k.window.trans h.window, k.serial.trans h.serial, k.arrive.trans h.arrive, k.park.trans h.park⟩

/-- The root record is no part of them. -/
theorem SameRegs.withRoot (W : Warp) (r : Node) : SameRegs W (W.withRoot r) := ⟨rfl, rfl, rfl, rfl, rfl, rfl, rfl, rfl, rfl, rfl⟩

/-- Nor is which latches are valid. -/
theorem SameRegs.killY (W : Warp) : SameRegs W { W with yv := 0 } := ⟨rfl, rfl, rfl, rfl, rfl, rfl, rfl, rfl, rfl, rfl⟩

/-- Entering a warp touches its latches alone (07 R188). -/
theorem SameRegs.entered (w : Warp) (nid : Nat) : SameRegs w (entered w nid) := by
  unfold Says.entered
  split <;> exact ⟨rfl, rfl, rfl, rfl, rfl, rfl, rfl, rfl, rfl, rfl⟩

/-- Completing without flags keeps the registers, where the latches are kept or become invalid. -/
theorem SameRegs.completed (W : Warp) (done : LaneMask) {lt : LatchFx} (hl : lt = .keep ∨ lt = .kill) : SameRegs W (W.completed done 0 lt) := by
  have h0 : (W.withCnt (countsAfter W.cnt done)).flagged 0 = W.withCnt (countsAfter W.cnt done) := flagged_zero _
  rcases hl with rfl | rfl <;> rw [Warp.completed, h0] <;> exact ⟨rfl, rfl, rfl, rfl, rfl, rfl, rfl, rfl, rfl, rfl⟩

/-- A memory instruction that issues counts its latency, and keeps the registers (02 R64). -/
theorem PathOf.noteAccess (h : PathOf b t key nid W n) (nbeats : Nat) (accs : List (Nat × Nat)) (first : Bool) :
    ∃ u, SameRegs W u ∧ PathOf (reached b (t.noteAccess key nbeats accs first)) (t.noteAccess key nbeats accs first) key nid u n := by
  have hu := h.updWarp (g := fun w => { w with
    lsum := if first then satAdd w.lsum (latencyL (coreOf key) nbeats accs) 64 else w.lsum
    nmem := if first then satAdd w.nmem 1 64 else w.nmem
    lmax := if first then min (max w.lmax (latencyL (coreOf key) nbeats accs)) 65535 else w.lmax
    inflight := (w.inflight.filter (fun x => decide (t.clk < x))) ++ [t.coreClk (coreOf key) (nbeats - 1 + latencyL (coreOf key) nbeats accs)] })
    fun _ => rfl
  refine ⟨_, ?_, hu.reaching (t' := t.noteAccess key nbeats accs first) rfl⟩
  exact ⟨rfl, rfl, rfl, rfl, rfl, rfl, rfl, rfl, rfl, rfl⟩

/-- An instruction that is in flight from now on (02 R48). -/
theorem PathOf.fly (h : PathOf (reached b t) t key nid W n) (u : Warp) (op : AccOp) (dst : FlightDst) (m : LaneMask) (nb L : Nat)
    (accs : List BankAcc) : PathOf (reached b (t.fly key u op dst m nb L accs)) (t.fly key u op dst m nb L accs) key nid W n :=
  h.reaching (t' := t.fly key u op dst m nb L accs) rfl

/-- Plain writes are remembered (02 R44; 04 R102). -/
theorem PathOf.notePlainWrites {c : Ctx} (h : PathOf (reached b t) t c.key nid W n) (accs : List BankAcc) :
    ∃ u, SameRegs W u ∧ PathOf (reached b (t.notePlainWrites c accs)) (t.notePlainWrites c accs) c.key nid u n := by
  have hm := h.reaching (t' := t.setMem (accs.foldl (fun (m : Sram) x => m.notePlain t.clk x.gran (warpAgent c.w) x.slot) t.mem)) rfl
  have hp := hm.updWarp (g := fun w => { w with lastPlain := max w.lastPlain (lastSlot accs) }) fun _ => rfl
  rw [← hp.reached_eq] at hp
  refine ⟨_, ?_, hp⟩
  exact ⟨rfl, rfl, rfl, rfl, rfl, rfl, rfl, rfl, rfl, rfl⟩

/-! ### Registers kept -/

/-- A warp with the same registers keeps what the other keeps. -/
theorem keptBut_congr {c : Ctx} {u : Warp} {ds ps : List Nat} (h : KeptBut c W ds ps) (e : SameRegs W u) : KeptBut c u ds ps where
  vregs pos l hl hk := by rw [Warp.vAt, e.vregs]; exact h.vregs pos l hl hk
  sregs i hi := by rw [Warp.sAt, e.sregs]; exact h.sregs i hi
  preds i hi := by rw [e.preds]; exact h.preds i hi
  flags := e.flags.trans h.flags
  status := e.status.trans h.status
  deadline := e.deadline.trans h.deadline
  window := e.window.trans h.window
  serial := e.serial.trans h.serial

/-- The warp that an instruction sees keeps all. -/
theorem keptBut_refl (c : Ctx) (ds ps : List Nat) : KeptBut c c.w ds ps :=
  ⟨fun _ _ _ _ => rfl, fun _ _ => rfl, fun _ _ => rfl, rfl, rfl, rfl, rfl, rfl⟩

/-- What a path followed through an instruction says of the instruction. -/
theorem PathOf.stepOver {c : Ctx} {npc : Word} {ds ps : List Nat} {P : Warp → Prop} (h : PathOf b t c.key c.nid W n) (hpc : n.pc = npc)
    (hm : n.mask = c.p.mask) (hk : n.kind = c.p.kind) (hw : KeptBut c W ds ps) (hP : ∀ r, P (W.withRoot r)) :
    StepOver b t c npc ds ps P := by
  obtain ⟨r, -, hwarp⟩ := h.warp
  refine ⟨h.elsewhere, ?_, ?_, ?_, W.withRoot r, hwarp, keptBut_congr hw (.withRoot W r), hP r⟩
  · rw [h.node, hpc]
  · rw [h.node, hm]
  · rw [h.node, hk]

end Sys2Proof.Machine
end

section
/-! SUPPORT. A synchronisation instruction at its issue: the object it finds, and the step or the plain store that it sends (05 R126; 02 R46-R48). -/
namespace Sys2Proof.Machine
open Sys2Proof.Says

variable {s : State} {key nid : Nat} {lit : Word} {w : Warp}

/-! ### The object of an instruction -/

/-- An address translates alike once the warp is entered. -/
theorem translate_entered (h : Issues s key nid lit w) (va size need : Nat) :
    (s.setWarp key (some (entered w nid))).translate key va size need = s.translate key va size need := by
  unfold State.translate
  rw [State.warp_setWarp_same h.warps, h.warp]
  unfold entered
  by_cases hn : w.lastPath = nid
  · rw [if_pos hn]; rfl
  · rw [if_neg hn]; rfl

/-- An object that is there is found. -/
theorem object_of_objectAt (h : Issues s key nid lit w) {c : Ctx} (hc : c.key = key) {q size need va pa : Nat}
    (ho : ObjectAt s c q size need va pa) : (s.setWarp key (some (entered w nid))).object c q size need = .ok (va, pa) := by
  obtain ⟨ha, ht⟩ := ho
  unfold State.object
  rw [hc] at ht ⊢
  simp only [ha, translate_entered h, ht, Bool.false_eq_true, if_false]

/-- A uniform operand without poison is its value. -/
theorem uval_of_sound {c : Ctx} {e : Nat} (h : (c.opndU e).psn = false) : c.uval e = .ok (c.opndU e).bits.toNat := by
  simp [Ctx.uval, h]

/-- A synchronisation instruction with an active lane whose body ends without parking its warp. -/
theorem execSync_next (h : Issues s key nid lit w) {chk : Bool} {codes : List Nat} {body : Ctx → State → Except Trap State} {t b : State}
    {W : Warp} {n : Node} (hchk : chk = true) (hany : (seen true s key nid lit w).any = true)
    (hb : body (seen true s key nid lit w) (s.setWarp key (some (entered w nid))) = .ok t)
    (hp : PathOf b t key nid W n) (hpark : W.park = w.park) : execSync s chk codes body = .next t := by
  refine issuing_next h ?_ fun u hu => (hp.park hu).trans hpark
  simp only [hchk, need, if_true, bind, Except.bind, hany, hb]

/-! ### Latencies -/

/-- The latency of an access to one bank word by one path: a read, or the two bank accesses of an atomic step (02 R46, R47). -/
theorem latencyL_step (core g : Nat) (atomic : Bool) :
    latencyL core 1 (if atomic then [(0, g), (0, g)] else [(0, g)]) = 4 * hops core (granSlice g) + (if atomic then 12 else 11) := by
  cases atomic <;>
    simp [latencyL, latencyHB, bankB, countIn, List.eraseDups_cons, List.range_succ] <;> omega

/-! ### Sending a step -/

/-- The access in flight that a step of `i` is, from its issue on (05 R126). -/
def flightOfStep (s : State) (c : Ctx) (i : Instr) (va pa x : Nat) (d : Option Nat) (at_ : Nat) : Flight :=
  let back := stepBack s c pa (stepAtomic i)
  let dst := (d.map c.dstOf).getD .none
  { key := c.key, agent := warpAgent c.w, op := .step ⟨some i, c.nid, at_, c.act, va, pa, x, back⟩, dst := dst, lanes := c.act
    accs := [{ beat := 0, gran := granOf pa, slot := s.slotAt s.clk (coreOf c.key) (granOf pa), parts := c.wordParts d pa }]
    backs := if dst = .none then [] else [(0, back)] }

@[simp] theorem State.noteAccess_flights (s : State) (key nbeats : Nat) (accs : List (Nat × Nat)) (first : Bool) :
    (s.noteAccess key nbeats accs first).flights = s.flights := State.updWarp_flights ..

@[simp] theorem State.noteAccess_mem (s : State) (key nbeats : Nat) (accs : List (Nat × Nat)) (first : Bool) :
    (s.noteAccess key nbeats accs first).mem = s.mem := State.updWarp_mem ..

@[simp] theorem State.noteAccess_clk (s : State) (key nbeats : Nat) (accs : List (Nat × Nat)) (first : Bool) :
    (s.noteAccess key nbeats accs first).clk = s.clk := State.updWarp_clk ..

@[simp] theorem State.fly_mem (s : State) (key : Nat) (w : Warp) (op : AccOp) (dst : FlightDst) (m : LaneMask) (nb L : Nat) (accs : List BankAcc) :
    (s.fly key w op dst m nb L accs).mem = s.mem := rfl

@[simp] theorem State.fly_clk (s : State) (key : Nat) (w : Warp) (op : AccOp) (dst : FlightDst) (m : LaneMask) (nb L : Nat) (accs : List BankAcc) :
    (s.fly key w op dst m nb L accs).clk = s.clk := rfl

/-- Reserving moves no clk. -/
@[simp] theorem State.noteAccess_coreClk (s : State) (key nbeats : Nat) (accs : List (Nat × Nat)) (first : Bool) (core k : Nat) :
    (s.noteAccess key nbeats accs first).coreClk core k = s.coreClk core k := by
  simp [State.noteAccess, State.reserveFrom, State.coreClk, State.coreClkFrom, State.railOf, State.cluster]

/-- An instruction of one beat that is in flight is written back once, where it has a result. -/
theorem State.fly_one (s : State) (key : Nat) (w : Warp) (op : AccOp) (dst : FlightDst) (m : LaneMask) (L : Nat) (accs : List BankAcc) :
    s.fly key w op dst m 1 L accs = { s with flights := s.flights ++
      [⟨key, warpAgent w, op, dst, m, accs, if dst = .none then [] else [(0, s.coreClk (coreOf key) L)]⟩] } := by
  simp [State.fly]

/-- Sending a step reserves its way, puts it in flight and has its path stand. -/
theorem sendStep_eq (s : State) (c : Ctx) (i : Instr) (va pa x : Nat) (d : Option Nat) (hf : HalfIssue) :
    s.sendStep c i va pa x d hf = State.standing
      { s.noteAccess c.key 1 (if stepAtomic i then [(0, granOf pa), (0, granOf pa)] else [(0, granOf pa)]) with
        flights := s.flights ++ [flightOfStep s c i va pa x d hf.at_] } c hf (stepBack s c pa (stepAtomic i)) := by
  unfold State.sendStep
  simp only [State.fly_one, latencyL_step, State.noteAccess_coreClk, State.noteAccess_flights]
  rfl

/-- The path after a step has been sent. -/
theorem sendStep_path (h : Issues s key nid lit w) (i : Instr) (va pa x : Nat) (d : Option Nat) (hf : HalfIssue) :
    let c := seen true s key nid lit w
    let t := (s.setWarp key (some (entered w nid))).sendStep c i va pa x d hf
    ∃ W, PathOf (reached s t) t key nid W { c.p with stop := max c.p.stop (stepBack s c pa (stepAtomic i)), step := some hf } ∧
      KeptBut c W [] [] ∧ W.yv = 0 ∧ W.park = w.park := by
  intro c t
  obtain ⟨u, hu, hn⟩ := (PathOf.entered h).noteAccess 1
    (if stepAtomic i then [(0, granOf pa), (0, granOf pa)] else [(0, granOf pa)]) true
  have hs := ((hn.reaching (t' := { State.noteAccess _ key 1 _ with
      flights := s.flights ++ [flightOfStep s c i va pa x d hf.at_] }) rfl).updNode
    (fun p => { p with stop := max p.stop (stepBack s c pa (stepAtomic i)), step := some hf })).killY
  have hk := hu.trans (.killY u)
  refine ⟨{ u with yv := 0 }, ?_, keptBut_congr (keptBut_refl c [] []) hk, rfl, hk.park.trans (SameRegs.entered w nid).park⟩
  rw [show t = _ from sendStep_eq _ c i va pa x d hf]
  exact hs.reached_eq ▸ hs

/-- One part for each lane names those lanes. -/
theorem map_lane_parts (pa : Nat) (ls : List Nat) : (ls.map fun l => ({ lane := l, pa := pa, n := 4 } : AccPart)).map (·.lane) = ls := by
  rw [List.map_map]
  exact List.map_id ls

/-- A step that is sent is on its way to its bank slot, and its path stands at the instruction (05 R126). -/
theorem sendStep_sent (h : Issues s key nid lit w) (i : Instr) (va pa x : Nat) (d : Option Nat) (hf : HalfIssue) :
    let c := seen true s key nid lit w
    StepSent s ((s.setWarp key (some (entered w nid))).sendStep c i va pa x d hf) c i va pa x d hf := by
  intro c
  obtain ⟨W, hp, hk, hy, -⟩ := sendStep_path h i va pa x d hf
  have hmem : ((s.setWarp key (some (entered w nid))).sendStep c i va pa x d hf).mem = s.mem := by
    simp [sendStep_eq, State.standing, State.killY]
  have hfl : ((s.setWarp key (some (entered w nid))).sendStep c i va pa x d hf).flights =
      s.flights ++ [flightOfStep s c i va pa x d hf.at_] := by
    rw [sendStep_eq, State.standing, State.killY, State.updWarp_flights, State.updNode_flights]
    rfl
  refine ⟨flightOfStep s c i va pa x d hf.at_, ⟨PathOf.stepOver (c := c) hp rfl rfl rfl hk fun _ => hy, hmem, hfl, hp.node⟩, rfl, rfl, rfl, rfl,
    rfl, _, rfl, rfl, rfl, rfl, rfl, ?_, ?_⟩
  · cases d with
    | none => rfl
    | some r => exact map_lane_parts pa _
  · intro p hp
    obtain ⟨l, -, rfl⟩ := List.mem_map.mp hp
    exact ⟨rfl, rfl⟩

/-- An instruction that acts on the object it finds sends its step (05 R126). -/
theorem actOn_answers (h : Issues s key nid lit w) {i : Instr} {q nd va pa x : Nat} {d : Option Nat} {chk : Bool} {codes : List Nat}
    {body : Ctx → State → Except Trap State} (hexec : exec i s = execSync s chk codes body) (hany : (seen true s key nid lit w).any = true)
    (ho : ObjectAt s (seen true s key nid lit w) q (stepSize i) nd va pa) (hchk : chk = true)
    (hb : body (seen true s key nid lit w) (s.setWarp key (some (entered w nid))) =
      (s.setWarp key (some (entered w nid))).actOn (seen true s key nid lit w) i q nd x d) :
    Answers i s fun t => StepSent s t (seen true s key nid lit w) i va pa x d { instr := i, at_ := s.clk } := by
  obtain ⟨W, hp, -, -, hpark⟩ := sendStep_path h i va pa x d { instr := i, at_ := s.clk }
  refine ⟨_, ?_, sendStep_sent h i va pa x d { instr := i, at_ := s.clk }⟩
  rw [hexec]
  refine execSync_next h hchk hany (hb.trans ?_) hp hpark
  simp only [State.actOn, bind, Except.bind, object_of_objectAt h rfl ho, pure, Except.pure]
  rfl

end Sys2Proof.Machine
end

section
/-! SUPPORT. A step at the bank slot of a sound object: the object it finds, the image it leaves, and where its path goes (05 R126; 04 R95). -/
namespace Sys2Proof.Machine
open Sys2Proof.Says

variable {s b t : State} {key nid at_ n : Nat} {w W : Warp} {i : Instr} {j : StepJob} {c : Ctx} {p : Node}

/-! ### The object that a step leaves -/

/-- The SRAM once a step has read its object and stored the image it leaves of it. -/
def Sram.stepped (m : Sram) (i : Instr) (once : Bool) (j : StepJob) : Sram :=
  let r := m.readSpan j.pa (stepSize i)
  r.2.2.storeAtomic j.pa (stepSize i) r.1 (stepNew i once j.x r.1)

/-- Bytes of memory make a number of that many bytes. -/
theorem memRead_lt (m : Memory) (a n : Nat) : memRead m a n < 256 ^ n := by
  induction n generalizing a with
  | zero => simp [memRead]
  | succ n ih =>
    have h1 := ih (a + 1)
    have h2 := (memByte m a).isLt
    simp only [memRead, Nat.pow_succ]
    omega

/-- An atomic step's store leaves the image, and no byte outside it changes. -/
theorem Sram.storeAtomic_spec {m : Sram} {pa n old new : Nat} (h : Memory.wf m.bytes = true) (hold : old = memRead m.bytes pa n)
    (hnew : new < 256 ^ n) :
    memRead (m.storeAtomic pa n old new).bytes pa n = new ∧
      ∀ a, a < pa ∨ pa + n ≤ a → memByte (m.storeAtomic pa n old new).bytes a = memByte m.bytes a := by
  unfold Sram.storeAtomic
  split
  · next he => exact ⟨hold.symm.trans he, fun _ _ => rfl⟩
  · rw [Sram.write_bytes]
    exact ⟨(memRead_memWrite_same h).trans (Nat.mod_eq_of_lt hnew), fun a ha => memByte_memWrite_outside h ha⟩

/-- The image that a step leaves at its object, and the bytes outside it. -/
theorem Sram.stepped_spec {m : Sram} {once : Bool} (h : Memory.wf m.bytes = true)
    (hnew : stepNew i once j.x (memRead m.bytes j.pa (stepSize i)) < 256 ^ stepSize i) :
    memRead (m.stepped i once j).bytes j.pa (stepSize i) = stepNew i once j.x (memRead m.bytes j.pa (stepSize i)) ∧
      ∀ a, a < j.pa ∨ j.pa + stepSize i ≤ a → memByte (m.stepped i once j).bytes a = memByte m.bytes a := by
  have hs := Sram.storeAtomic_spec (m := (m.readSpan j.pa (stepSize i)).2.2) (by simpa using h) (congrArg (memRead · j.pa (stepSize i))
    (Sram.readSpan_bytes m j.pa (stepSize i)).symm) hnew
  rw [Sram.readSpan_bytes] at hs
  exact hs

/-- A check changes no waiter. -/
theorem Sram.stepped_cairn {m : Sram} {once : Bool}
    (h : stepNew i once j.x (memRead m.bytes j.pa (stepSize i)) = memRead m.bytes j.pa (stepSize i)) : (m.stepped i once j).cairn = m.cairn := by
  simp only [Sram.stepped, Sram.readSpan_value, h, Sram.storeAtomic, if_true, Sram.readSpan_cairn]

/-! ### A step whose object is sound -/

/-- Whether a step is the one time that its image depends on: of an ARRIVE, the warp's final one; of a drawn SEMWAIT, the draw. -/
def stepOnce (s : State) (c : Ctx) (i : Instr) (j : StepJob) : Bool := if stepArrives i then (s.arrival c j.va).2.1 else !c.p.tkv

/-- A step that meets no fault writes its object and goes on from there (05 R126). -/
theorem runStep_sound (hs : Sound s j.pa (stepSize i)) (hbad : stepBad i j.x (memRead s.mem.bytes j.pa (stepSize i)) = none)
    (hrec : stepArrives i = true → (s.arrival c j.va).2.2 = true) :
    s.runStep c i j = .ok ((s.setMem (s.mem.stepped i (stepOnce s c i j) j)).stepAfter c i j (memRead s.mem.bytes j.pa (stepSize i))) := by
  have hgo : (!stepArrives i || (s.arrival c j.va).2.2) = true := by
    cases ha : stepArrives i with
    | false => rfl
    | true => simp [hrec ha]
  have harr : (s.setMem (s.mem.readSpan j.pa (stepSize i)).2.2).arrival c j.va = s.arrival c j.va := rfl
  unfold State.runStep
  simp only [needAt, Sram.readSpan_sound hs, Sram.readSpan_value, hbad, harr, hgo, bind, Except.bind, pure, Except.pure, Bool.not_false, if_true]
  rfl

/-- The path of a step stands at its instruction. -/
theorem stepCtx_of_reaches (h : ReachesSlot s key w i j n) : s.stepCtx key j = some (atSlot s key w j) := by
  obtain ⟨hf, hstep, hat⟩ := h.stands
  simp only [State.stepCtx, h.warp, h.path, hstep, Option.map_some, hat, bne_iff_ne.mpr h.lanes, BEq.rfl, Bool.and_self, if_true]
  rfl

/-- The state in which a step acts at its bank slot `at_`, with the SRAM `m`. -/
def State.slotted (s : State) (at_ : Nat) (m : Sram) : State := { s with clk := at_, mem := m }

/-- What a step leaves of `t`: its path has no second half any more, and the clk is that of the state `s` again. -/
def State.stepDone (s t : State) (key nid : Nat) : State := { t.updNode key nid (fun n => { n with step := none }) with clk := s.clk }

/-- A step that meets no fault at its bank slot (04 R95; 05 R126): its object is written, its path goes on or waits as `r` says, and the clk
is that of the state again. -/
theorem serveStep_sound (h : ReachesSlot s key w i j (stepSize i)) (hbad : stepBad i j.x (memRead s.mem.bytes j.pa (stepSize i)) = none)
    (hrec : stepArrives i = true → (s.arrival (atSlot s key w j) j.va).2.2 = true) {r : State × Option Nat}
    (hr : (s.slotted at_ (s.mem.stepped i (stepOnce s (atSlot s key w j) i j) j)).stepAfter (atSlot s key w j) i j
      (memRead s.mem.bytes j.pa (stepSize i)) = r) : s.serveStep key at_ j = (s.stepDone r.1 key j.nid, r.2) := by
  have hc : State.stepCtx { s with clk := at_ } key j = some (atSlot s key w j) := (stepCtx_of_reaches h :)
  have hrun := runStep_sound (s := { s with clk := at_ }) (c := atSlot s key w j) h.sound hbad hrec
  unfold State.serveStep
  simp only [h.instr, hc, hrun]
  rw [← hr]
  rfl

/-! ### The path of a step -/

/-- The warp and the path of a step once its object is written. -/
theorem PathOf.atSlot (h : ReachesSlot s key w i j n) (m : Sram) :
    PathOf (s.slotted at_ m) (s.slotted at_ m) key j.nid w (s.node key j.nid) :=
  .refl (s := s.slotted at_ m) h.warp h.warps h.belay

/-- A path that goes on past its step (06 R172). -/
theorem PathOf.pastStep (h : PathOf b t c.key c.nid W p) (i : Instr) :
    PathOf b (t.pastStep c i) c.key c.nid (W.completed c.p.mask 0 .keep)
      { p with pc := c.npc (stepCodes i), since := t.clk, spn := false, spc := 0 } :=
  (h.finish (c.npc (stepCodes i)) .keep).updNode fun n => { n with spn := false, spc := 0 }

/-- A path that goes on past an acquire step (11 R279). -/
theorem PathOf.pastAcquire (h : PathOf b t c.key c.nid W p) (i : Instr) (back : Nat) :
    PathOf b (t.pastAcquire c i back) c.key c.nid (W.completed c.p.mask 0 .keep)
      { p with hold := max p.hold back, pc := c.npc (stepCodes i), since := t.clk } := by
  have hh := (h.updNode fun n => { n with hold := max n.hold back }).finish (c.npc (stepCodes i)) .keep
  have hclk : (t.updNode c.key c.nid fun n => { n with hold := max n.hold back }).clk = t.clk := State.updNode_clk ..
  rw [hclk] at hh
  exact hh

/-- A step is done at its path, and the clk is that of the state again. -/
theorem PathOf.stepDone {m : Sram} (h : PathOf (s.slotted at_ m) t key nid W p) :
    PathOf { s with mem := (s.stepDone t key nid).mem } (s.stepDone t key nid) key nid W { p with step := none } := by
  have hd := (h.updNode fun n => { n with step := none }).atClk s.clk
  have hm : (s.stepDone t key nid).mem = m := by
    rw [show (s.stepDone t key nid).mem = t.mem from State.updNode_mem .., h.elsewhere.rest]; rfl
  rw [hm]
  exact hd

/-- What the path followed to the end of a step says of the step. -/
theorem PathOf.slotStep {m : Sram} {npc : Word} {ps : List Nat} {P : Warp → Prop}
    (h : PathOf (s.slotted at_ m) t c.key c.nid W p) (hpc : p.pc = npc) (hm : p.mask = c.p.mask) (hk : p.kind = c.p.kind)
    (hw : KeptBut c W [] ps) (hP : ∀ r, P (W.withRoot r)) :
    SlotStep s (s.stepDone t c.key c.nid) c npc ps P := by
  have hd := h.stepDone
  refine ⟨hd.stepOver hpc hm hk hw hP, ?_⟩
  rw [hd.node]

/-- Changing the SRAM. -/
theorem PathOf.setMem {nid : Nat} (h : PathOf b t key nid W p) (m : Sram) : PathOf (b.setMem m) (t.setMem m) key nid W p :=
  ⟨⟨by rw [h.elsewhere.rest]; rfl, h.elsewhere.slots, h.elsewhere.nodes⟩, h.warps, h.belay, h.node, h.warp⟩

/-- A waiter is registered, or its slice's monitor is full (05 R139). -/
theorem Sram.register_spec {m : Sram} (hc : swf [] m.cairn = true) (g : Nat) (wt : Waiter) (kind : Nat) :
    ((m.register g wt kind).2 = true ∧ (⟨g, wt, kind⟩ : CairnEntry) ∈ sget [] (m.register g wt kind).1.cairn (granSlice g)) ∨
      ((m.register g wt kind).2 = false ∧ 256 ≤ (sget [] (m.register g wt kind).1.cairn (granSlice g)).length) := by
  unfold Sram.register
  simp only
  split
  · next hfull => exact .inr ⟨rfl, Nat.le_trans hfull (List.length_filter_le ..)⟩
  · refine .inl ⟨rfl, ?_⟩
    rw [sget_sput_same hc]
    simp

/-- The poll of a waiter, where the monitor has no entry for it (04 R118). -/
def pollOf (t : State) (c : Ctx) (pa kind : Nat) : Option (Nat × Nat) :=
  if (t.mem.register (granOf pa) (.path c.w.ctx c.key c.nid) kind).2 then none else some (granSlice (granOf pa), t.clk + 256)

/-- A path that waits for a change of the word of its object (04 R117). -/
theorem PathOf.waitOn (h : PathOf b t c.key c.nid W p) (pa kind : Nat) :
    PathOf (b.setMem (t.mem.register (granOf pa) (.path c.w.ctx c.key c.nid) kind).1) (t.waitOn c pa kind) c.key c.nid W
      { p with wait := .monitor (pollOf t c pa kind) } :=
  (h.setMem _).updNode fun n => { n with wait := .monitor (pollOf t c pa kind) }

/-- A check that fails leaves its path at a monitor, or polling where the monitor is full (04 R117, R118). -/
theorem PathOf.slotWaits {m : Sram} (h : PathOf (s.slotted at_ m) t c.key c.nid c.w p) (hc : swf [] m.cairn = true) (pa kind : Nat) :
    SlotWaits s (s.stepDone (t.waitOn c pa kind) c.key c.nid) c p at_ pa kind := by
  have hm : t.mem = m := by rw [h.elsewhere.rest]; rfl
  have hclk : t.clk = at_ := by rw [h.elsewhere.rest]; rfl
  have hd := PathOf.stepDone (s := s) (at_ := at_) (h.waitOn pa kind)
  have hmem : (s.stepDone (t.waitOn c pa kind) c.key c.nid).mem = (t.mem.register (granOf pa) (.path c.w.ctx c.key c.nid) kind).1 := by
    rw [show (s.stepDone (t.waitOn c pa kind) c.key c.nid).mem = (t.waitOn c pa kind).mem from State.updNode_mem ..]
    exact State.updNode_mem ..
  refine ⟨hd.elsewhere, hd.warp, ?_⟩
  rw [hmem, hd.node, ← hclk]
  unfold pollOf
  rcases Sram.register_spec (hm ▸ hc) (granOf pa) (.path c.w.ctx c.key c.nid) kind with ⟨hr, hin⟩ | ⟨hr, hfull⟩
  · exact .inl ⟨by rw [hr]; rfl, hin⟩
  · exact .inr ⟨by rw [hr]; rfl, hfull⟩

/-! ### What the bank slot leaves, step by step -/

/-- A step that meets no fault leaves its image at the object, and no other byte changes (05 R126). -/
theorem serveStep_leaves (h : ReachesSlot s key w i j (stepSize i)) (hbad : stepBad i j.x (memRead s.mem.bytes j.pa (stepSize i)) = none)
    (hrec : stepArrives i = true → (s.arrival (atSlot s key w j) j.va).2.2 = true) {x : Nat}
    (hx : stepNew i (stepOnce s (atSlot s key w j) i j) j.x (memRead s.mem.bytes j.pa (stepSize i)) = x) (hlt : x < 256 ^ stepSize i) :
    memRead (s.serveStep key at_ j).1.mem.bytes j.pa (stepSize i) = x ∧ OutsideKept s (s.serveStep key at_ j).1 j.pa (stepSize i) := by
  have hb : (s.serveStep key at_ j).1.mem.bytes = (s.mem.stepped i (stepOnce s (atSlot s key w j) i j) j).bytes := by
    rw [serveStep_sound h hbad hrec rfl]
    exact (congrArg Sram.bytes (State.updNode_mem ..)).trans (State.stepAfter_bytes ..)
  have hs := Sram.stepped_spec (i := i) (j := j) (once := stepOnce s (atSlot s key w j) i j) h.bytes (hx ▸ hlt)
  unfold OutsideKept
  rw [hb]
  exact ⟨hs.1.trans hx, hs.2⟩

/-- A step that only goes on, without a result (06 R172). -/
theorem serveStep_pastStep (h : ReachesSlot s key w i j (stepSize i)) (hbad : stepBad i j.x (memRead s.mem.bytes j.pa (stepSize i)) = none)
    (hrec : stepArrives i = false) (ha : ∀ s c o, State.stepAfter s c i j o = (s.pastStep c i, none)) :
    SlotStep s (s.serveStep key at_ j).1 (atSlot s key w j) ((atSlot s key w j).npc (stepCodes i)) [] (fun w' => w'.arrive = w.arrive) ∧
      (s.serveStep key at_ j).2 = none := by
  rw [serveStep_sound h hbad (by simp [hrec]) (ha ..)]
  have hc : SameRegs w (w.completed (atSlot s key w j).p.mask 0 .keep) := .completed _ _ (.inl rfl)
  exact ⟨((PathOf.atSlot h _).pastStep (c := atSlot s key w j) i).slotStep rfl rfl rfl (keptBut_congr (keptBut_refl (atSlot s key w j) [] []) hc)
    fun _ => hc.arrive, rfl⟩

/-- The end of an acquire step: its path goes on, and holds later memory accesses to the write-back time (11 R279). -/
theorem PathOf.acquired {m : Sram} {back : Nat} {ps : List Nat} {P : Warp → Prop} (h : PathOf (s.slotted at_ m) t c.key c.nid W p) (hpc : p = c.p)
    (hw : KeptBut c W [] ps) (hP : ∀ r, P ((W.completed c.p.mask 0 .keep).withRoot r)) :
    SlotStep s (s.stepDone (t.pastAcquire c i back) c.key c.nid) c (c.npc (stepCodes i)) ps P ∧
      back ≤ ((s.stepDone (t.pastAcquire c i back) c.key c.nid).node c.key c.nid).hold := by
  subst hpc
  have ha := h.pastAcquire i back
  refine ⟨ha.slotStep rfl rfl rfl (keptBut_congr hw (.completed _ _ (.inl rfl))) hP, ?_⟩
  rw [ha.stepDone.node]
  exact Nat.le_max_right ..

end Sys2Proof.Machine
end

section
/-! The barrier object and the barrier instructions: their steps, their issue, and their bank slots (05 R126-R136; 11 R284, R285). -/
namespace Sys2Proof.Machine
open Sys2Proof.Says

variable {s : State} {key nid at_ : Nat} {lit : Word} {w : Warp} {j : StepJob} {d q e p va pa : Nat}

/-! ### Steps of a barrier image -/

/-- An announcement saturates where the counter would reach 2^32 (05 R130). -/
theorem barAdd_eq (c n : Nat) : barAdd c n = if 2 ^ 32 ≤ c + n then (2 ^ 32 - 1, true) else (c + n, false) := by
  unfold barAdd
  congr 1

/-- 05 R130, R134: the step kinds one by one, and the completion test after each. -/
theorem barrierStepRule : BarrierStepRule := by
  intro o n err ends
  refine ⟨rfl, congrArg ends ?_, congrArg ends ?_, congrArg ends ?_, congrArg ends ?_⟩
  case refine_1 | refine_2 =>
    dsimp only
    rw [barAdd_eq]
    split <;> simp
  case refine_3 | refine_4 =>
    dsimp only
    rw [barSub]
    split <;> simp

/-- A barrier image has 128 bits. -/
theorem Bar.image_lt (o : Bar) : o.image < 256 ^ 16 := by
  simp only [Bar.image, fieldN]
  omega

/-- The image that BINIT stores (05 R129). -/
theorem Bar.image_binit {n : Nat} (h : n ≤ 4095) :
    Bar.image { outb := 0, inb := 0, armed := true, txerr := false, ovr := false, expect := n, pend := n, gen := 0, resv := false } =
      2 ^ 30 + n * 2 ^ 16 + n * 2 ^ 4 := by
  simp only [Bar.image, fieldN, b2n, Bool.false_eq_true, if_true, if_false]
  omega

/-! ### BINIT -/

/-- The bank slot of the one access of an instruction (02 R46). -/
theorem accessSlots_one (s : State) (core g : Nat) : s.accessSlots core [(0, g)] = [(0, g, s.slotAt s.clk core g)] := by
  simp [State.accessSlots, slotsFrom, sget, State.beatStart, State.coreClk, State.slotAt]

/-- The access by which BINIT stores an image (05 R129). -/
def imageAcc (s : State) (c : Ctx) (pa img : Nat) : BankAcc :=
  { beat := 0, gran := granOf pa, slot := s.slotAt s.clk (coreOf c.key) (granOf pa), parts := [{ lane := c.low, pa := pa, n := 16, x := img }] }

/-- The store of an image is one access. -/
theorem bankAccs_image (s : State) (c : Ctx) (pa img : Nat) :
    bankAccs (s.accessSlots (coreOf c.key) [(0, granOf pa)]) [(0, { lane := c.low, pa := pa, n := 16, x := img })] = [imageAcc s c pa img] := by
  simp [accessSlots_one, bankAccs, imageAcc]

/-- What BINIT leaves once it knows its object and its image (05 R129). -/
def State.storeImage (s : State) (c : Ctx) (npc : Word) (pa img : Nat) : State :=
  (((s.noteAccess c.key 1 [(0, granOf pa)]).fly c.key c.w .store .none (maskOf [c.low]) 1 0 [imageAcc s c pa img]).notePlainWrites c
    [imageAcc s c pa img]).finish c npc .kill

/-- The path after BINIT. -/
theorem storeImage_path (h : Issues s key nid lit w) (npc : Word) (pa img : Nat) :
    let c := seen true s key nid lit w
    let t := (s.setWarp key (some (entered w nid))).storeImage c npc pa img
    ∃ W k, PathOf (reached s t) t key nid W { c.p with pc := npc, since := k } ∧ KeptBut c W [] [] ∧ W.park = w.park := by
  intro c t
  obtain ⟨u, hu, hn⟩ := (PathOf.entered h).noteAccess 1 [(0, granOf pa)] true
  have hf := hn.fly c.w .store .none (maskOf [c.low]) 1 0 [imageAcc (s.setWarp key (some (entered w nid))) c pa img]
  obtain ⟨v, hv, hw⟩ := PathOf.notePlainWrites (c := c) hf [imageAcc (s.setWarp key (some (entered w nid))) c pa img]
  have hp := PathOf.finish (c := c) hw npc .kill
  rw [← hp.reached_eq] at hp
  have hk := (hu.trans hv).trans (.completed v c.p.mask (.inr rfl))
  exact ⟨_, _, hp, keptBut_congr (keptBut_refl c [] []) hk, hk.park.trans (SameRegs.entered w nid).park⟩

/-- The lowest active lane is a lane. -/
theorem Ctx.low_lt (c : Ctx) : c.low < 96 := by
  unfold Ctx.low
  cases hl : lanesOf c.act with
  | nil => decide
  | cons a t => exact (mem_lanesOf.mp (hl ▸ List.mem_cons_self : a ∈ lanesOf c.act)).1

@[simp] theorem State.notePlainWrites_flights (s : State) (c : Ctx) (accs : List BankAcc) : (s.notePlainWrites c accs).flights = s.flights :=
  State.updWarp_flights ..

@[simp] theorem State.finish_flights (s : State) (c : Ctx) (npc : Word) (lt : LatchFx) : (s.finish c npc lt).flights = s.flights := by
  simp [State.finish]

/-- BINIT is on its way to its bank slot as a plain store of one access (05 R129). -/
theorem storeImage_sent (h : Issues s key nid lit w) (npc : Word) (pa img : Nat) :
    let c := seen true s key nid lit w
    let t := (s.setWarp key (some (entered w nid))).storeImage c npc pa img
    MemoryStep s t c npc [] [] (fun _ => True) ∧ t.mem = { s.mem with plain := t.mem.plain } ∧
      Sent s t c .store .none [c.low] 96 1 0 (fun _ => { lane := c.low, pa := pa, n := 16, x := img }) := by
  intro c t
  obtain ⟨W, k, hp, hk, -⟩ := storeImage_path h npc pa img
  have hmem : t.mem = (s.mem.notePlain s.clk (granOf pa) (warpAgent c.w) (s.slotAt s.clk (coreOf c.key) (granOf pa))) := by
    simp only [t, State.storeImage, State.notePlainWrites, State.finish_mem, State.updWarp_mem, State.setMem_mem, State.fly_mem, State.fly_clk,
      State.noteAccess_mem, State.noteAccess_clk]
    rfl
  have hfl : t.flights = s.flights ++ [⟨key, warpAgent c.w, .store, .none, maskOf [c.low], [imageAcc s c pa img], []⟩] := by
    simp only [t, State.storeImage, State.finish_flights, State.notePlainWrites_flights, State.fly_one, State.noteAccess_flights, if_true]
    rfl
  have hbeat : (imageAcc s c pa img).beat = c.low / 96 := (Nat.div_eq_of_lt c.low_lt).symm
  refine ⟨PathOf.stepOver (c := c) hp rfl rfl rfl hk fun _ => trivial, ?_, fun h0 => absurd h0 (List.cons_ne_nil _ _), fun _ =>
    ⟨_, hfl, rfl, rfl, rfl, rfl, rfl, rfl, ?_, ?_⟩⟩
  · rw [hmem]; rfl
  · intro l hl
    rw [List.mem_singleton.mp hl]
    exact ⟨_, List.mem_singleton_self _, hbeat, rfl, List.mem_singleton_self _⟩
  · intro a ha
    rw [List.mem_singleton.mp ha]
    refine ⟨rfl, List.pairwise_singleton .., fun p hp => ⟨c.low, List.mem_singleton_self _, List.mem_singleton.mp hp, hbeat, ?_⟩⟩
    rw [List.mem_singleton.mp hp]
    rfl

/-- BINIT with a count from 1 to 4,095 sends a store of its image (05 R129). -/
theorem binit_answers (h : Issues s key nid lit w) (hq : uaddrOk q = true) (hany : (seen true s key nid lit w).any = true) (he : uniOk e = true)
    (hpsn : ((seen true s key nid lit w).opndU e).psn = false) (h1 : 1 ≤ ((seen true s key nid lit w).opndU e).bits.toNat)
    (h2 : ((seen true s key nid lit w).opndU e).bits.toNat ≤ 4095) (ho : ObjectAt s (seen true s key nid lit w) q 16 needW va pa) :
    let c := seen true s key nid lit w
    let x := (c.opndU e).bits.toNat
    exec (.binit q e) s = .next ((s.setWarp key (some (entered w nid))).storeImage c (c.npc [e]) pa (2 ^ 30 + x * 2 ^ 16 + x * 2 ^ 4)) := by
  intro c x
  obtain ⟨W, k, hp, -, hpark⟩ := storeImage_path h (c.npc [e]) pa (2 ^ 30 + x * 2 ^ 16 + x * 2 ^ 4)
  show execBinit q e s = _
  rw [execBinit]
  refine execSync_next (chk := uaddrOk q && uniOk e) (codes := [e]) h (by rw [hq, he]; rfl) hany ?_ hp hpark
  simp only [uval_of_sound hpsn, need, h1, h2, and_self, decide_true, if_true, object_of_objectAt h rfl ho, bind, Except.bind, pure, Except.pure,
    Bar.image_binit h2, bankAccs_image]
  rfl

/-! ### The issue of the barrier instructions -/

/-- 05 R126, R129-R131, R135; 11 R284, R285: BINIT sends its image, every other barrier instruction its step or check. -/
theorem barrierInstructionsAreSent : BarrierInstructionsAreSent := by
  intro s key nid lit w d q e p va pa h c x given sent hq hany
  have hval (he : given) : (seen true s key nid lit w).uval e = .ok x := uval_of_sound he.2
  refine ⟨fun he h1 h2 ho => ?_, fun ho => ⟨fun he => ⟨?_, ?_⟩, fun hd => ?_⟩, fun ho hd => ⟨fun he => ?_, fun hp hpsn => ?_⟩⟩
  · exact ⟨_, binit_answers h hq hany he.1 he.2 h1 h2 ho, storeImage_sent h ..⟩
  · exact actOn_answers h (execAnnounceIn.eq_def q e s) hany ho (by simp [hq, he.1]) (by simp only [hval he]; rfl)
  · exact actOn_answers h (execAnnounceOut.eq_def q e s) hany ho (by simp [hq, he.1]) (by simp only [hval he]; rfl)
  · exact actOn_answers h (execArrive.eq_def d q s) hany ho (by simp [hq, hd]) rfl
  · exact actOn_answers h (execBwait.eq_def d q e s) hany ho (by simp [hq, hd, he.1]) (by simp only [hval he]; rfl)
  · have hclean : ((seen true s key nid lit w).opnd d (seen true s key nid lit w).low).psn = false := hpsn
    exact actOn_answers h (execBtest.eq_def p q d s) hany ho (by simp [hq, hp, hd]) (by simp only [hclean]; rfl)

/-! ### Barrier steps at their bank slots -/

/-- A warp whose predicate `p` says in the lanes of a mask whether a test held (05 R135). -/
def Warp.tested (w : Warp) (p : Nat) (act : LaneMask) (done : Bool) : Warp := w.setP p act (if done then act else 0#96)

/-- What the predicate holds in those lanes (07 R183). -/
theorem Warp.tested_lane {p l : Nat} {m : LaneMask} (h : swf 0#96 w.p = true) (hm : m.getLsbD l = true) (done : Bool) :
    (sget 0#96 (w.tested p m done).p p).getLsbD l = done := by
  rw [Warp.tested, Warp.setP, sget_sput_same h]
  cases done <;> simp [hm]

/-- Every register but the predicate is kept. -/
theorem keptBut_tested {c : Ctx} {p : Nat} (h : swf 0#96 c.w.p = true) (m : LaneMask) (done : Bool) : KeptBut c (c.w.tested p m done) [] [p] :=
  ⟨fun _ _ _ _ => rfl, fun _ _ => rfl, fun _ hi => sget_sput_other h (by simpa using hi), rfl, rfl, rfl, rfl, rfl⟩

/-- A check of a barrier changes no byte. -/
theorem serveStep_check {i : Instr} (h : ReachesSlot s key w i j 16) (hsize : stepSize i = 16)
    (hbad : stepBad i j.x (memRead s.mem.bytes j.pa 16) = none) (hrec : stepArrives i = false) (hnew : ∀ once x o, stepNew i once x o = o) :
    memRead (s.serveStep key at_ j).1.mem.bytes j.pa 16 = memRead s.mem.bytes j.pa 16 ∧ OutsideKept s (s.serveStep key at_ j).1 j.pa 16 := by
  rw [← hsize] at h hbad ⊢
  exact serveStep_leaves h hbad (by simp [hrec]) (hnew ..) (memRead_lt ..)

/-- The first arrival of a warp without records has one, and is final where no live lane is left out (05 R131). -/
theorem arrival_first {c : Ctx} (h : c.w.arrive = []) (s : State) (va : Nat) :
    s.arrival c va = (c.act, decide (s.liveLanes c.key &&& ~~~c.act = 0#96), true) := by
  simp [State.arrival, h, Bool.beq_eq_decide_eq]

/-- What such an arrival leaves of its warp's records. -/
theorem stepAfter_arrive {c : Ctx} (h : c.w.arrive = []) (s : State) (d q : Nat) (j : StepJob) (o : Nat) :
    s.stepAfter c (.arrive d q) j o =
      ((s.updWarp c.key fun w => { w with arrive := if s.liveLanes c.key &&& ~~~c.act = 0#96 then [] else [⟨j.va, c.act, (Bar.ofImage o).gen⟩] }).pastStep
        c (.arrive d q), some (Bar.ofImage o).gen) := by
  simp [State.stepAfter, arrival_first h, h]

/-- An ARRIVE of a warp without arrival records (05 R131): final where no live lane is left out, else recorded. -/
theorem serveStep_arrive (h : ReachesSlot s key w (.arrive d q) j 16) (hm : (Bar.ofImage (memRead s.mem.bytes j.pa 16)).malformed = false)
    (harr : w.arrive = []) :
    let c := atSlot s key w j
    let o := Bar.ofImage (memRead s.mem.bytes j.pa 16)
    let final := s.liveLanes key &&& ~~~c.act = 0#96
    SlotStep s (s.serveStep key at_ j).1 c (c.npc []) [] (fun w' => w'.arrive = if final then [] else [⟨j.va, c.act, o.gen⟩]) ∧
      (s.serveStep key at_ j).2 = some o.gen ∧
      memRead (s.serveStep key at_ j).1.mem.bytes j.pa 16 = (if final then (o.step .arriveFinal).image else memRead s.mem.bytes j.pa 16) ∧
      OutsideKept s (s.serveStep key at_ j).1 j.pa 16 := by
  intro c o final
  have hbad : stepBad (.arrive d q) j.x (memRead s.mem.bytes j.pa 16) = none := by simp [stepBad, hm]
  have hfirst := arrival_first (c := c) harr s j.va
  have honce : stepOnce s c (.arrive d q) j = decide final := congrArg (·.2.1) hfirst
  have hrec : stepArrives (.arrive d q) = true → (s.arrival c j.va).2.2 = true := fun _ => congrArg (·.2.2) hfirst
  have hnew : stepNew (.arrive d q) (stepOnce s c (.arrive d q) j) j.x (memRead s.mem.bytes j.pa 16) =
      if final then (o.step .arriveFinal).image else memRead s.mem.bytes j.pa 16 := by
    rw [honce]
    by_cases hf : final
    · rw [decide_eq_true hf, if_pos hf]; rfl
    · rw [decide_eq_false hf, if_neg hf]; rfl
  have hlt : (if final then (o.step .arriveFinal).image else memRead s.mem.bytes j.pa 16) < 256 ^ 16 := by
    by_cases hf : final
    · rw [if_pos hf]; exact Bar.image_lt _
    · rw [if_neg hf]; exact memRead_lt ..
  have hstay := serveStep_leaves (at_ := at_) h hbad hrec hnew hlt
  rw [serveStep_sound h hbad hrec (stepAfter_arrive harr ..)] at hstay ⊢
  have hp := ((PathOf.atSlot (at_ := at_) h (s.mem.stepped (.arrive d q) (stepOnce s c (.arrive d q) j) j)).updWarp
    (g := fun w => { w with arrive := if final then [] else [⟨j.va, c.act, o.gen⟩] }) fun _ => rfl).pastStep (c := c) (.arrive d q)
  have hk : KeptBut c { w with arrive := if final then [] else [⟨j.va, c.act, o.gen⟩] } [] [] :=
    ⟨fun _ _ _ _ => rfl, fun _ _ => rfl, fun _ _ => rfl, rfl, rfl, rfl, rfl, rfl⟩
  exact ⟨hp.slotStep rfl rfl rfl (keptBut_congr hk (.completed _ _ (.inl rfl))) fun _ => (SameRegs.completed _ c.p.mask (.inl rfl)).arrive, rfl, hstay⟩

/-- An announcement (05 R130): the image goes on by its step, and the path past it. -/
theorem serveStep_announce {i : Instr} {k : BarStep} (h : ReachesSlot s key w i j 16) (hsize : stepSize i = 16)
    (hbad : stepBad i j.x (memRead s.mem.bytes j.pa 16) = none) (hrec : stepArrives i = false)
    (ha : ∀ s c o, State.stepAfter s c i j o = (s.pastStep c i, none))
    (hnew : ∀ once o, stepNew i once j.x o = ((Bar.ofImage o).step k).image) :
    SlotStep s (s.serveStep key at_ j).1 (atSlot s key w j) ((atSlot s key w j).npc (stepCodes i)) [] (fun w' => w'.arrive = w.arrive) ∧
      (memRead (s.serveStep key at_ j).1.mem.bytes j.pa 16 = ((Bar.ofImage (memRead s.mem.bytes j.pa 16)).step k).image ∧
        OutsideKept s (s.serveStep key at_ j).1 j.pa 16) ∧ (s.serveStep key at_ j).2 = none := by
  rw [← hsize] at h hbad ⊢
  obtain ⟨h1, h2⟩ := serveStep_pastStep (at_ := at_) h hbad hrec ha
  exact ⟨h1, serveStep_leaves h hbad (by simp [hrec]) (hnew ..) (hsize ▸ Bar.image_lt _), h2⟩

/-- A BWAIT that finds its phase complete (05 R135) goes on as an acquire, with the low word of the object. -/
theorem serveStep_bwait_complete (h : ReachesSlot s key w (.bwait d q e) j 16)
    (hbad : stepBad (.bwait d q e) j.x (memRead s.mem.bytes j.pa 16) = none) (hg : (Bar.ofImage (memRead s.mem.bytes j.pa 16)).gen ≠ j.x) :
    let c := atSlot s key w j
    SlotStep s (s.serveStep key at_ j).1 c (c.npc [e]) [] (fun w' => w'.arrive = w.arrive) ∧
      j.back ≤ ((s.serveStep key at_ j).1.node key j.nid).hold ∧ (s.serveStep key at_ j).2 = some (memRead s.mem.bytes j.pa 16 % 2 ^ 32) := by
  intro c
  have ha (t : State) : t.stepAfter c (.bwait d q e) j (memRead s.mem.bytes j.pa 16) =
      (t.pastAcquire c (.bwait d q e) j.back, some (memRead s.mem.bytes j.pa 16 % 2 ^ 32)) := if_pos hg
  have hp := PathOf.acquired (c := c) (i := .bwait d q e) (back := j.back) (P := fun w' => w'.arrive = w.arrive) (ps := [])
    (PathOf.atSlot (at_ := at_) h (s.mem.stepped (.bwait d q e) (stepOnce s c (.bwait d q e) j) j)) rfl (keptBut_refl c [] [])
    fun _ => (SameRegs.completed w c.p.mask (.inl rfl)).arrive
  rw [serveStep_sound h hbad (by simp [stepArrives]) (ha _)]
  exact ⟨hp.1, hp.2, rfl⟩

/-- A BWAIT that finds its phase open waits (05 R135). -/
theorem serveStep_bwait_open (h : ReachesSlot s key w (.bwait d q e) j 16)
    (hbad : stepBad (.bwait d q e) j.x (memRead s.mem.bytes j.pa 16) = none) (hg : (Bar.ofImage (memRead s.mem.bytes j.pa 16)).gen = j.x) :
    let c := atSlot s key w j
    SlotWaits s (s.serveStep key at_ j).1 c c.p at_ j.pa 0 ∧ (s.serveStep key at_ j).2 = none := by
  intro c
  have ha (t : State) : t.stepAfter c (.bwait d q e) j (memRead s.mem.bytes j.pa 16) = (t.waitOn c j.pa 0, none) := if_neg fun hn => hn hg
  have hcairn : swf [] (s.mem.stepped (.bwait d q e) (stepOnce s c (.bwait d q e) j) j).cairn = true := by
    rw [Sram.stepped_cairn rfl]; exact h.cairn
  have hp := PathOf.slotWaits (c := c) (PathOf.atSlot (at_ := at_) h _) hcairn j.pa 0
  rw [serveStep_sound h hbad (by simp [stepArrives]) (ha _)]
  exact ⟨hp, rfl⟩

/-- BTEST (05 R135): the predicate says whether the phase is complete, and only then the step acquires. -/
theorem serveStep_btest (h : ReachesSlot s key w (.btest p q d) j 16)
    (hbad : stepBad (.btest p q d) j.x (memRead s.mem.bytes j.pa 16) = none) :
    let c := atSlot s key w j
    let gen := (Bar.ofImage (memRead s.mem.bytes j.pa 16)).gen
    (s.serveStep key at_ j).2 = some (memRead s.mem.bytes j.pa 16 % 2 ^ 32) ∧
      SlotStep s (s.serveStep key at_ j).1 c (c.npc []) [p] (fun w' => ∀ l, l < 96 → c.act.getLsbD l = true →
        (sget 0#96 w'.p p).getLsbD l = decide (gen ≠ j.x)) ∧ (gen ≠ j.x → j.back ≤ ((s.serveStep key at_ j).1.node key j.nid).hold) := by
  intro c gen
  obtain ⟨done, hdone⟩ : ∃ b, decide (gen ≠ j.x) = b := ⟨_, rfl⟩
  have ha (t : State) : t.stepAfter c (.btest p q d) j (memRead s.mem.bytes j.pa 16) =
      (if done then (t.updWarp key fun w => w.tested p c.act done).pastAcquire c (.btest p q d) j.back
       else (t.updWarp key fun w => w.tested p c.act done).finish c (c.npc []) .keep, some (memRead s.mem.bytes j.pa 16 % 2 ^ 32)) := by
    rw [← hdone]; rfl
  have hp := (PathOf.atSlot (at_ := at_) h (s.mem.stepped (.btest p q d) (stepOnce s c (.btest p q d) j) j)).updWarp
    (g := fun w => w.tested p c.act done) fun _ => rfl
  have hk : KeptBut c (w.tested p c.act done) [] [p] := keptBut_tested (c := c) h.preds c.act done
  have hc : SameRegs (w.tested p c.act done) ((w.tested p c.act done).completed c.p.mask 0 .keep) := .completed _ _ (.inl rfl)
  have hlane (r : Node) (l : Nat) (_ : l < 96) (hl : c.act.getLsbD l = true) :
      (sget 0#96 (((w.tested p c.act done).completed c.p.mask 0 .keep).withRoot r).p p).getLsbD l = decide (gen ≠ j.x) := by
    rw [hdone, (hc.trans (.withRoot _ r)).preds]
    exact Warp.tested_lane h.preds hl done
  rw [serveStep_sound h hbad (by simp [stepArrives]) (ha _)]
  refine ⟨rfl, ?_⟩
  cases done with
  | true =>
    obtain ⟨hstep, hhold⟩ := PathOf.acquired (c := c) (i := .btest p q d) (back := j.back)
      (P := fun w' => ∀ l, l < 96 → c.act.getLsbD l = true → (sget 0#96 w'.p p).getLsbD l = decide (gen ≠ j.x)) hp rfl hk hlane
    exact ⟨hstep, fun _ => hhold⟩
  | false =>
    have hf := PathOf.finish (c := c) hp (c.npc []) .keep
    exact ⟨hf.slotStep rfl rfl rfl (keptBut_congr hk hc) hlane, fun hg => absurd hg (of_decide_eq_false hdone)⟩

/-- 05 R129-R131, R135, R139; 11 R279, R284, R285: announcements, arrivals and checks at the bank slot of a barrier that is not malformed. -/
theorem barrierStepsAtTheirSlots : BarrierStepsAtTheirSlots := by
  intro s key at_ w i j h c t result img o leaves goes acquires hsound
  have hm : (Bar.ofImage (memRead s.mem.bytes j.pa 16)).malformed = false := hsound
  refine ⟨?_, ?_, ?_, fun hclear => ?_⟩
  · rintro q e rfl
    have hs := serveStep_announce (at_ := at_) (k := .announceIn j.x) h rfl (by simp [stepBad, hm]) rfl (fun _ _ _ => rfl) fun _ _ => rfl
    exact hs
  · rintro q e rfl
    have hs := serveStep_announce (at_ := at_) (k := .announceOut j.x) h rfl (by simp [stepBad, hm]) rfl (fun _ _ _ => rfl) fun _ _ => rfl
    exact hs
  · rintro d q rfl harr
    exact serveStep_arrive h hm harr
  · have hovr : (Bar.ofImage (memRead s.mem.bytes j.pa 16)).ovr = false := hclear
    refine ⟨?_, ?_⟩
    · rintro d q e rfl
      have hbad : stepBad (.bwait d q e) j.x (memRead s.mem.bytes j.pa 16) = none := by simp [stepBad, hm, hovr]
      exact ⟨serveStep_check h rfl hbad rfl fun _ _ _ => rfl, fun hg => serveStep_bwait_complete h hbad hg,
        fun hg => serveStep_bwait_open h hbad hg⟩
    · rintro p q d rfl -
      have hbad : stepBad (.btest p q d) j.x (memRead s.mem.bytes j.pa 16) = none := by simp [stepBad, hm, hovr]
      exact ⟨serveStep_check h rfl hbad rfl fun _ _ _ => rfl, serveStep_btest h hbad⟩

/-! ### Steps in flight -/

/-- A flight whose step has been served: its access is served with the same lanes, and keeps its place to write back only if there is a result. -/
theorem Flight.stepped_spec (f : Flight) (j : Nat) (a : BankAcc) (x : Option Nat) :
    (f.stepped j a x).key = f.key ∧ (f.stepped j a x).op = f.op ∧
      (∃ b : BankAcc, (f.stepped j a x).accs = setAt f.accs j b ∧ b.served = true ∧ b.beat = a.beat ∧ b.gran = a.gran ∧
        b.parts.map (·.lane) = a.parts.map (·.lane) ∧ ∀ v, x = some v → ∀ p ∈ b.parts, p.got = v) ∧
      (if x = none then (f.stepped j a x).dst = .none ∧ (f.stepped j a x).backs = []
       else (f.stepped j a x).dst = f.dst ∧ (f.stepped j a x).backs = f.backs) := by
  cases x with
  | none => exact ⟨rfl, rfl, ⟨_, rfl, rfl, rfl, rfl, rfl, fun _ h => nomatch h⟩, rfl, rfl⟩
  | some v =>
    refine ⟨rfl, rfl, ⟨_, rfl, rfl, rfl, rfl, by simp, fun u hu p hp => ?_⟩, rfl, rfl⟩
    obtain ⟨q, -, rfl⟩ := List.mem_map.mp hp
    exact Option.some.inj hu

/-- A step whose path has gone acts on its object alone (05 R126). -/
theorem serveStep_gone {x : Instr} (hx : j.instr = some x) (hgone : s.stepCtx key j = none) :
    (s.serveStep key at_ j).2 = none ∧ (s.serveStep key at_ j).1 = { s with mem := (s.serveStep key at_ j).1.mem } := by
  have hc : State.stepCtx { s with clk := at_ } key j = none := (hgone :)
  unfold State.serveStep
  simp only [hx, hc]
  exact ⟨trivial, rfl⟩

/-- 05 R126; 04 R95; 02 R48: a step at its bank slot, and its write-back. -/
theorem stepsActAtTheirSlots : StepsActAtTheirSlots := by
  intro s i j f a job hf ha hserved hop r t
  have ht : t = { r.1 with flights := setAt r.1.flights i (f.stepped j a r.2) } := by
    simp only [t, State.serveAt, hf, ha, hserved, hop, Bool.false_eq_true, if_false]
    rfl
  exact ⟨⟨f.stepped j a r.2, ht, Flight.stepped_spec f j a r.2⟩, fun x hx hgone => serveStep_gone hx hgone⟩

/-- Settles O23: the step rule on images, and the barrier instructions at issue, at their bank slots and at their write-back. -/
theorem barrierResults : Obligations.BarrierResults :=
  ⟨barrierStepRule, barrierInstructionsAreSent, barrierStepsAtTheirSlots, stepsActAtTheirSlots⟩

end Sys2Proof.Machine
end

section
/-! NOP, a word of NOP with a field set, and the worked words of SRD (07 R194; 08 R229, R232). -/
namespace Sys2Proof.Machine
open Sys2Proof.Says

/-! ### A warp that parks (16 R418) -/

/-- A warp has parked for a warp-level fault of its path `nid`. -/
def ParkedFor (t : State) (key nid code cause arg : Nat) : Prop :=
  ∃ y : Warp, t.warp key = some y ∧ y.status = .parked ∧ ∃ m, y.park = some (code, cause, arg, nid, m)

@[simp] theorem State.queueFault_warps (s : State) (key : Nat) (w : Warp) (code cause img : Nat) (work : Work) :
    (s.queueFault key w code cause img work).warps = s.warps := by
  unfold State.queueFault State.queueFaultFrom
  simp only
  split <;> simp

variable {s : State} {key nid : Nat} {lit : Word} {w : Warp}

/-- What parking leaves in the slot of the warp. -/
theorem State.parkWarp_warp (hs : swf none s.warps = true) (hw : s.warp key = some w) (code cause arg : Nat) (lm : LaneMask) (va xf : Nat) :
    (s.parkWarp key nid code cause arg lm va xf).warp key = some { w with
      status := .parked, park := some (code, cause, arg, nid, lm), heldAt := none, urgent := false, want := [] } := by
  simp only [State.parkWarp, hw]
  rw [State.warp, State.queueFault_warps]
  exact State.warp_setWarp_same hs

/-- A warp-level fault parks the warp of its slot. -/
theorem takeTrap_parks (hs : swf none s.warps = true) (hw : s.warp key = some w) (act : LaneMask) (code cause arg : Nat) :
    ParkedFor (s.takeTrap key nid act (.warp code cause arg)) key nid code cause arg :=
  ⟨_, State.parkWarp_warp hs hw code cause arg (s.liveLanes key) 0 0, rfl, _, rfl⟩

/-- An instruction that meets a warp-level fault parks its warp, and answers a next state. -/
theorem issuing_parks (h : Issues s key nid lit w) {guarded : Bool} {body : Ctx → State → Except Trap State} {code cause arg : Nat}
    (hb : body (seen guarded s key nid lit w) (s.setWarp key (some (entered w nid))) = .error (.warp code cause arg)) :
    ∃ t, issuing s guarded body = .next t ∧ ParkedFor t key nid code cause arg := by
  refine ⟨_, by rw [issuing_eq h, hb], ?_⟩
  exact takeTrap_parks (State.setWarp_wf h.warps) (State.warp_setWarp_same h.warps) _ code cause arg

/-- A word that 07 R194 refuses for another reason than its destination parks its warp with ILLEGAL_INSTRUCTION. -/
theorem fetchFault_reject_parks (hs : swf none s.warps = true) (hw : s.warp key = some w) {r : Reject} (hr : r ≠ .redDest) :
    ParkedFor (s.fetchFault key nid (.reject r)) key nid 16 0 0 := by
  have e : s.fetchFault key nid (.reject r) = s.takeTrap key nid (s.node key nid).mask trapInstr := by
    cases r with
    | redDest => exact absurd rfl hr
    | _ => simp only [State.fetchFault, hw]
  rw [e]
  exact takeTrap_parks hs hw _ 16 0 0

/-! ### The words of the rule -/

/-- A word of NOP's opcode whose other bits are not all 0 has a field that must be 0 (07 R192). -/
theorem decode_nop_fieldSet {x : Nat} (h0 : 0 < x) (h1 : x < 2 ^ 20) : decode x = .error .zeroField := by
  have hmajor : fld x 31 26 = 0 := by unfold fld; omega
  have hminor : fld x 25 20 = 0 := by unfold fld; omega
  have hrest : fld x 19 0 ≠ 0 := by unfold fld; omega
  simp only [decode, hmajor, decodeMaj00, hminor, hrest, if_false]

/-! ### The instructions -/

/-- NOP goes on at the next instruction and changes nothing else (08 R232). -/
theorem nop_goesOn (h : Issues s key nid lit w) :
    Answers .nop s fun t => Ends s t (seen true s key nid lit w) ((seen true s key nid lit w).npc []) id := by
  have he := ends_congr (g := id) (finish_plain h true ((seen true s key nid lit w).npc []) .keep 0) (flagged_zero _)
  have hexec : exec .nop s = issuing s true fun c s1 => return s1.finish c (c.npc []) .keep := rfl
  exact ⟨_, hexec.trans (issuing_ends h rfl he (SameRegs.entered w nid).park), he⟩

/-- SRD of `%coreid` into an s-register runs on the uniform unit: the core of the warp's slot (08 R229). -/
theorem srd_coreid_uniform (h : Issues s key nid lit w) {d : Nat} (hd : isS d = true) (hany : (seen true s key nid lit w).any = true) :
    Answers (.srd d 4) s fun t =>
      UniformResult s t (seen true s key nid lit w) ((seen true s key nid lit w).npc []) d ⟨BitVec.ofNat 32 (coreOf key), false⟩ := by
  have hlegal : (srdListed 4 && decide (d ≤ 95) && !(isS d && 4 == 0)) = true := by simp [srdListed, (of_decide_eq_true hd).2]
  obtain ⟨u, he, hu⟩ := uniResult_spec h true ((seen true s key nid lit w).npc []) d ⟨BitVec.ofNat 32 (coreOf key), false⟩ hany
  have hexec : exec (.srd d 4) s = execSrd d 4 s := rfl
  refine ⟨_, hexec.trans (issuing_ends h ?_ he (SameRegs.entered w nid).park), u, he, hu⟩
  simp only [hlegal, need, if_true, bind, Except.bind]
  simp only [hd, hany, if_true]
  rfl

/-- SRD of `%laneid` into an s-register is no legal operand: it has no one value on the uniform unit (08 R229, R232). -/
theorem srd_laneid_uniform_parks (h : Issues s key nid lit w) {d : Nat} (hd : isS d = true) :
    Answers (.srd d 0) s fun t => ParkedFor t key nid 17 0 0 := by
  have hexec : exec (.srd d 0) s = execSrd d 0 s := rfl
  unfold Answers
  rw [hexec, execSrd]
  exact issuing_parks h (by simp [need, hd, bind, Except.bind, trapOpnd])

/-- Settles O11: the words decode as the rule says, a NOP with a field set parks its warp, and each instruction does what is said of it. -/
theorem nopAndTheWorkedCheck : Obligations.NopAndTheWorkedCheck := by
  refine ⟨rfl, rfl, rfl, fun x h0 h1 => ?_, fun s key nid lit w h => ⟨?_, ?_, ?_⟩⟩
  · exact ⟨.zeroField, decode_nop_fieldSet h0 h1, fun s key nid w hw hs => fetchFault_reject_parks hs hw (by decide)⟩
  · exact nop_goesOn h
  · exact srd_coreid_uniform h (by decide)
  · exact srd_laneid_uniform_parks h (by decide)

end Sys2Proof.Machine
end

section
/-! Strip pipelines: what their accounting leaves of the pipelines' table, and the end of BIN nodes and chains (14 R374, R385, R388). -/
namespace Sys2Proof.Machine
open Sys2Proof.Says

/-! ### Reading back a pipeline -/

section
variable {s : State} {pp k : Nat} {x : Pipe}

/-- The pipeline just put under a number. -/
theorem State.pipe_setPipe_same (h : swf {} s.pipes = true) : (s.setPipe pp x).pipe pp = x := sget_sput_same h

/-- The pipelines under the other numbers are as they were. -/
theorem State.pipe_setPipe_other (h : swf {} s.pipes = true) (hk : k ≠ pp) : (s.setPipe pp x).pipe k = s.pipe k := sget_sput_other h hk

/-- The canonical form of the pipelines is kept. -/
theorem State.setPipe_wf (h : swf {} s.pipes = true) : swf {} (s.setPipe pp x).pipes = true := swf_sput h
theorem State.updPipe_wf (h : swf {} s.pipes = true) (f : Pipe → Pipe) : swf {} (s.updPipe pp f).pipes = true := swf_sput h

/-- A pipeline is read from the table alone. -/
theorem State.pipe_of_pipes {t : State} (e : t.pipes = s.pipes) (k : Nat) : t.pipe k = s.pipe k := by rw [State.pipe, State.pipe, e]

end

/-! ### Records and launches leave the pipelines -/

/-- A fold whose every step leaves the pipelines leaves them. -/
theorem foldl_pipes {α : Type} (f : State → α → State) (hf : ∀ s a, (f s a).pipes = s.pipes) (l : List α) (s : State) :
    (l.foldl f s).pipes = s.pipes := by
  induction l generalizing s with
  | nil => rfl
  | cons a t ih => rw [List.foldl_cons, ih, hf]

@[simp] theorem State.stopSpan_pipes (s : State) (edge pa n : Nat) : (s.stopSpan edge pa n).pipes = s.pipes := by
  rw [State.stopSpan, State.addTraffic_frame]

@[simp] theorem State.plainSpan_pipes (s : State) (edge agent pa n x psn : Nat) : (s.plainSpan edge agent pa n x psn).pipes = s.pipes := by
  rw [State.plainSpan, State.stopSpan_pipes]
  exact foldl_pipes _ (fun _ _ => State.setMem_pipes ..) _ _

@[simp] theorem State.putHist_pipes (s : State) (pp c lev : Nat) (late : Bool) : (s.putHist pp c lev late).pipes = s.pipes := by
  unfold State.putHist
  simp only
  split
  · rfl
  · exact State.plainSpan_pipes ..

@[simp] theorem State.freeSlot_pipes (s : State) (k : Nat) : (s.freeSlot k).pipes = s.pipes := State.plainSpan_pipes ..

/-- Slots that are freed leave the pipelines (14 R381). -/
theorem foldl_freeSlot_pipes (s : State) (ks : List Nat) : (ks.foldl (fun (st : State) k => st.freeSlot k) s).pipes = s.pipes :=
  foldl_pipes _ (fun st k => State.freeSlot_pipes st k) ks s

/-- The end of a launch leaves the pipelines (15 R397; 16 R435). -/
@[simp] theorem State.finishLaunch_pipes (s : State) (lid : Nat) (failed : Bool) : (s.finishLaunch lid failed).pipes = s.pipes := by
  unfold State.finishLaunch
  split
  · rfl
  · next l _ =>
    have hrun (u : State) (n : Nat) : (if l.handler then u.setCtx l.ctx { u.ctx l.ctx with hrun := n } else u).pipes = u.pipes := by
      split <;> rfl
    simp only
    split
    · rfl
    · split
      · exact hrun ..
      · split
        · exact hrun ..
        · exact hrun ..

/-! ### What giving up strip work changes of a pipeline -/

/-- The pipelines of `t` are in canonical form and differ from those of `s` in their reorder buffers at most. -/
structure SameButRob (s t : State) : Prop where
  form : swf {} t.pipes = true
  pipe : ∀ k, ∃ rob, t.pipe k = { s.pipe k with rob := rob }

variable {s t u : State} {pp : Nat}

theorem SameButRob.of_pipes (h : swf {} s.pipes = true) (e : t.pipes = s.pipes) : SameButRob s t :=
  ⟨e ▸ h, fun k => ⟨_, State.pipe_of_pipes e k⟩⟩

theorem SameButRob.trans (h : SameButRob s t) (g : SameButRob t u) : SameButRob s u := by
  refine ⟨g.form, fun k => ?_⟩
  obtain ⟨r, hr⟩ := h.pipe k
  obtain ⟨r', hr'⟩ := g.pipe k
  exact ⟨r', by rw [hr', hr]⟩

/-- A step after which the pipelines read the same. -/
theorem SameButRob.then_pipes (h : SameButRob s t) (e : u.pipes = t.pipes) : SameButRob s u := h.trans (.of_pipes h.form e)

theorem SameButRob.bins (h : SameButRob s t) : (t.pipe pp).bins = (s.pipe pp).bins := by obtain ⟨_, hr⟩ := h.pipe pp; rw [hr]
theorem SameButRob.chains (h : SameButRob s t) : (t.pipe pp).chains = (s.pipe pp).chains := by obtain ⟨_, hr⟩ := h.pipe pp; rw [hr]
theorem SameButRob.lev (h : SameButRob s t) : (t.pipe pp).lev = (s.pipe pp).lev := by obtain ⟨_, hr⟩ := h.pipe pp; rw [hr]

/-- A fold of steps that each keep all of the pipelines but their reorder buffers. -/
theorem SameButRob.foldl {α : Type} {f : State → α → State} (hf : ∀ u a, swf {} u.pipes = true → SameButRob u (f u a)) (l : List α)
    (h : swf {} s.pipes = true) : SameButRob s (l.foldl f s) := by
  induction l generalizing s with
  | nil => exact .of_pipes h rfl
  | cons a l ih => exact (hf s a h).trans (ih (hf s a h).form)

/-- Entries leave the reorder buffer of a pipeline. -/
theorem SameButRob.setRob (h : swf {} s.pipes = true) (p : Nat) (rob : List RobEntry) :
    SameButRob s (s.setPipe p { s.pipe p with rob := rob }) := by
  refine ⟨State.setPipe_wf h, fun k => ?_⟩
  by_cases hk : k = p
  · exact ⟨rob, hk ▸ State.pipe_setPipe_same h⟩
  · exact ⟨_, State.pipe_setPipe_other h hk⟩

/-- Strip work that is dropped leaves the reorder buffers, and nothing else of a pipeline changes (14 R385). -/
theorem State.dropStrip_sameButRob (h : swf {} s.pipes = true) (mine : StripItem → Bool) : SameButRob s (s.dropStrip mine) := by
  refine SameButRob.trans (t := { s with chainQ := s.chainQ.filter (fun x => !mine x), binQ := s.binQ.filter (fun x => !mine x) })
    (.of_pipes h rfl) (SameButRob.foldl (fun u x hu => ?_) _ h)
  cases x with
  | launch l =>
    simp only
    split
    · exact .of_pipes hu (State.setLaunch_pipes ..)
    · exact .of_pipes hu rfl
  | team k =>
    simp only
    split
    · next y _ =>
      split
      · exact (SameButRob.setRob hu y.pipe _).then_pipes (State.setTeam_pipes ..)
      · exact .of_pipes hu rfl
    · exact .of_pipes hu rfl

theorem SameButRob.dropStrip (h : SameButRob s t) (mine : StripItem → Bool) : SameButRob s (t.dropStrip mine) :=
  h.trans (State.dropStrip_sameButRob h.form mine)

/-! ### A BIN node that is late (14 R374) -/

/-- Counting an event of a pipeline changes that counter alone. -/
theorem State.pipe_pipeCount (h : swf {} s.pipes = true) (f : PipeCtr → PipeCtr) :
    (s.pipeCount pp f).pipe pp = { s.pipe pp with ctr := f (s.pipe pp).ctr } := State.pipe_setPipe_same h

theorem State.pipeCount_bins (h : swf {} s.pipes = true) (f : PipeCtr → PipeCtr) :
    ((s.pipeCount pp f).pipe pp).bins = (s.pipe pp).bins := by rw [State.pipe_pipeCount h]
theorem State.pipeCount_lev (h : swf {} s.pipes = true) (f : PipeCtr → PipeCtr) :
    ((s.pipeCount pp f).pipe pp).lev = (s.pipe pp).lev := by rw [State.pipe_pipeCount h]
theorem State.pipeCount_wf (h : swf {} s.pipes = true) {f : PipeCtr → PipeCtr} : swf {} (s.pipeCount pp f).pipes = true :=
  State.updPipe_wf h _

/-- A BIN node as it is from its deadline on: Late, its items discarded. -/
def Bin.givenUp (b : Bin) : Bin := { b with st := .late, items := [] }

/-- A BIN node of the pipeline that is replaced by one of its frame. -/
theorem State.mem_bins_putBin (h : swf {} s.pipes = true) {b b' : Bin} (hb : b ∈ (s.pipe pp).bins) (hf : b'.frame = b.frame) :
    b' ∈ ((s.putBin pp b').pipe pp).bins := by
  rw [State.putBin, State.updPipe, State.pipe_setPipe_same h]
  exact List.mem_map.mpr ⟨b, hb, if_pos hf.symm⟩

/-- At its deadline the running BIN node is given up, and what follows leaves the BIN nodes as they are. -/
theorem binNodeLate_due (h : swf {} s.pipes = true) {b : Bin} (hb : (s.pipe pp).runningBin = some b) (hd : b.dl ≤ s.clk) :
    Answers (.binNodeLate pp) s fun t => (t.pipe pp).bins = ((s.putBin pp b.givenUp).pipe pp).bins := by
  have hput : swf {} (s.putBin pp b.givenUp).pipes = true := State.updPipe_wf h _
  have hexec : exec (.binNodeLate pp) s = execBinNodeLate pp s := rfl
  unfold Answers
  rw [hexec, execBinNodeLate]
  simp only [hb, if_neg (Nat.not_lt.mpr hd)]
  refine ⟨_, rfl, ?_⟩
  rw [State.pipe_of_pipes (foldl_pipes _ (fun _ _ => State.finishLaunch_pipes ..) _ _)]
  exact (State.dropStrip_sameButRob (State.pipeCount_wf hput) _).bins.trans (State.pipeCount_bins hput _)

/-! ### A chain that ends (14 R385, R388) -/

/-- A pipeline that a chain has left at a level. -/
def Pipe.withoutChain (p : Pipe) (c : Chain) (level : Nat) : Pipe := { p with
  chains := p.chains.filter (fun y => !(y.frame == c.frame && y.ix == c.ix)), lev := sput 0 p.lev c.ix level
  seen := sput false p.seen c.ix true }

/-- After a chain has left its pipeline, its history, its slots and its work change no more of the pipelines than reorder buffers. -/
theorem State.endChain_sameButRob (h : swf {} s.pipes = true) (c : Chain) (level : Nat) (late : Bool) :
    SameButRob (s.setPipe pp ((s.pipe pp).withoutChain c level)) (s.endChain pp c level late) := by
  unfold State.endChain
  refine SameButRob.dropStrip (.of_pipes (State.setPipe_wf h) ?_) _
  rw [foldl_freeSlot_pipes, State.putHist_pipes]
  rfl

/-- A chain that ends leaves its pipeline, its level kept for the chains of its index. -/
theorem State.endChain_ended (h : swf {} s.pipes = true) (hl : swf 0 (s.pipe pp).lev = true) (c : Chain) (level : Nat) (late : Bool) :
    ChainEnded (s.endChain pp c level late) pp c level := by
  have hrest := State.endChain_sameButRob (pp := pp) h c level late
  constructor
  · rw [hrest.chains, State.pipe_setPipe_same h]
    rintro y hy ⟨hf, hi⟩
    simpa [hf, hi] using (List.mem_filter.mp hy).2
  · rw [hrest.lev, State.pipe_setPipe_same h]
    exact sget_sput_same hl

/-- A chain that is skipped ends at level 5. -/
theorem State.skipChain_ended (h : swf {} s.pipes = true) (hl : swf 0 (s.pipe pp).lev = true) (c : Chain) :
    ChainEnded (s.skipChain pp c) pp c 5 :=
  State.endChain_ended (State.pipeCount_wf h) ((State.pipeCount_lev h _).symm ▸ hl) c 5 false

/-- The first chain of a pipeline, released with a BIN node that is Late, is skipped (14 R374). -/
theorem chainRelease_late (hpp : pp < 4) {c : Chain} {b : Bin} (hc : (s.pipe pp).chains.head? = some c) (hst : c.st = .pending)
    (hr : c.r ≤ s.clk) (hb : (s.pipe pp).bins.find? (fun (b : Bin) => b.frame == c.frame) = some b) (hlate : b.st = .late) :
    exec (.chainRelease (c.ix * 4 + pp)) s = .next (s.skipChain pp c) := by
  have hexec : exec (.chainRelease (c.ix * 4 + pp)) s = execChainRelease (c.ix * 4 + pp) s := rfl
  have hpipe : (c.ix * 4 + pp) % 4 = pp := by omega
  have hix : (c.ix * 4 + pp) / 4 = c.ix := by omega
  have hturn : ¬ (c.ix ≠ c.ix ∨ c.st ≠ .pending ∨ s.clk < c.r) := by simp [hst, hr]
  rw [hexec, execChainRelease]
  simp only [hpipe, hix, hc, if_neg hturn, hb, Option.map_some, hlate]

/-- Settles O46: a BIN node that is due is put down as Late without its items, and a chain released with a Late one is skipped. -/
theorem lateBinNodeSkipsItsChains : Obligations.LateBinNodeSkipsItsChains := by
  intro s pp hpp hpipes hlev
  constructor
  · intro b hb hd
    obtain ⟨t, ht, hbins⟩ := binNodeLate_due hpipes hb hd
    exact ⟨t, ht, b.givenUp, hbins ▸ State.mem_bins_putBin hpipes (List.mem_of_find?_eq_some hb) rfl, rfl, rfl, rfl⟩
  · intro c b hc hst hr hb hlate
    exact ⟨_, chainRelease_late hpp hc hst hr hb hlate, State.skipChain_ended hpipes hlev c⟩

end Sys2Proof.Machine
end

section
/-! The control queue: the bytes that a write of a span leaves, the end of a command, and the commands that end as MALFORMED
(18 R460-R462). -/
namespace Sys2Proof.Machine
open Sys2Proof.Says

/-! ### Spans written -/

/-- A write stores the low bytes of its number alone. -/
theorem memWrite_mod (b : Memory) (a n x : Nat) : memWrite b a n (x % 256 ^ n) = memWrite b a n x := by
  induction n generalizing b a x with
  | zero => rfl
  | succ n ih =>
    have hlow : x % 256 ^ (n + 1) % 256 = x % 256 := Nat.mod_mod_of_dvd x ⟨256 ^ n, Nat.pow_succ'⟩
    have hhigh : x % 256 ^ (n + 1) / 256 = x / 256 % 256 ^ n := by rw [Nat.pow_succ', Nat.mod_mul_right_div_self]
    simp only [memWrite, hlow, hhigh, ih]

/-- Two writes one after the other in memory are the write of both. -/
theorem memWrite_append (b : Memory) (a k n x : Nat) :
    memWrite (memWrite b a k x) (a + k) n (x / 256 ^ k) = memWrite b a (k + n) x := by
  induction k generalizing b a x with
  | zero => simp [memWrite]
  | succ k ih =>
    have hk : k + 1 + n = k + n + 1 := by omega
    rw [hk, memWrite, memWrite, ← ih, Nat.pow_succ', ← Nat.div_div_eq_div_mul, show a + (k + 1) = a + 1 + k by omega]

/-- A write of a span, granule by granule, writes the bytes it names. -/
theorem Sram.writeSpan_bytes (fuel : Nat) (m : Sram) (pa n x : Nat) (psn : Bool) (h : n ≤ fuel) :
    (m.writeSpan pa fuel n x psn).bytes = memWrite m.bytes pa n x := by
  induction fuel generalizing m pa n x with
  | zero => rw [Nat.le_zero.mp h]; rfl
  | succ f ih =>
    unfold Sram.writeSpan
    split
    · next h0 => rw [h0]; rfl
    · next h0 =>
      have hk : 0 < min n (32 - pa % 32) ∧ min n (32 - pa % 32) ≤ n := by omega
      generalize min n (32 - pa % 32) = k at hk
      have hpow : 2 ^ (8 * k) = 256 ^ k := by rw [Nat.pow_mul]
      simp only [hpow]
      rw [ih _ _ _ _ (by omega), Sram.write_bytes, memWrite_mod, memWrite_append, Nat.add_sub_cancel' hk.2]

/-! ### The end of a command -/

/-- A span that joins the traffic of an edge stop changes nothing but the traffic. -/
theorem State.stopSpan_frame (s : State) (edge pa n : Nat) :
    s.stopSpan edge pa n = { s with traffic := (s.stopSpan edge pa n).traffic } := State.addTraffic_frame ..

/-- A record that is written as a release changes SRAM and the traffic. -/
theorem State.relWrite_frame (s : State) (pa n x : Nat) :
    s.relWrite pa n x = { s with mem := (s.relWrite pa n x).mem, traffic := (s.relWrite pa n x).traffic } := by
  unfold State.relWrite
  rw [State.stopSpan_frame]
  rfl

/-- The bytes of a record that is written as a release. -/
@[simp] theorem State.relWrite_bytes (s : State) (pa n x : Nat) : (s.relWrite pa n x).mem.bytes = memWrite s.mem.bytes pa n x := by
  rw [State.relWrite, State.stopSpan_mem, State.setMem_mem, Sram.writeSpan_bytes _ _ _ _ _ _ (by omega)]

/-- The state once the result of the command at the head is written, where its slice exists (18 R461). -/
def State.resultWritten (s : State) (stat ret : Nat) : State :=
  if s.ptr.cqAddr + 64 ≤ 192 * 2 ^ 24 then s.relWrite (s.ptr.cqAddr + 58) 5 (ret % 2 ^ 32 + stat * 2 ^ 32 + 2 ^ 39) else s

/-- Writing the result changes SRAM and the traffic. -/
theorem State.resultWritten_frame (s : State) (stat ret : Nat) :
    s.resultWritten stat ret = { s with mem := (s.resultWritten stat ret).mem, traffic := (s.resultWritten stat ret).traffic } := by
  unfold State.resultWritten
  split
  · exact State.relWrite_frame ..
  · rfl

@[simp] theorem State.resultWritten_ptr (s : State) (stat ret : Nat) : (s.resultWritten stat ret).ptr = s.ptr := by
  rw [State.resultWritten_frame]

/-- A command that ends: its result is written, `CQHEAD` advances, CMDDONE is journalled. -/
theorem State.cmdDone_eq (s : State) (cmd stat ret ctx : Nat) :
    let s1 := s.resultWritten stat ret
    s.cmdDone cmd stat ret ctx =
      ({ s1 with ptr := { s1.ptr with cqhead := (s.ptr.cqhead + 1) % 2 ^ 32, begun := false } } : State).journal 64 0 s.ptr.cqhead 7 ctx
        (cmd + stat * 256 + ret % 2 ^ 32 * 2 ^ 32) := rfl

/-- A command that ends changes SRAM, the pointer block and the traffic. -/
theorem State.cmdDone_frame (s : State) (cmd stat ret ctx : Nat) :
    let t := s.cmdDone cmd stat ret ctx
    t = { s with mem := t.mem, ptr := t.ptr, traffic := t.traffic } := by
  simp only
  rw [State.cmdDone_eq, State.resultWritten_frame]
  rfl

/-- The result of a command as it is read back: `RET`, `CSTAT` and DONE (18 R461). -/
theorem memRead_resultWritten {s : State} {stat ret : Nat} (hin : s.ptr.cqAddr + 64 ≤ 192 * 2 ^ 24) (hret : ret < 2 ^ 32)
    (hstat : stat < 128) (hm : Memory.wf s.mem.bytes = true) :
    memRead (s.resultWritten stat ret).mem.bytes (s.ptr.cqAddr + 58) 5 = ret + stat * 2 ^ 32 + 2 ^ 39 := by
  rw [State.resultWritten, if_pos hin, State.relWrite_bytes, memRead_memWrite_same hm]
  omega

/-- What `cmdDone` does is what the end of a command is said to be. -/
theorem State.cmdDone_ends (s : State) (cmd stat ret ctx : Nat) : CommandEnds s (s.cmdDone cmd stat ret ctx) stat ret := by
  have hptr := s.resultWritten_ptr stat ret
  rw [State.cmdDone_eq]
  refine ⟨rfl, ?_, ?_, fun hin hret hstat hm => memRead_resultWritten hin hret hstat hm⟩
  · change (s.resultWritten stat ret).ptr.cqtail = _
    rw [hptr]
  · rw [State.journal_jmade]
    change ((s.resultWritten stat ret).ptr.jmade + 1) % _ = _
    rw [hptr]

/-! ### The command at the head -/

/-- The state once the command at the head has been read: a command in progress is not read again (18 R460). -/
def State.headRead (s : State) : State := if s.ptr.begun then s else (s.devRead s.ptr.cqAddr 64).2

/-- Reading the command at the head changes SRAM and the traffic. -/
theorem State.headRead_frame (s : State) : s.headRead = { s with mem := s.headRead.mem, traffic := s.headRead.traffic } := by
  unfold State.headRead
  split
  · rfl
  · rw [State.devRead, State.stopSpan_frame]
    rfl

@[simp] theorem State.headRead_ptr (s : State) : s.headRead.ptr = s.ptr := by rw [State.headRead_frame]

@[simp] theorem State.headRead_bytes (s : State) : s.headRead.mem.bytes = s.mem.bytes := by
  unfold State.headRead
  split
  · rfl
  · exact State.devRead_bytes ..

/-- A command that ends right after it has been read, with `RET` 0: nothing changes but the queue, the journal, memory and the traffic. -/
theorem headRead_cmdDone_refuses {s : State} {i : Instr} {cmd stat ctx : Nat}
    (h : exec i s = .next (s.headRead.cmdDone cmd stat 0 ctx)) : Refuses i s stat := by
  refine ⟨_, h, ?_, ?_⟩
  · rw [State.cmdDone_frame, State.headRead_frame]
  · have hends := s.headRead.cmdDone_ends cmd stat 0 ctx
    rwa [CommandEnds, State.headRead_ptr, State.headRead_bytes] at hends

section
variable {s : State} {w code used : Nat} {body : Nat → State → CmdEnd}
variable (htakes : s.takesCommands = true) (hin : s.ptr.cqAddr + 64 ≤ 192 * 2 ^ 24) (hsound : Sound s s.ptr.cqAddr 64)
  (hw : w = memRead s.mem.bytes s.ptr.cqAddr 64)

include hw

/-- The code of a command is what its record holds above bit 504. -/
theorem commandCode_eq : bitsN w 511 504 = w / 2 ^ 504 := by
  have hlt := memRead_lt s.mem.bytes s.ptr.cqAddr 64
  unfold bitsN
  omega

include hin hsound

/-- A command event reads a command without poison as its bytes stand. -/
theorem commandHead_eq : (if 192 * 2 ^ 24 < s.ptr.cqAddr + 64 then (none, s) else
    if s.ptr.begun then (some (memRead s.mem.bytes s.ptr.cqAddr 64), s) else s.devRead s.ptr.cqAddr 64) = (some w, s.headRead) := by
  have hread : (s.devRead s.ptr.cqAddr 64).1 = some w := by simp [State.devRead, Sram.readSpan_sound hsound, hw]
  rw [if_neg (Nat.not_lt.mpr hin), State.headRead]
  split
  · rw [hw]
  · rw [← hread]

include htakes

/-- A code that is not listed ends the command as MALFORMED, whichever command event finds it (18 R461). -/
theorem execCommand_unlisted (h : w / 2 ^ 504 = 0 ∨ 20 < w / 2 ^ 504) :
    execCommand code used s body = .next (s.headRead.cmdDone (w / 2 ^ 504) 1 0 0) := by
  unfold execCommand
  simp only [htakes, Bool.not_true, Bool.false_eq_true, if_false, commandHead_eq hin hsound hw, commandCode_eq hw]
  rw [if_pos h]

/-- An operand bit that is not used and is not 0 ends the command as MALFORMED (18 R461). -/
theorem execCommand_unusedBit (hcode : w / 2 ^ 504 = code) (hbit : w % 2 ^ used ≠ 0) :
    execCommand code used s body = .next (s.headRead.cmdDone (w / 2 ^ 504) 1 0 0) := by
  have hused : used ≠ 0 := by
    rintro rfl
    exact hbit (Nat.mod_one w)
  have hlow : bitsN w (used - 1) 0 = w % 2 ^ used := by
    rw [bitsN, Nat.pow_zero, Nat.div_one, Nat.sub_zero, Nat.sub_add_cancel (Nat.pos_of_ne_zero hused)]
  have hunused : used ≠ 0 ∧ w % 2 ^ used ≠ 0 := ⟨hused, hbit⟩
  unfold execCommand
  simp only [htakes, Bool.not_true, Bool.false_eq_true, if_false, commandHead_eq hin hsound hw, commandCode_eq hw, hlow]
  rw [if_neg (Decidable.not_not.mpr hcode), if_pos hunused, ite_self]

end

/-! ### The command events -/

/-- The command events, with the code of each and its lowest operand bit (18 R462). -/
def commandEvents : List (Instr × Nat × Nat) :=
  [(.ctxCreate, 1, 438), (.ctxDestroy, 2, 459), (.segCommit, 3, 433), (.shootdown, 4, 395), (.hwinSet, 5, 427), (.exportSet, 6, 430),
    (.routeSet, 7, 438), (.hodPlace, 8, 425), (.ringSet, 9, 432), (.pipeSet, 10, 431), (.pipeEnable, 11, 462), (.pipeDisable, 12, 462),
    (.resume, 13, 426), (.kill, 14, 427), (.pswap, 15, 246), (.margin, 16, 463), (.lifecycle, 17, 435), (.dpTrain, 18, 457),
    (.auxXfer, 19, 308), (.attest, 20, 438)]

/-- PSWAP runs as a command while no swap is in progress (16 R446). -/
theorem exec_pswap {s : State} (h : s.swap = none) : ∃ body, exec .pswap s = execCommand 15 246 s body := by
  have hexec : exec .pswap s = execPswap s := rfl
  exact ⟨fun w s1 => s1.swapBegin (bitsN w 463 272) (bitsN w 271 246 * 64), by rw [hexec, execPswap, h]⟩

/-- Every command event runs as a command of its code and operands (18 R460, R462). -/
theorem exec_commandEvent {s : State} (hswap : s.swap = none) {e : Instr × Nat × Nat} (he : e ∈ commandEvents) :
    ∃ body, exec e.1 s = execCommand e.2.1 e.2.2 s body := by
  revert e
  simp only [commandEvents, List.forall_mem_cons]
  exact ⟨⟨_, execCtxCreate.eq_def s⟩, ⟨_, execCtxDestroy.eq_def s⟩, ⟨_, execSegCommit.eq_def s⟩, ⟨_, execShootdown.eq_def s⟩,
    ⟨_, execHwinSet.eq_def s⟩, ⟨_, execExportSet.eq_def s⟩, ⟨_, execRouteSet.eq_def s⟩, ⟨_, execHodPlace.eq_def s⟩,
    ⟨_, execRingSet.eq_def s⟩, ⟨_, execPipeSet.eq_def s⟩, ⟨_, execPipeEnable.eq_def s⟩, ⟨_, execPipeDisable.eq_def s⟩,
    ⟨_, execResume.eq_def s⟩, ⟨_, execKill.eq_def s⟩, exec_pswap hswap, ⟨_, execMargin.eq_def s⟩,
    ⟨_, execLifecycle.eq_def s⟩, ⟨_, execDpTrain.eq_def s⟩, ⟨_, execAuxXfer.eq_def s⟩, ⟨_, execAttest.eq_def s⟩,
    List.forall_mem_nil _⟩

/-- Settles O50: every command event runs as a command, which ends as MALFORMED for a code that is not listed and for an unused bit. -/
theorem commandRecords : Obligations.CommandRecords := by
  intro s w htakes hin hsound hswap hw e he
  obtain ⟨body, hexec⟩ := exec_commandEvent hswap he
  constructor
  · intro hunlisted
    exact headRead_cmdDone_refuses (hexec.trans (execCommand_unlisted htakes hin hsound hw hunlisted))
  · intro hcode hbit
    exact headRead_cmdDone_refuses (hexec.trans (execCommand_unusedBit htakes hin hsound hw hcode hbit))

end Sys2Proof.Machine
end
